-- ==== Sys2Proof/Word.lean ====
section
/-!
DEFINITION. The word types of the TB5120 model and their plainest arithmetic.
-/

namespace Sys2Proof

/-- A 32-bit control word. -/
abbrev Word := BitVec 32

/-- A 64-bit double word: Order results, host addresses, time pairs. -/
abbrev DWord := BitVec 64

/-- A byte of a frame, of a payload or of host memory. -/
abbrev Byte := BitVec 8

/-- A sparse map: keys strictly rising, no entry equal to what an unlisted key reads as. -/
abbrev Sparse (α : Type) := List (Nat × α)

/-- Sets of numbers (masks of islands, lanes, groups, in-flight frames) as lists without repeats. -/
abbrev NatSet := List Nat

end Sys2Proof
end

