-- ==== Sys2Proof/Syntax/Basic.lean ====
section
/-!
DEFINITION. Names shared by the operands of every command: status codes (R10) and the operands of the
start-up, power, host-interface, port and fault commands (files 02, 03, 04, 05 and 16 of the spec).
A number operand is a plain number; a command naming a unit past the range of R27 is ill-formed (WellFormed).
-/

namespace Sys2Proof

/-- The status codes of R10. -/
inductive Status where
  | ok | pending | privDenied | badOpcode | badOperand | range | fenced | busy | timeout | noRoom | notFound
  | existsAlready | epochBusy | epochStale | keyBusy | keyAbsent | nonceExhausted | authFail | causePresent
  | notAcked | incomplete | bistFail | conditions | trainFail | governed
deriving DecidableEq, Repr

/-- The code of each status, from the table of R10. -/
def Status.code : Status → Nat
  | .ok => 0x0000 | .pending => 0x0001 | .privDenied => 0x0101 | .badOpcode => 0x0102 | .badOperand => 0x0103
  | .range => 0x0104 | .fenced => 0x0201 | .busy => 0x0202 | .timeout => 0x0203 | .noRoom => 0x0301
  | .notFound => 0x0302 | .existsAlready => 0x0303 | .epochBusy => 0x0401 | .epochStale => 0x0402
  | .keyBusy => 0x0501 | .keyAbsent => 0x0502 | .nonceExhausted => 0x0503 | .authFail => 0x0504
  | .causePresent => 0x0601 | .notAcked => 0x0602 | .incomplete => 0x0701 | .bistFail => 0x0702
  | .conditions => 0x0703 | .trainFail => 0x0801 | .governed => 0x0802

/-- A host payload of an Order (R98): its address and length, and for an Order that reads it the bytes read there.
The bytes are host memory, which is outside the device, so the command that starts the Order carries them. -/
structure Payload where
  addr : Nat
  len : Nat
  data : List Byte := []
deriving DecidableEq, Repr

/-- The outcome of one quick BIST (R80, R81) of an island, met by the boot sequence. -/
inductive BistOutcome where
  | pass | fail | incomplete | conditions
deriving DecidableEq, Repr

/-- What the boot sequence meets outside the chip or in its arrays (R69 to R81). -/
structure BootEnv where
  /-- `BOOT_SRC` at step 1 (R70). -/
  bootSrc : Bool
  /-- No fuse word failed its check on two successive reads (R71). -/
  fusesGood : Bool
  /-- `none`: the flash did not answer within 1 ms (R76); else copies A and B as read. -/
  flash : Option (List Byte × List Byte)
  /-- Tile and measured latency of each Causeway link that trained (R79). -/
  causeway : List (Nat × Word)
  /-- Island code and outcome of each quick BIST that did not pass (R81). -/
  bist : List (Nat × BistOutcome)
deriving DecidableEq, Repr

/-- How a mailbox container comes to the boot ROM (R77, R78): read whole at once; its read has only started; a started
read ends; or the read ends in a PCI Express error. -/
inductive MailboxRead where
  | whole (bytes : List Byte)
  | started
  | finished (bytes : List Byte)
  | dmaError
deriving DecidableEq, Repr

/-- Training results met when a domain is powered or a unit unfenced (R50, R79, R456). -/
structure TrainEnv where
  /-- Tile and latency of each Causeway link that trained. -/
  causeway : List (Nat × Word) := []
  /-- DRAM channels that trained (R342): channel and the Gbit per rank MR8 reports. -/
  channels : List (Nat × Nat) := []
  /-- The settings the training found: channel, rank, bit, read delay, write delay, Vref. -/
  settings : List (Nat × Nat × Nat × Nat × Nat × Nat) := []
  /-- `false`: UNIT_UNFENCE has started its repair and not ended it (CAB_REPAIR reads 1, R456). -/
  ended : Bool := true
deriving DecidableEq, Repr

/-- An Order as the device fetches it (R96 to R98): its 32 bytes, the bytes at its payload address for an Order that reads
it, and whether either read ended in a PCI Express error. -/
structure OrderFetch where
  bytes : List Byte
  payload : List Byte := []
  fetchErr : Bool := false
  payloadErr : Bool := false
deriving DecidableEq, Repr

/-- A doorbell write of a packet DMA queue (R95, R120): the tail with the descriptors that stand in the slots it posts, in slot order, `none`
where their fetch ends in a PCI Express error, or the completion head. -/
inductive DmaDoorbell where
  | tail (index : Nat) (descriptors : List (Option (List Byte)))
  | cplHead (index : Nat)
deriving DecidableEq, Repr

/-- A register outside the Orders: a word of BAR0 (R87), of the window BAR2 (R86, R430), of the configuration header of the endpoint
(R85) or of a Cabin (R32). -/
inductive RegAddr where
  | bar0 (off : Nat)
  | bar2 (off : Nat)
  | config (off : Nat)
  | cabin (caddr : Nat)
deriving DecidableEq, Repr

/-- What stands in host memory in the slots that a tail doorbell posts: the slots whose Order has FENCE (R109), or the descriptors of a packet
DMA queue (R120). -/
structure Posted where
  fences : List Nat := []
  descriptors : List (Option (List Byte)) := []
deriving DecidableEq, Repr

/-- The operand of FIELD_READ (R117). -/
structure FieldReadOps where
  caddr : Nat
  count : Nat
  live : Bool
  payload : Option Payload
deriving DecidableEq, Repr

/-- One entry of FIELD_WRITE (R118). -/
structure FieldEntry where
  caddr : Nat
  value : Word
  mask : Word
deriving DecidableEq, Repr

/-- The operand of FIELD_WRITE (R118): one inline entry, or the entries of a payload and its length. -/
structure FieldWriteOps where
  isList : Bool
  payloadLen : Nat
  entries : List FieldEntry
deriving DecidableEq, Repr

/-- Operands of PORT_SET (R139). -/
structure PortSetOps where
  port : Nat
  mode : Nat
  an : Bool
  train : Bool
  rsFec : Bool
  quietOk : Bool
  adminDown : Bool
  mgmt : Bool
  advMask : Word
  maxFrame : Nat
  pfcEn : Byte
  recclk : BitVec 2
  mgRxq : Nat
  mgTxq : Nat
deriving DecidableEq, Repr

/-- Operands of PORT_STATE (R141). -/
structure PortStateOps where
  port : Nat
  mgmt : Bool
deriving DecidableEq, Repr

/-- Operands of FAILOVER_SET (R152). `payload` is whether the members stood in a payload, and its length. -/
structure FailoverSetOps where
  group : Nat
  kind : Nat
  revert : Bool
  quietStandby : Bool
  wtr : Nat
  count : Nat
  members : List Nat
  payload : Option Nat
deriving DecidableEq, Repr

/-- Transmit taps and swing of a lane (R128). -/
structure TxSet where
  cm2 : Int
  cm1 : Int
  c0 : Int
  c1 : Int
  swing : Nat
deriving DecidableEq, Repr

/-- Operands of LANE_TUNE SET_TX (R134). -/
structure LaneTuneTxOps where
  lane : Nat
  tx : TxSet
deriving DecidableEq, Repr

/-- What the link partner sends in Clause 73 negotiation (R126, R127): the standard modes it advertises, bit m for MODE m, its RS-FEC request,
and its unformatted page after the message page with the Efnus OUI, `none` from a partner that sends no such pages. -/
structure Partner where
  modes : Word
  rsFec : Bool
  page : Option (BitVec 11)
deriving DecidableEq, Repr

/-- Operand of FAULT_CLEAR (R445). -/
structure FaultClearOps where
  island : Nat
  all : Bool
deriving DecidableEq, Repr

/-- Operands of UNIT_FENCE and UNIT_UNFENCE (R455, R456). -/
structure UnitOps where
  island : Nat
  sub : Nat
deriving DecidableEq, Repr

/-- Operands of RELIEF_ASSIGN ASSIGN and RETURN (R460). -/
structure ReliefOps where
  platform : Nat
  goNow : Bool
deriving DecidableEq, Repr

end Sys2Proof
end

