-- ==== Sys2Proof/Syntax/Cipher.lean ====
section
/-!
DEFINITION. Operands of the cipher commands (file 13).
-/

namespace Sys2Proof

/-- Operands of KEY_WRITE (R356); the payload holds the key. -/
structure KeyWriteOps where
  cls : Nat
  keyBits : Nat
  slot : Nat
  fixed : Nat
  payload : Payload
deriving DecidableEq, Repr

/-- Operands of KEY_ERASE (R357). -/
structure KeyEraseOps where
  cls : Nat
  slot : Nat
deriving DecidableEq, Repr

/-- Operands of SA_SET with a payload: OP 0 SECY, OP 1 INSTALL and OP 4 READ (R367). -/
structure SaRecordOps where
  port : Nat
  rx : Bool
  an : Nat
  payload : Payload
deriving DecidableEq, Repr

/-- Operands of SA_SET without a payload: OP 2 ENABLE_TX and OP 3 RETIRE (R367). -/
structure SaOps where
  port : Nat
  rx : Bool
  an : Nat
deriving DecidableEq, Repr

/-- Operands of CIPHER_JOB (R378): the payload holds the descriptor of R373. -/
structure CipherJobOps where
  payload : Payload
deriving DecidableEq, Repr

/-- What a lookaside job's run meets: the bytes its engine reads from host memory (SRC, AAD and, for GCM decryption, the
expected tag) and a parity error, `true` when the rerun met it again (R379). -/
structure JobEnv where
  src : List Byte
  aad : List Byte
  tag : List Byte
  parity : Option Bool := none
deriving DecidableEq, Repr

end Sys2Proof
end

