-- ==== Sys2Proof/Syntax/Packet.lean ====
section
/-!
DEFINITION. Operands of the packet-path, table, queue and spill commands (files 06 to 12 of the spec). Values the device
measures or meets on its wires and in its arrays (a timestamp term, a parity error and whether its repeat is clean) are
operands, since nothing in the device's state decides them.
-/

namespace Sys2Proof

/-- What a device finds when it repeats a read that failed its check. -/
inductive Repeat where
  | clean | bad
deriving DecidableEq, Repr

/-- The terms of T_in measured for a frame (R393), in 2^-32 ns. -/
structure TsTerms where
  pFec : Nat := 0
  dSkew : Nat := 0
  dGear : Nat := 0
deriving DecidableEq, Repr

/-- A frame as it arrives on a port (R393): its bytes from the destination address to the last byte before the FCS, as
received. -/
structure FrameIn where
  port : Nat
  bytes : List Byte
  fcsOk : Bool
  ts : TsTerms := {}
  /-- A link cipher parity error met on the frame (R379): the lane of its port, counted from the lowest. -/
  parity : Option Nat := none
deriving DecidableEq, Repr

/-- A bad word of an SRAM table entry (R260): its location or index, the mask of its bad words, whether the control word was read clean,
and the repeat. -/
structure WordDefect where
  loc : Nat
  mask : Nat
  ctl : Bool
  rep : Repeat
deriving DecidableEq, Repr

/-- One that the update engine of a Line meets in a table (R260): Line and table ID. -/
abbrev TableDefect := Nat × Nat × WordDefect

/-- Parity errors met while one frame passes a Line. -/
structure PassDefects where
  /-- Graph memory (R202): the visit of the parser at which it is met, 1 for the first state, whether in the transition entries
  read there, and the repeat. -/
  graph : List (Nat × Bool × Repeat) := []
  /-- Action memory, bundle directory or Course configuration of a Course (R187). -/
  action : List (Nat × Repeat) := []
  /-- Words of SRAM tables that a Course would read bad (R260), by table ID. -/
  sram : List (Nat × WordDefect) := []
  /-- Entries of TCAM tables that match or do not match for a corrupted slice (R261): table ID, position, and whether the entry matches. -/
  tcam : List (Nat × Nat × Bool) := []
  /-- A Ledger word read by a Course's unit (R262): Course, unit, repeat. -/
  ledger : List (Nat × Nat × Repeat) := []
deriving DecidableEq, Repr

/-- A CRC mismatch met on a cell read (R286): the cell of the frame, and the repeat. -/
abbrev CellDefect := Option (Nat × Repeat)

/-- Parity in a Yard's header, account or free-list memory (R288): the Yard, and whether both copies are bad. -/
abbrev HeaderDefect := Option (Nat × Bool)

/-- The port or Siding pseudo-port whose scheduler acts (R298, R300). -/
inductive TxSel where
  | port (p : Nat)
  | siding (n : Nat)
deriving DecidableEq, Repr

/-- What one transmit opportunity meets: parity, cell CRC, the slot terms of T_eg (R394) and link cipher parity. -/
structure TxEnv where
  half : Nat := 0
  line : PassDefects := {}
  cell : CellDefect := none
  header : HeaderDefect := none
  /-- P_slot in 2^-32 ns. -/
  pSlot : Nat := 0
  /-- The lane of the port, counted from the lowest. -/
  parity : Option Nat := none
deriving DecidableEq, Repr

/-- Operands of MIRROR_SET (R312); fields an OP does not use are absent from its row. -/
structure MirrorSetOps where
  session : Nat
  dest : Nat
  tc : Nat
  trunc : Nat
deriving DecidableEq, Repr

/-- Operands of MIRROR_SET ATTACH and DETACH (R312). -/
structure MirrorAttachOps where
  session : Nat
  port : Nat
  egress : Bool
deriving DecidableEq, Repr

/-- Operands of QUEUE_SET OP 0 (R320): the 128-byte policy record. -/
structure QueuePortOps where
  port : Nat
  len : Nat
  record : List Byte
deriving DecidableEq, Repr

/-- Operands of QUEUE_SET OP 1 (R320). -/
structure QueueQueueOps where
  queue : Nat
  minRate : Nat
  maxRate : Nat
  minBurst : Nat
  maxBurst : Nat
  level : Nat
  weight : Nat
  pfcPri : Nat
  limitPct : Nat
deriving DecidableEq, Repr

/-- Operands of QUEUE_SET OP 2 and OP 3 (R320): the group, and the payload with the mask or for it. -/
structure QueueMcOps where
  group : Nat
  payload : Payload
deriving DecidableEq, Repr

/-- Operands of PROGRAM_LOAD and PARSER_LOAD (R190, R206): the named Line pairs and the image. -/
structure LoadOps where
  lines : Nat
  image : Payload
deriving DecidableEq, Repr

/-- Operands of EPOCH_COMMIT (R229). -/
structure EpochCommitOps where
  lines : Nat
  wait : Bool
  expectValid : Bool
  expect : Nat
  ageMs : Nat
  timeoutMs : Nat
deriving DecidableEq, Repr

/-- Operands of EPOCH_STATUS SELECT 1 (R231). -/
structure EpochBankOps where
  egress : Bool
  bank : Nat
  line : Nat
deriving DecidableEq, Repr

/-- The list operands of the table Orders (R265). -/
structure TableOps where
  lines : Nat
  egress : Bool
  epoch : Bool
  deep : Bool
  absentOk : Bool
  count : Nat
  payload : Payload
deriving DecidableEq, Repr

/-- Operands of TABLE_REHASH (R269). -/
structure RehashOps where
  line : Nat
  egress : Bool
  id : Nat
deriving DecidableEq, Repr

/-- Operands of TCAM_RAW (R270). -/
structure TcamRawOps where
  line : Nat
  egress : Bool
  w : Nat
  slice : Nat
  payload : Payload
deriving DecidableEq, Repr

/-- What a scrub of one TCAM slice finds (R261): nothing, or a bad read with its repeat and bad words. -/
abbrev ScrubFind := Option (Nat × Repeat)

/-- A bad read of the sweeper at a location (R260): its bad words, whether the control word was read clean, and the repeat. -/
abbrev SweepFind := Option (Nat × Bool × Repeat)

/-- What a segment's return meets (R335). -/
structure ReturnEnv where
  /-- The primary header copy is bad. -/
  primaryBad : Bool := false
  /-- The mirror header copy is bad. -/
  mirrorBad : Bool := false
  /-- Cells whose CRC failed: cell of the segment and the repeated read. -/
  cells : List (Nat × Repeat) := []
deriving DecidableEq, Repr

/-- Operands of SPILL_SET QUARRY with ENABLE 1 (R348). -/
structure SpillEnableOps where
  quarry : Nat
  speed : Nat
  channels : Nat
  ranks : Nat
  grain : Nat
  bankXor : Bool
deriving DecidableEq, Repr

/-- What a Quarry's training meets (R342): the Gbit per rank MR8 reports for each channel that trained, by channel
number, with the settings found. -/
structure DramEnv where
  trained : List (Nat × Nat) := []
  /-- Settings found: channel, rank, bit, read delay, write delay, Vref. -/
  settings : List (Nat × Nat × Nat × Nat × Nat × Nat) := []
deriving DecidableEq, Repr

/-- Operands of SPILL_SET QUARRY with ENABLE 0 (R348). -/
structure SpillDisableOps where
  quarry : Nat
  timeoutMs : Nat
deriving DecidableEq, Repr

/-- Operands of SPILL_SET QUEUE (R348). -/
structure SpillQueueOps where
  queue : Nat
  allow : Nat
  thresh : Nat
  refill : Nat
deriving DecidableEq, Repr

/-- Operands of DRAM_TRAIN (R349). -/
structure DramTrainOps where
  channel : Nat
  rank : Nat := 0
  dqBit : Nat := 0
  rd : Nat := 0
  wr : Nat := 0
  vref : Nat := 0
deriving DecidableEq, Repr

end Sys2Proof
end

