-- ==== Sys2Proof/Syntax/Signal.lean ====
section
/-!
DEFINITION. Operands of the Signal Box and BIST commands (files 17 and 18).
-/

namespace Sys2Proof

/-- One microword a Signalman executes (R464), with what its bus operation meets outside the device: the bytes a DMA_RD
reads, whether a neighbour has answered at once (else the word's bus operation stays open until MW_BUS_DONE), and a parity
error of a patch word with its re-fetch (R473). -/
structure MwIn where
  word : BitVec 112
  dma : List Byte := []
  answered : Bool := true
  parity : Option Repeat := none
deriving DecidableEq, Repr

/-- Operands of MICRO_CALL CALL (R478). -/
structure MicroCallOps where
  sm : Nat
  entry : Nat
  arg0 : DWord
  arg1 : DWord
deriving DecidableEq, Repr

/-- What MEM_READ and MEM_WRITE of the debug port address (R480). -/
inductive DbgSpace where
  | control (sm addr : Nat)
  | patch (sm word : Nat)
  | trap (sm entry : Nat)
  | localMem (sm off len : Nat)
  | scratch (sm reg : Nat)
  | field (caddr : Nat)
deriving DecidableEq, Repr

/-- Operands of TRACE_RUN (R482): a Line's Cabin direction and number, a bank (0 current, 1 draining, 2 staged), and the Signalman,
place and length of the frame image in its local memory. -/
structure TraceOps where
  sm : Nat
  egress : Bool
  line : Nat
  bank : Nat
  off : Nat
  len : Nat
deriving DecidableEq, Repr

/-- Operands of BIST_RUN (R491). -/
structure BistOps where
  island : Nat
  sub : Nat
  type : Nat
  ret : Bool := false
  payload : Option Payload := none
deriving DecidableEq, Repr

/-- The conditions of R485 at the start of a run: the island's clock and its rails lie in their windows. -/
structure BistCond where
  clock : Bool := true
  supply : Bool := true
deriving DecidableEq, Repr

/-- What a run of the patterns gives (R488, R490), and what the retraining of RETURN meets. -/
structure BistFind where
  signature : Nat
  durationUs : Nat
  applied : Nat
  expected : Nat
  firstFail : Nat
  train : TrainEnv := {}
deriving DecidableEq, Repr

/-- A target of a test: an island code, and a channel for TYPE 0x05 (R484). -/
structure BistTarget where
  island : Nat
  sub : Nat
deriving DecidableEq, Repr

end Sys2Proof
end

