-- ==== Sys2Proof/Syntax/Time.lean ====
section
/-!
DEFINITION. Operands of the Timetable and telemetry commands (files 14 and 15).
-/

namespace Sys2Proof

/-- Operands of TIME_FREQ (R386): INCREMENT in 2^-32 ns. -/
structure TimeFreqOps where
  increment : Nat
  leave : Bool
deriving DecidableEq, Repr

/-- Operands of TIME_SLEW (R387): OFFSET in 2^-16 ns. -/
structure TimeSlewOps where
  offset : Int
  rate : Nat
  leave : Bool
deriving DecidableEq, Repr

/-- Operands of TIME_STEP MODE 0 (R389). -/
structure TimeStepAbsOps where
  seconds : Nat
  ns : Nat
  leave : Bool
deriving DecidableEq, Repr

/-- Operands of TIME_STEP MODE 1 (R389): OFFSET in ns. -/
structure TimeStepRelOps where
  offset : Int
  leave : Bool
deriving DecidableEq, Repr

/-- A copy of the Timetable's time (R390): of a Tile, or of the commit point of an egress Line. -/
inductive TimeCopy where
  | tile (t : Nat)
  | egress (line : Nat)
deriving DecidableEq, Repr

/-- Operands of DUMP_SET OP 0 (R431). -/
structure DumpOps where
  base : Nat
  periodUs : Nat
  sections : Nat
  count : Nat
  vector : Nat
  en : Bool
  notify : Bool
deriving DecidableEq, Repr

/-- Operands of DUMP_SET OP 1 (R431): the payload holds the 192-byte export record. -/
structure ExportOps where
  portE : Nat
  payload : Payload
deriving DecidableEq, Repr

/-- Operands of DUMP_SET OP 2 (R431): the payload holds the 32-byte IOAM record. -/
structure IoamOps where
  payload : Payload
deriving DecidableEq, Repr

/-- Operands of HIST_SET SET and CLEAR (R423). -/
structure HistOps where
  kind : Nat
  index : Nat
  linear : Bool
  step : Nat
  base : Nat
deriving DecidableEq, Repr

/-- Operands of HIST_SET READ (R423). -/
structure HistReadOps where
  kind : Nat
  index : Nat
  payload : Payload
deriving DecidableEq, Repr

end Sys2Proof
end

