-- ==== Sys2Proof/Syntax.lean ====
section
/-!
DEFINITION. The commands of the TB5120: one constructor for each row of the opcode table, in the table's order but for BIST_RUN's
three rows, with the row's operands. A row that executes an Order names the ring it runs on first.
-/

namespace Sys2Proof

/-- One command: an Order at work, an event on a pin, a lane, a memory or a timer, or a microword of a Signalman. -/
inductive Instr where
  | supplyReset (rail : Nat)
  | supplyResetRelease (ref : Option Nat)
  | systemResetPin
  | sysRstNRelease
  | chipResetRequest (value mask : Word)
  | chipResetStart
  | pcieFundamentalReset
  | functionLevelReset
  | testReset
  | bootSequence (env : BootEnv)
  | mailboxGo (len : Nat) (read : MailboxRead) (env : BootEnv)
  | domainAutoOff (n : Nat)
  | domainPowerUp (n : Nat) (env : TrainEnv)
  | pdModeAuto (n : Nat)
  | pdModeForceOn (n : Nat) (env : TrainEnv)
  | pdModeForceOff (n : Nat)
  | railOutOfRange (rail : Nat)
  | vddFuseHigh
  | refclkSysLost
  | refclkTileLost (tile : Nat)
  | timeRefLost
  | timeRefReturn (hz : Nat)
  | pcieRefclkLost
  | temperatureSample (sensors : List Int) (rails : List Nat)
  | ksTjCtrlWrite (value mask : Word)
  | smbusSummaryRead (addr : Nat)
  | ringEnable (ring : Nat) (cfg : Word)
  | ringDisable (ring : Nat) (cfg : Word)
  | ringTailDoorbell (ring index : Nat) (fences : List Nat)
  | cplHeadDoorbell (ring index : Nat)
  | dmaQueueEnable (q : Nat) (cfg : Word)
  | dmaQueueDisable (q : Nat) (cfg : Word)
  | dmaQueueDoorbell (q : Nat) (bell : DmaDoorbell)
  | orderStart (ring : Nat) (o : OrderFetch)
  | orderPending (ring : Nat)
  | orderCompletion (ring : Nat)
  | msixUnmask (vector : Nat)
  | w1cClear (a : RegAddr) (value : Word)
  | readClear (a : RegAddr)
  | registerWrite (a : RegAddr) (value mask : Word) (posted : Posted)
  | fieldRead (ring : Nat) (ops : FieldReadOps)
  | fieldWrite (ring : Nat) (ops : FieldWriteOps)
  | blockCommit (ring islands : Nat)
  | hostFrameDescriptor (q : Nat) (bytes : List Byte)
  | hostFrameCompletion (q : Nat)
  | toHostDelivery (q : Nat)
  | portSet (ring : Nat) (ops : PortSetOps)
  | portState (ring : Nat) (ops : PortStateOps)
  | failoverSet (ring : Nat) (ops : FailoverSetOps)
  | laneTuneSetTx (ring : Nat) (ops : LaneTuneTxOps)
  | laneTuneFreezeRx (ring lane : Nat)
  | laneTuneRelease (ring lane : Nat)
  | laneTuneReadTx (ring lane : Nat)
  | laneTuneReadBest (ring lane : Nat)
  | anAgreement (port : Nat) (partner : Partner)
  | laneTrainingDone (port : Nat)
  | trainFail (lane : Nat) (best : TxSet) (margin : Nat)
  | backoffExpiry (port : Nat)
  | portAligned (port skewNs : Nat)
  | skewRetry (port skewNs : Nat)
  | losDetected (lane : Nat)
  | lolDetected (lane : Nat)
  | losCleared (lane : Nat)
  | lockRegained (lane : Nat)
  | relockTimeout (lane : Nat)
  | remoteFaultReceived (port : Nat)
  | remoteFaultCleared (port : Nat)
  | rateMatchOverrun (lane : Nat)
  | eyeMarginUpdate (lane mv : Nat)
  | wtrExpiry (group port : Nat)
  | quietEntry (port : Nat)
  | quietRequestReceived (port : Nat)
  | quietAnswerTimeout (port : Nat)
  | quietBeacon (port : Nat)
  | standbyLost (port : Nat)
  | quietWake (port : Nat)
  | wakeBurstReceived (port : Nat)
  | wakeRelock (port : Nat)
  | quietReentry (port : Nat)
  | pfcFrameReceived (port classes : Nat) (quanta : List Nat)
  | pauseFrameReceived (port : Nat)
  | pauseExpiry (port prio : Nat)
  | xoffRefresh (port prio : Nat)
  | mgmtFrameReceived (lane : Nat) (bytes : List Byte)
  | frameReceive (f : FrameIn)
  | ingressLinePass (line half : Nat) (d : PassDefects)
  | copyFormation (half : Nat) (d : HeaderDefect)
  | lastCellWritten (fid : Nat)
  | transmitOpportunity (sel : TxSel) (env : TxEnv)
  | egressMirrorWrite (half : Nat) (d : CellDefect)
  | transmitComplete (port : Nat)
  | copyDiscardWalk (cid : Nat)
  | sidingReentry (line : Nat)
  | mirrorSetDelete (ring session : Nat)
  | mirrorSetSet (ring : Nat) (ops : MirrorSetOps)
  | mirrorSetAttach (ring : Nat) (ops : MirrorAttachOps)
  | mirrorSetDetach (ring : Nat) (ops : MirrorAttachOps)
  | queueSetPort (ring : Nat) (ops : QueuePortOps)
  | queueSetQueue (ring : Nat) (ops : QueueQueueOps)
  | queueSetMcSet (ring : Nat) (ops : QueueMcOps)
  | queueSetMcRead (ring : Nat) (ops : QueueMcOps)
  | programLoad (ring : Nat) (ops : LoadOps)
  | parserLoad (ring : Nat) (ops : LoadOps)
  | epochCommit (ring : Nat) (ops : EpochCommitOps)
  | epochCommitProceed
  | epochCommitTimeout
  | epochDrained
  | epochAgeLimit
  | epochStatusSummary (ring : Nat)
  | epochStatusBank (ring : Nat) (ops : EpochBankOps)
  | tableAdd (ring : Nat) (ops : TableOps) (met : List TableDefect)
  | tableDel (ring : Nat) (ops : TableOps) (met : List TableDefect)
  | tableModReplace (ring : Nat) (ops : TableOps) (met : List TableDefect)
  | tableModRead (ring : Nat) (ops : TableOps) (met : List TableDefect)
  | tableModLedgerWrite (ring : Nat) (ops : TableOps)
  | tableModLedgerRead (ring : Nat) (ops : TableOps)
  | tableModDump (ring : Nat) (ops : TableOps) (met : List TableDefect)
  | tableRehashPending (ring : Nat) (ops : RehashOps) (met : List WordDefect)
  | tableRehashReorder (ring : Nat) (ops : RehashOps)
  | tcamRawRead (ring : Nat) (ops : TcamRawOps)
  | tcamRawWrite (ring : Nat) (ops : TcamRawOps)
  | learnApply (line : Nat) (met : List WordDefect)
  | flapTrackerExpiry (line index : Nat)
  | sweeperVisit (line : Nat) (egress : Bool) (iid loc : Nat) (hit : Bool) (defect : SweepFind)
  | tcamScrub (line : Nat) (egress : Bool) (slice : Nat) (find : ScrubFind)
  | segmentWrite (queue : Nat) (d : CellDefect)
  | segmentAccepted (seg : Nat)
  | prefetchRequest (queue : Nat)
  | segmentReturn (seg : Nat) (env : ReturnEnv)
  | spillReturnAdmission (queue : Nat)
  | dramRefresh (channel : Nat)
  | mr4Poll (channel rank : Nat) (high : Bool)
  | rowIdlePrecharge (channel bank : Nat)
  | selfRefreshEntry (quarry : Nat)
  | selfRefreshExit (quarry : Nat)
  | zqCalibration (channel : Nat)
  | dqsOscMeasure (channel : Nat) (drift : Option Int)
  | dramRetrain (channel : Nat) (env : DramEnv)
  | mapRebuild (quarry : Nat)
  | spillSetEnable (ring : Nat) (ops : SpillEnableOps) (env : DramEnv)
  | spillSetDisable (ring : Nat) (ops : SpillDisableOps)
  | spillDisableDone (quarry : Nat)
  | spillDisableTimeout (quarry : Nat)
  | spillSetQueue (ring : Nat) (ops : SpillQueueOps)
  | dramTrainRetrain (ring : Nat) (ops : DramTrainOps)
  | dramTrainOsc (ring : Nat) (ops : DramTrainOps) (drift : Option Int)
  | dramTrainRead (ring : Nat) (ops : DramTrainOps)
  | dramTrainSet (ring : Nat) (ops : DramTrainOps)
  | keyWrite (ring : Nat) (ops : KeyWriteOps)
  | keyErase (ring : Nat) (ops : KeyEraseOps)
  | saSetSecy (ring : Nat) (ops : SaRecordOps)
  | saSetInstall (ring : Nat) (ops : SaRecordOps)
  | saSetEnableTx (ring : Nat) (ops : SaOps)
  | saSetRetire (ring : Nat) (ops : SaOps)
  | saSetRead (ring : Nat) (ops : SaRecordOps)
  | cipherJob (ring : Nat) (ops : CipherJobOps)
  | lookasideJobRun (engine : Nat) (env : JobEnv)
  | timeFreq (ring : Nat) (ops : TimeFreqOps)
  | timeSlew (ring : Nat) (ops : TimeSlewOps)
  | timeStepAbsolute (ring : Nat) (ops : TimeStepAbsOps)
  | timeStepRelative (ring : Nat) (ops : TimeStepRelOps)
  | timeRead (ring : Nat) (payload : Option Payload)
  | slewEnd
  | holdoverWatchdog
  | ttHoldWdogWrite (value mask : Word)
  | timeCopyLoopMeasure (copy : TimeCopy) (delay : Nat)
  | ppsInCapture (k : Nat)
  | ppsOutPulse (k : Nat)
  | ppsOutPulseEnd (k : Nat)
  | queueDepthSample
  | ipfixMessageClose (portE : Nat)
  | ipfixTemplateSend (portE : Nat)
  | dumpTick
  | dumpRecordWritten
  | dumpSetDump (ring : Nat) (ops : DumpOps)
  | dumpSetExport (ring : Nat) (ops : ExportOps)
  | dumpSetIoam (ring : Nat) (ops : IoamOps)
  | histSetSet (ring : Nat) (ops : HistOps)
  | histSetRead (ring : Nat) (ops : HistReadOps)
  | histSetClear (ring : Nat) (ops : HistOps)
  | ksErrCtrlWrite (value mask : Word)
  | handshakeTimeout (waiting silent : Nat) (records : Bool)
  | faultAck (ring classes : Nat)
  | faultClear (ring : Nat) (ops : FaultClearOps)
  | unitFence (ring : Nat) (ops : UnitOps)
  | unitUnfence (ring : Nat) (ops : UnitOps) (env : TrainEnv)
  | reliefAutoPrepare (district : Nat)
  | reliefAssignAssign (ring : Nat) (ops : ReliefOps)
  | reliefAssignReturn (ring : Nat) (ops : ReliefOps)
  | reliefAssignGo (ring : Nat) (platform : Nat)
  | mwSeqNext (sm : Nat) (w : MwIn)
  | mwSeqJump (sm : Nat) (w : MwIn)
  | mwSeqBranch (sm : Nat) (w : MwIn)
  | mwSeqCall (sm : Nat) (w : MwIn)
  | mwSeqReturn (sm : Nat) (w : MwIn)
  | mwSeqLoop (sm : Nat) (w : MwIn)
  | mwSeqLdloop (sm : Nat) (w : MwIn)
  | mwSeqYield (sm : Nat) (w : MwIn)
  | mwSeqTrapret (sm : Nat) (w : MwIn)
  | mwAluNop (sm : Nat) (w : MwIn)
  | mwAluMov (sm : Nat) (w : MwIn)
  | mwAluImm (sm : Nat) (w : MwIn)
  | mwAluAdd (sm : Nat) (w : MwIn)
  | mwAluSub (sm : Nat) (w : MwIn)
  | mwAluAnd (sm : Nat) (w : MwIn)
  | mwAluOr (sm : Nat) (w : MwIn)
  | mwAluXor (sm : Nat) (w : MwIn)
  | mwAluNot (sm : Nat) (w : MwIn)
  | mwAluShl (sm : Nat) (w : MwIn)
  | mwAluShr (sm : Nat) (w : MwIn)
  | mwAluCmp (sm : Nat) (w : MwIn)
  | mwAluTest (sm : Nat) (w : MwIn)
  | mwBusFread (sm : Nat) (w : MwIn)
  | mwBusFwrite (sm : Nat) (w : MwIn)
  | mwBusDmaRd (sm : Nat) (w : MwIn)
  | mwBusDmaWr (sm : Nat) (w : MwIn)
  | mwBusPost (sm : Nat) (w : MwIn)
  | mwBusFrame (sm : Nat) (w : MwIn)
  | mwBusCjob (sm : Nat) (w : MwIn)
  | mwBusTread (sm : Nat) (w : MwIn)
  | mwBusDone (sm : Nat)
  | microtrapEvent (sm event : Nat)
  | microtrapWatchdog (sm : Nat)
  | microtrapBreak (sm : Nat)
  | microtrapHalt (sm : Nat)
  | microtrapStep (sm : Nat)
  | microtrapBracket (sm : Nat)
  | microCallStatus (ring sm : Nat)
  | microCallRestart (ring sm : Nat)
  | microCallCall (ring : Nat) (ops : MicroCallOps)
  | bistRunRun (ring : Nat) (ops : BistOps) (cond : BistCond)
  | bistRunRead (ring : Nat) (ops : BistOps)
  | bistRunAbort (ring : Nat) (ops : BistOps)
  | tapExtest
  | tapIdcode
  | tapSamplePreload
  | tapDebug
  | tapBypass (code : Nat)
  | dbgStatus (sm : Nat)
  | dbgHalt (sm : Nat)
  | dbgRun (sm : Nat)
  | dbgStep (sm n : Nat)
  | dbgBpSet (sm k addr : Nat)
  | dbgBpClr (sm k : Nat)
  | dbgSaveRead (sm : Nat)
  | dbgMemRead (space : DbgSpace)
  | dbgMemWrite (space : DbgSpace) (value mask : Nat) (bytes : List Byte)
  | dbgTraceRun (ops : TraceOps)
  | dbgTraceRead (egress : Bool) (line : Nat)
  | bistRunEnd (target : BistTarget) (find : BistFind)
  | bistConditionLost (target : BistTarget) (clock supply : Bool)
  | coldStart (smbAddr : Nat)
  | causewayFramingLost (tile : Nat)
  | alignmentLost (port lane : Nat)
  | pcieLinkDown
  | perstNRelease
deriving DecidableEq, Repr

end Sys2Proof
end

