-- ==== Sys2Proof/Decode.lean ====
section
/-!
DEFINITION. The command a word spells. No row of the opcode table gives bits: commands come as events on pins, wires,
memories and timers, and an Order comes as the 32 bytes that `Machine/Operands.lean` takes apart, so no word spells one.
-/

namespace Sys2Proof

/-- The command spelt by a word of `nbits` bits: none, since the table gives no row any bits. -/
def decodeTableWord (_nbits _w : Nat) : Option Instr := none

end Sys2Proof
end

