-- ==== Sys2Proof/Config.lean ====
section
/-!
DEFINITION. What one part fixes (fuses, order code) and the values the spec leaves open. Every constant here is
opaque: nothing can be proved of its value, so a claim holds whatever the value is.
-/

namespace Sys2Proof.Config

/-- The order code fuse: true on a TB5120-S, false on a TB5120-P (R1, R4). -/
opaque linkCipher : Bool
/-- Fused patch decryption key (R71). -/
opaque patchKey : BitVec 256
/-- Fused key revocation bits (R71): bit k set revokes signing key k. -/
opaque revoked : BitVec 4
/-- Fused thermometer code of the minimum security version (R71): the minimum is its number of ones. -/
opaque minSvnFuse : BitVec 63
/-- Fused quick BIST default (R71, R80). -/
opaque quickBist : Bool
/-- Fused vendor lock (R71). -/
opaque vendorLock : Bool
/-- The fused Private Enterprise Number TM_PEN reports (R432). -/
opaque pen : Word
/-- The `n`-th free value: pseudo-random words (R182, R464), counters of cycles (time is left out) and every value the
spec calls undefined where the machine goes on. -/
opaque freeValue : Nat → BitVec 64
/-- Cycles that a clock runs in the tick of the Timetable at the `n`-th draw (R53, R424). -/
opaque clockStep : Nat → Nat → BitVec 8
/-- The generator of a Line (R182): its state after it has run on to its `n`-th draw, and the word that a state gives. Neither is stated. -/
opaque rndStep : BitVec 64 → Nat → BitVec 64
opaque rndWord : BitVec 64 → BitVec 32
/-- The public key of patch signing key `k`, which the boot ROM holds (R71, R74): the two coordinates of a P-384 point. -/
opaque signKey : Nat → Nat × Nat
/-- The transmit preset of a lane for a mode (R127, R139), as five bytes: taps c(-2) to c(1) in 1/128, and the swing in units of
4 mVppd. R128's clamp is applied to it. -/
opaque txPreset : Nat → BitVec 40
/-- The 24-bit Efnus OUI of the message page of R127, which the Efnus extended-rate specification gives. -/
opaque efnusOui : BitVec 24
/-- The source address of the PFC frames of a port (R153): its value is not stated. -/
opaque portMac : Nat → BitVec 48
/-- The 256 bytes of a segment header (R326) from its 32 cell headers without NEXT, the slot number of the queue's next segment and its
CRC: where each of them stands in it is not stated. -/
opaque segHeaderImage : List Nat → Nat → BitVec 16 → BitVec 2048
/-- The inverse design of the boot ROM and microcode ROM is outside the spec: word `a` of the control store ROM of a
Signalman (R463). -/
opaque romWord : Nat → BitVec 112
/-- The Efnus manufacturer code of IDCODE, which the board design package gives (R479). -/
opaque idcodeMaker : BitVec 11
/-- Expected BIST signature of a target and pattern set (R488): its value is not stated. -/
opaque bistSignature : Nat → Nat → BitVec 32

end Sys2Proof.Config
end

