-- ==== Sys2Proof/Machine/Sparse.lean ====
section
/-!
DEFINITION. Sparse maps in one canonical form, and the list and bit-field helpers every operation uses.
A map is a list of (key, value) pairs; an unlisted key reads as the map's default, which each map names.
-/

namespace Sys2Proof.Machine

/-- The value at key `k`, `d` where the map lists none. -/
def sget {α : Type} (d : α) : Sparse α → Nat → α
  | [], _ => d
  | (k', v) :: m, k => if k' = k then v else sget d m k

/-- The value at key `k`, if the map lists one. -/
def sfind {α : Type} : Sparse α → Nat → Option α
  | [], _ => none
  | (k', v) :: m, k => if k' = k then some v else sfind m k

/-- Removes key `k`. -/
def sdel {α : Type} : Sparse α → Nat → Sparse α
  | [], _ => []
  | (k', v) :: m, k => if k' = k then sdel m k else (k', v) :: sdel m k

/-- Lists `v` at key `k`, keeping the keys rising. -/
def sins {α : Type} : Sparse α → Nat → α → Sparse α
  | [], k, v => [(k, v)]
  | (k', v') :: m, k, v =>
    if k < k' then (k, v) :: (k', v') :: m
    else if k' = k then (k, v) :: m
    else (k', v') :: sins m k v

/-- Writes `v` at key `k` of a map whose unlisted keys read `d`: writing `d` removes the entry. -/
def sput {α : Type} [DecidableEq α] (d : α) (m : Sparse α) (k : Nat) (v : α) : Sparse α :=
  if v = d then sdel m k else sins m k v

/-- Changes the value at key `k`. -/
def smod {α : Type} [DecidableEq α] (d : α) (m : Sparse α) (k : Nat) (f : α → α) : Sparse α :=
  sput d m k (f (sget d m k))

/-- Keys strictly rise above `lo`. -/
def srising {α : Type} : Option Nat → Sparse α → Bool
  | _, [] => true
  | none, (k, _) :: m => srising (some k) m
  | some lo, (k, _) :: m => decide (lo < k) && srising (some k) m

/-- The canonical form of a sparse map. -/
def swf {α : Type} [DecidableEq α] (d : α) (m : Sparse α) : Bool :=
  srising none m && m.all (fun p => decide (p.2 ≠ d))

/-- Adds a number to a set held in rising order. -/
def nadd : NatSet → Nat → NatSet
  | [], k => [k]
  | k' :: m, k => if k < k' then k :: k' :: m else if k' = k then k' :: m else k' :: nadd m k

/-- Removes a number from a set. -/
def ndel (m : NatSet) (k : Nat) : NatSet := m.filter (fun x => x ≠ k)

/-- `n` copies of a value. -/
def repl {α : Type} : Nat → α → List α
  | 0, _ => []
  | n + 1, v => v :: repl n v

/-- The numbers `a`, `a + 1`, … (`n` of them). -/
def span : Nat → Nat → List Nat
  | _, 0 => []
  | a, n + 1 => a :: span (a + 1) n

/-- The `n`-th element, `d` past the end. -/
def nth {α : Type} (d : α) : List α → Nat → α
  | [], _ => d
  | v :: _, 0 => v
  | _ :: m, n + 1 => nth d m n

/-- Replaces the `n`-th element where the list has one. -/
def setNth {α : Type} : List α → Nat → α → List α
  | [], _, _ => []
  | _ :: m, 0, v => v :: m
  | x :: m, n + 1, v => x :: setNth m n v

/-- Bits [lo + w - 1 : lo] of a number (R5). -/
def bits (x lo w : Nat) : Nat := x / 2 ^ lo % 2 ^ w

/-- Bit `i` of a number. -/
def bit (x i : Nat) : Bool := x / 2 ^ i % 2 = 1

/-- A flag as the number 1 or 0. -/
def b2n (b : Bool) : Nat := if b then 1 else 0

/-- A word from fields: each is (low bit, width, value), and the value is cut to the width. -/
def pack : List (Nat × Nat × Nat) → Nat
  | [] => 0
  | (lo, w, v) :: m => v % 2 ^ w * 2 ^ lo + pack m

/-- A 32-bit word from fields. -/
def packW (fs : List (Nat × Nat × Nat)) : Word := BitVec.ofNat 32 (pack fs)

/-- A 64-bit word from fields. -/
def packD (fs : List (Nat × Nat × Nat)) : DWord := BitVec.ofNat 64 (pack fs)

/-- Little-endian bytes of a number, as multi-byte fields stand in host memory (R6). -/
def leBytes : Nat → Nat → List Byte
  | 0, _ => []
  | n + 1, v => BitVec.ofNat 8 v :: leBytes n (v / 256)

/-- The number whose little-endian bytes these are (R6). -/
def leNat : List Byte → Nat
  | [] => 0
  | b :: m => b.toNat + 256 * leNat m

/-- The number whose big-endian (network order, R6) bytes these are, on top of `acc`. -/
def beNatAcc (acc : Nat) : List Byte → Nat
  | [] => acc
  | b :: m => beNatAcc (acc * 256 + b.toNat) m

/-- The number whose network-order bytes these are (R6). -/
def beNat (bs : List Byte) : Nat := beNatAcc 0 bs

/-- Network-order bytes of a number (R6). -/
def beBytes (n v : Nat) : List Byte := (leBytes n v).reverse

/-- `len` bytes from offset `off`, as many as there are. -/
def slice {α : Type} (bs : List α) (off len : Nat) : List α := (bs.drop off).take len

/-- The little-endian field of `len` bytes at offset `off`. -/
def leAt (bs : List Byte) (off len : Nat) : Nat := leNat (slice bs off len)

/-- Every byte is 0. -/
def allZero (bs : List Byte) : Bool := bs.all (fun b => b = 0)

/-- Fills a list to `n` elements with `v`, and cuts it there. -/
def padTo {α : Type} (n : Nat) (v : α) (l : List α) : List α := (l ++ repl (n - l.length) v).take n

/-- Writes `new` over `old` from offset `off`, inside `old`'s length. -/
def overlay {α : Type} (old : List α) (off : Nat) (new : List α) : List α :=
  old.take off ++ new.take (old.length - off) ++ old.drop (off + new.length)

/-- Saturating add to a maximum. -/
def satAdd (max a b : Nat) : Nat := if a + b > max then max else a + b

/-- The largest 32-bit count. -/
def max32 : Nat := 0xFFFFFFFF

/-- The number as a signed value of `w` bits. -/
def signed (w x : Nat) : Int := if 2 * x < 2 ^ w then (x : Int) else (x : Int) - 2 ^ w

/-- A signed number as `w` bits of two's complement. -/
def unsignedOf (w : Nat) (x : Int) : Nat := (x % (2 ^ w : Int)).toNat

end Sys2Proof.Machine
end

