-- ==== Sys2Proof/Machine/Islands.lean ====
section
/-!
DEFINITION. The 130 islands, their Cabins and control addresses (R27, R32 to R35) and power domains (R48).
-/

namespace Sys2Proof.Machine

/-- An island (R33). -/
inductive Isl where
  | platform (k : Nat) | iline (n : Nat) | eline (n : Nat) | yard (y : Nat) | quarry (q : Nat)
  | sb | ks | tt | jn (h : Nat) | ci | tm | pc | mg | bf
deriving DecidableEq, Repr

/-- The District of Line `n` (R27). -/
def lineDistrict (n : Nat) : Nat := if n < 32 then n / 8 else n - 32

/-- The CABIN offset of Line `n` in its District (R33). -/
def lineCabin (n : Nat) : Nat := if n < 32 then n % 8 else 8

/-- DISTRICT × 256 + CABIN of an island (R33): the ISLAND operand of R445 and the island part of a fault source ID. -/
def Isl.code : Isl → Nat
  | .platform k => k / 8 * 256 + k % 8
  | .iline n => lineDistrict n * 256 + 0x10 + lineCabin n
  | .eline n => lineDistrict n * 256 + 0x20 + lineCabin n
  | .yard y => y / 2 * 256 + 0x30 + y % 2
  | .quarry q => q / 2 * 256 + 0x38 + q % 2
  | .sb => 0xC00 | .ks => 0xC01 | .tt => 0xC02 | .jn h => 0xC03 + h | .ci => 0xC05 | .tm => 0xC06 | .pc => 0xC07
  | .mg => 0xC08 | .bf => 0xC09

/-- The Line whose CABIN offset in District `d` is `c` (R33). -/
def lineOfCabin (d c : Nat) : Nat := if c = 8 then 32 + d else 8 * d + c

/-- The island of a code, if R33 defines one. -/
def islOf (code : Nat) : Option Isl :=
  let d := code / 256
  let c := code % 256
  if d < 4 then
    if c < 0x08 then some (.platform (8 * d + c))
    else if 0x10 ≤ c ∧ c ≤ 0x18 then some (.iline (lineOfCabin d (c - 0x10)))
    else if 0x20 ≤ c ∧ c ≤ 0x28 then some (.eline (lineOfCabin d (c - 0x20)))
    else if c = 0x30 ∨ c = 0x31 then some (.yard (2 * d + (c - 0x30)))
    else if c = 0x38 ∨ c = 0x39 then some (.quarry (2 * d + (c - 0x38)))
    else none
  else if d = 0xC then
    if c = 0 then some .sb else if c = 1 then some .ks else if c = 2 then some .tt else if c = 3 then some (.jn 0)
    else if c = 4 then some (.jn 1) else if c = 5 then some .ci else if c = 6 then some .tm else if c = 7 then some .pc
    else if c = 8 then some .mg else if c = 9 then some .bf else none
  else none

/-- The control address of a word (R32). -/
def caddr (i : Isl) (off : Nat) : Nat := i.code * 2 ^ 32 + off

/-- The fault source ID of a local source (R35). -/
def srcId (i : Isl) (loc : Nat) : Nat := i.code * 256 + loc

/-- Every island. -/
def allIslands : List Isl :=
  (span 0 32).map .platform ++ (span 0 36).map .iline ++ (span 0 36).map .eline ++ (span 0 8).map .yard ++
    (span 0 8).map .quarry ++ [.sb, .ks, .tt, .jn 0, .jn 1, .ci, .tm, .pc, .mg, .bf]

/-- The switched power domain of an island, `none` for the always-on one (R48). -/
def domainOf : Isl → Option Nat
  | .platform k => some (52 + k / 2)
  | .iline n => some n
  | .eline n => some n
  | .yard y => some (36 + y)
  | .quarry q => some (44 + q)
  | .jn h => some (68 + h)
  | .sb => some 70 | .ks => some 70 | .pc => some 70 | .bf => some 70
  | .ci => some 71 | .tm => some 71 | .mg => some 71
  | .tt => none

/-- The islands of a power domain (R48). -/
def islandsOf (n : Nat) : List Isl := allIslands.filter (fun i => domainOf i = some n)

/-- The islands that cannot be fenced (R455). -/
def unfenceable : Isl → Bool
  | .sb => true | .ks => true | .tt => true | .pc => true | .bf => true | _ => false

/-- The islands of a BLOCK_COMMIT mask bit (R119). -/
def commitIsland (b : Nat) : Option Isl :=
  if b < 32 then some (.platform b)
  else if b < 40 then some (.yard (b - 32))
  else if b < 48 then some (.quarry (b - 40))
  else if b < 58 then islOf (0xC00 + (b - 48))
  else none

end Sys2Proof.Machine
end

