-- ==== Sys2Proof/Machine/Catalog.lean ====
section
/-!
DEFINITION. The words of every Cabin: which bits each access code of R8 covers, and reset values. Words not listed are
reserved words (R33). The read-only bits' values come from the state (`Machine/Bits.lean`).
-/

namespace Sys2Proof.Machine

/-- One word of a Cabin: the bits of each access code, and the reset value of the bits that are written or counted. -/
structure WordSpec where
  rw : Nat := 0
  rws : Nat := 0
  w1c : Nat := 0
  rc : Nat := 0
  ro : Nat := 0
  reset : Nat := 0
deriving DecidableEq, Repr

/-- An RC counter of 32 bits. -/
def rcWord : WordSpec := { rc := 0xFFFFFFFF }

/-- A word of 32 RO bits. -/
def roWord : WordSpec := { ro := 0xFFFFFFFF }

/-- `a ≤ x < a + n * step`, with `x - a` a multiple of `step` plus `k`. -/
def inBlock (x a n step k : Nat) : Bool := a ≤ x && x < a + n * step && (x - a) % step == k

/-- The words every Cabin holds (R424, R440) and the held counts of R222. -/
def cabinWord (held : Bool) (off : Nat) : Option WordSpec :=
  if off = 0x00 then some { ro := 0xC0FFF00F }
  else if off = 0x04 then some { ro := 0xE7F000FF }
  else if off = 0x08 || off = 0x0C then some roWord
  else if off = 0x10 then some { ro := 0x0700FFFF }
  else if off = 0x14 then some rcWord
  else if off = 0x18 then some { ro := 0x0FFF0FFF }
  else if off = 0x40 || off = 0x44 then some roWord
  else if inBlock off 0x48 8 4 0 then some { rw := 0xC00FFFFF }
  else if inBlock off 0x80 8 8 0 then some { rw := 0xFFFFFFFF }
  else if inBlock off 0x80 8 8 4 then some { rw := 0x0000FFFF }
  else if (off = 0xC0 || off = 0xC4 || off = 0xC8) && held then some roWord
  else none

/-- Words of a Platform Cabin (R17, R132, R154, R316, R368, R396, R415, R453). -/
def platformWord (off : Nat) : Option WordSpec :=
  if off = 0x0100 then some rcWord
  else if off = 0x0180 then some roWord
  else if 0x1000 ≤ off && off < 0x1400 then
    let o := (off - 0x1000) % 0x40
    if o = 0x00 then some { rws := 0xFFFFFFFF, reset := 0xFFFF8000 }
    else if o = 0x04 then some { rws := 0xFCFFFFFF, reset := 0x04FAC688 }
    else if o = 0x08 || o = 0x0C then some rcWord
    else if o = 0x28 then some { rws := 0x00000FFF }
    else if 0x10 ≤ o && o < 0x28 then some { rws := 0x3FFFFFFF }
    else if o = 0x2C then some rcWord
    else if o = 0x30 then some { ro := 0x0000FFFF }
    else if o = 0x34 then some rcWord
    else none
  else if 0x4000 ≤ off && off < 0x4400 then
    let o := (off - 0x4000) % 0x40
    if o = 0x00 then some { rw := 0x00FF0080, ro := 0x00000040, reset := 0x003C0000 }
    else if o = 0x04 then some { ro := 0xF000FF00, rc := 0x000000FF }
    else if o = 0x08 then some rcWord
    else none
  else if 0x5000 ≤ off && off < 0x5400 then
    let o := (off - 0x5000) % 0x40
    if o ≤ 0x2C then some rcWord
    else if o = 0x30 then some { ro := 0xF0FFFFF0 }
    else none
  else if 0x6000 ≤ off && off < 0x6400 then
    let o := (off - 0x6000) % 0x40
    if o ≤ 0x08 then some { rw := 0xFFFFFFFF }
    else if o = 0x0C || o = 0x10 then some roWord
    else if o = 0x14 || o = 0x18 then some rcWord
    else none
  else none

/-- Words that ingress and egress Line Cabins share (R203, R221, R264, R493, R494); a Line has this many blocks of each kind
(R234). -/
def lineWord (sram tcam off : Nat) : Option WordSpec :=
  if inBlock off 0x0600 7 4 0 then some rcWord
  else if off = 0x0700 then some { rws := 1 }
  else if off = 0x0704 then some { ro := 0xFFFF0007 }
  else if off = 0x0708 || off = 0x070C then some rcWord
  else if inBlock off 0x0800 9 4 0 then some rcWord
  else if off = 0x0900 then some rcWord
  else if off = 0x0908 || off = 0x090C then some { rws := 0xFFFFFFFF }
  else if inBlock off 0x0A00 sram 4 0 || inBlock off 0x0B00 tcam 4 0 then some { ro := 0xF80000FF }
  else none

/-- LN_Q_CFG of queue index j (R301): the reset priority is j mod 8, or 0xF. -/
def qCfgWord (pri : Nat) : WordSpec := { rw := 0x0F00FF07, reset := pri * 0x1000000 + 0x0100 }

/-- Words of an egress Line's scheduler (R301). -/
def schedWord (off : Nat) : Option WordSpec :=
  if 0x2000 ≤ off && off < 0x4000 then
    let j := (off - 0x2000) % 0x200 / 0x10
    let o := off % 0x10
    if 20 ≤ j then none
    else if o = 0 then some (qCfgWord (if j < 16 then j % 8 else 0xF))
    else if o = 4 || o = 8 then some { rw := 0xFFFFFFFF }
    else none
  else if off = 0x4000 then some (qCfgWord 0xF)
  else if off = 0x4004 || off = 0x4008 then some { rw := 0xFFFFFFFF }
  else none

/-- Reset values of YD_RQ_RSV and YD_RQ_QUOTA of requester `r` (R292). -/
def resetRsv (r : Nat) : Nat := if r < 4096 then 0 else if r = 4099 then 0x800 else 0x400
def resetQuota (r : Nat) : Nat := if r < 4096 then 0x7B00 else if r = 4096 then 0x2000 else 0x4000

/-- Words of a Yard Cabin (R290). -/
def yardWord (off : Nat) : Option WordSpec :=
  if off = 0x0100 then some { rws := 0x3FFFF, reset := 0x1EC00 }
  else if off = 0x0104 then some { rws := 0x3FFFF }
  else if off = 0x0108 then some { ro := 0x8003FFFF }
  else if off = 0x010C || off = 0x0110 then some { ro := 0x3FFFF }
  else if off = 0x0114 then some { rc := 0x3FFFF }
  else if inBlock off 0x0120 5 4 0 then some rcWord
  else if off = 0x0134 then some roWord
  else if 0x10000 ≤ off && off < 0x10000 + 16 * 4100 then
    let r := (off - 0x10000) / 16
    let o := off % 16
    if o = 0 then some { rws := 0x3FFFF, reset := resetRsv r }
    else if o = 4 then some { rws := 0x8003FFFF, reset := resetQuota r }
    else if o = 8 then some { rws := 0x3FFFF }
    else none
  else if 0x40000 ≤ off && off < 0x40000 + 4 * 10276 then some { rws := 0x0FFFFFFF, reset := 0xF600 }
  else if 0x60000 ≤ off && off < 0x60000 + 4 * 10276 then some { ro := 0x0FFFFFFF }
  else if 0x80000 ≤ off && off < 0x80000 + 16 * 4100 then
    let o := off % 16
    if o = 0 || o = 4 then some { ro := 0x3FFFF } else if o = 8 then some rcWord else none
  else none

/-- Words of a Quarry Cabin (R346). -/
def quarryWord (off : Nat) : Option WordSpec :=
  if off = 0x0100 then some { rws := 0x00000FC0, reset := 0x00000D80 }
  else if off = 0x0104 then some { ro := 0xEFFFFFF0 }
  else if off = 0x0108 then some { rws := 0xFFFFFFFF, reset := 0x0640C864 }
  else if off = 0x010C || off = 0x0110 then some { ro := 0xFFFFF }
  else if inBlock off 0x0120 7 4 0 then some rcWord
  else if 0x40000 ≤ off && off < 0x40000 + 16 * 10240 then
    if off % 16 = 12 then some { ro := 0x0FFFFFFF } else some { rws := 0x0FFFFFFF }
  else none

/-- Words of the Signal Box Cabin (R51, R65, R477). -/
def sbWord (off : Nat) : Option WordSpec :=
  if off = 0x0100 then some { rw := 0xFFFFFFFF }
  else if inBlock off 0x0300 16 4 0 then some { ro := 0xFFF07FFF }
  else if inBlock off 0x0340 16 4 0 then some { ro := 0x00FFF07F }
  else if off = 0x0380 || off = 0x0384 then some rcWord
  else if inBlock off 0x2000 72 4 0 then some { rw := 0x60000000, ro := 0x8000FFFF }
  else none

/-- Words of the Keystone Cabin (R59, R442). -/
def ksWord (off : Nat) : Option WordSpec :=
  if off = 0x0100 then some { ro := 0xE7FFFFFF }
  else if off = 0x0104 || off = 0x0108 then some roWord
  else if off = 0x010C then some { ro := 0x0700FFFF }
  else if off = 0x0110 then some { rw := 0x80FF0707, reset := 0x00000202 }
  else if off = 0x0114 then some { rw := 0x00000FFF, reset := 0xFFF }
  else if off = 0x0118 then some { rw := 0x3, reset := 1 }
  else if off = 0x011C then some { ro := 0x800FFFFF }
  else if off = 0x0120 then some { ro := 0xC7000FFF }
  else if inBlock off 0x0200 12 8 0 then some { ro := 0xC7000000, rc := 0x0000FFFF }
  else if inBlock off 0x0200 12 8 4 then some { ro := 0x070FFFFF }
  else if inBlock off 0x0300 4 4 0 then some { ro := 0xC000001F }
  else if off = 0x0400 then some { rw := 0x00FFFF01, reset := 105 * 65536 + 100 * 256 + 1 }
  else none

/-- Words of the Timetable Cabin (R146, R404). -/
def ttWord (off : Nat) : Option WordSpec :=
  if off = 0x0100 then some { ro := 0xEF01FFFF }
  else if off = 0x0104 then some { rw := 0xFFFF, reset := 0x07D0 }
  else if off = 0x0108 then some roWord
  else if off = 0x010C then some { ro := 0xFF }
  else if off = 0x0110 || off = 0x0114 then some roWord
  else if inBlock off 0x0120 2 16 0 || inBlock off 0x0120 2 16 4 then some roWord
  else if inBlock off 0x0120 2 16 8 then some { ro := 0x4F00FFFF, w1c := 0x80000000 }
  else if inBlock off 0x0120 2 16 12 then some { rw := 0xFFFFFFFF }
  else if inBlock off 0x0200 2 16 0 then some { rws := 0xFFF00000, reset := 0x06400000 }
  else if inBlock off 0x0200 2 16 4 then some { rws := 0x3FFFFFFF }
  else if inBlock off 0x0200 2 16 8 then some { rws := 0xFFFFFFFF }
  else if off = 0x0300 then some { w1c := 0xF }
  else if off = 0x0304 then some { rw := 0x800000FF }
  else if off = 0x0800 || off = 0x0804 then some { rws := 0xFFF001FF }
  else none

/-- Words of the telemetry exporter Cabin (R432). -/
def tmWord (off : Nat) : Option WordSpec :=
  if off = 0x0100 then some roWord
  else if off = 0x0104 then some { ro := 0xC000003F }
  else if off = 0x0108 then some rcWord
  else if inBlock off 0x0110 4 4 0 then some rcWord
  else if off = 0x0120 || off = 0x0128 || off = 0x0130 || off = 0x0134 then some roWord
  else if off = 0x0124 then some { ro := 0x00FFFFFF }
  else if off = 0x012C then some { ro := 0xFF }
  else none

/-- Islands that hold the counts of R222 (R216). -/
def holdsCounts : Isl → Bool
  | .iline _ => true | .eline _ => true | .yard _ => true | .quarry _ => true | .jn _ => true | _ => false

/-- The word at an offset of an island's Cabin; `none` for a reserved word (R33). -/
def wordSpec (i : Isl) (off : Nat) : Option WordSpec :=
  match cabinWord (holdsCounts i) off with
  | some w => some w
  | none =>
    match i with
    | .platform _ => platformWord off
    | .iline _ => if off = 0x0840 then some { rws := 0xFFFF00FF, reset := 0x03E80005 } else lineWord 40 48 off
    | .eline _ => match lineWord 8 2 off with | some w => some w | none => schedWord off
    | .yard _ => yardWord off
    | .quarry _ => quarryWord off
    | .sb => sbWord off
    | .ks => ksWord off
    | .tt => ttWord off
    | .jn _ => if inBlock off 0x0100 4 4 0 then some rcWord else none
    | .ci => if off = 0x0100 then some { ro := 0xF0FFFFFF } else none
    | .tm => tmWord off
    | .pc => none
    | .mg => none
    | .bf => none

/-- The reset value of the word at a control address. -/
def resetWord (ca : Nat) : Word :=
  match islOf (ca / 2 ^ 32) with
  | none => 0
  | some i => match wordSpec i (ca % 2 ^ 32) with | none => 0 | some w => BitVec.ofNat 32 w.reset

/-- Whether an event code is one R426 defines for the island. -/
def pmcEventOk (i : Isl) (event : Nat) : Bool :=
  if event ≤ 3 then true
  else match i with
  | .iline _ => (0x10 ≤ event && event ≤ 0x17)
  | .eline _ => event = 0x10 || event = 0x11 || event = 0x15
  | .platform _ => 0x20 ≤ event && event ≤ 0x26
  | .yard _ => 0x30 ≤ event && event ≤ 0x34
  | .jn _ => event = 0x40 || event = 0x41
  | .quarry _ => 0x50 ≤ event && event ≤ 0x54
  | .sb => event = 0x60
  | .pc => event = 0x61 || event = 0x62
  | .ci => event = 0x63
  | .tm => event = 0x64 || event = 0x65
  | _ => false

end Sys2Proof.Machine
end

