-- ==== Sys2Proof/Machine/Parts/Cipher.lean ====
section
/-!
DEFINITION. Plain data of the cipher (file 13): key slots, SecYs and SAs, and the lookaside engines.
-/

namespace Sys2Proof.Machine

/-- A secure association (R364, R365, R367). -/
structure SaSt where
  slot : Nat
  nextAn : Nat
  pn : Nat
  salt : Nat
  exhausted : Bool := false
  /-- The SA's key slot was erased (R357). -/
  keyless : Bool := false
  rekeyPosted : Bool := false
deriving DecidableEq, Repr

/-- A port's SecY (R358, R367). SAs are keyed by AN. -/
structure SecySt where
  enable : Bool := false
  suite : Nat := 0
  confOffset : Nat := 0
  conf : Bool := false
  includeSci : Bool := false
  window : Nat := 0
  txSci : Nat := 0
  rxSci : Nat := 0
  txSsci : Nat := 0
  rxSsci : Nat := 0
  rekeyThresh : Nat := 0
  evq : Nat := 0xFF
  tx : Sparse (Option SaSt) := []
  rx : Sparse (Option SaSt) := []
  encoding : Option Nat := none
deriving DecidableEq, Repr

/-- A lookaside key slot: key, fixed part, invocation counter (R353, R375). -/
structure LookSlot where
  key : List Byte
  fixed : Nat
  counter : Nat
deriving DecidableEq, Repr

/-- One lookaside job (R373): who submitted it (a ring, or `none` for firmware) and its descriptor. -/
structure JobSt where
  ring : Option Nat
  desc : List Byte
deriving DecidableEq, Repr

/-- One lookaside engine (R372): host and firmware jobs queued, and whose turn it is. -/
structure EngineSt where
  jobs : List JobSt := []
  hostTurn : Bool := true
deriving DecidableEq, Repr

/-- All the cipher state. -/
structure CipherSt where
  link : Sparse (Option (List Byte)) := []
  spill : Sparse (Option (List Byte)) := []
  spillActive : Option Nat := none
  spillDrain : Option Nat := none
  look : Sparse (Option LookSlot) := []
  hash : Sparse (Option (BitVec 128)) := []
  secy : Sparse SecySt := []
  engines : Sparse EngineSt := []
  /-- Engines out of use (R379). -/
  engineOut : NatSet := []
  /-- Run counts in ns of link cipher parity events of each lane within the last second (R379). -/
  parity : Sparse (List Nat) := []
  /-- The next engine tried for a new job (R372 does not say which; DESIGN CHOICE). -/
  nextEngine : Nat := 0
deriving DecidableEq, Repr

end Sys2Proof.Machine
end

