-- ==== Sys2Proof/Machine/Parts/Control.lean ====
section
/-!
DEFINITION. Plain data of power, reset, boot (files 02, 03) and the host interface (file 04).
-/

namespace Sys2Proof.Machine

/-- Modes of a power domain (R51). -/
inductive PdMode where
  | auto | forceOn | forceOff
deriving DecidableEq, Repr

/-- The code of a mode in SB_PD_MODE (R51). -/
def PdMode.code : PdMode → Nat
  | .auto => 0 | .forceOn => 1 | .forceOff => 2

/-- One switched power domain (R49 to R52). -/
structure DomainSt where
  on : Bool := true
  mode : PdMode := .auto
  ups : Nat := 0
deriving DecidableEq, Repr

/-- Supplies, references, resets, temperature and the pins of the always-on domain (R45 to R67). -/
structure PowerSt where
  domains : Sparse DomainSt := []
  /-- Domains that a waiting Order needs, in the order they were required (R50). -/
  wanted : List Nat := []
  railsLost : NatSet := []
  /-- Rails outside their operating range since a fault was raised (R47). -/
  railsOut : NatSet := []
  fuseHigh : Bool := false
  /-- Supply reset, SYS_RST_N low, and the 1 µs of a chip reset. -/
  supplyHeld : Bool := true
  pinHeld : Bool := false
  /-- A chip reset was requested and starts 10 µs after its completion (R65). -/
  chipReset : Bool := false
  perst : Bool := false
  linkUp : Bool := false
  sysLost : Bool := false
  tileLost : NatSet := []
  pcieRefLost : Bool := false
  /-- T in 1/8 °C (R59). -/
  temp : Int := 200
  warned : Bool := false
  /-- Throttle level entered, 0 to 4, whether or not throttling is enabled. -/
  level : Nat := 0
  tripped : Bool := false
  rstCause : Nat := 0x40
  rstCount : Nat := 0
  smbAddr : Nat := 0
  /-- Instruction of the IEEE 1149.1 TAP (R479), and whether DEBUG has selected the debug TAP. -/
  tapIr : Nat := 0x01
deriving DecidableEq, Repr

/-- The boot sequence (R69 to R81). -/
structure BootSt where
  /-- The sequence may start: system reset was released and BOOT_SEQUENCE has not run. -/
  pending : Bool := false
  stage : Nat := 0
  error : Nat := 0
  svn : Nat := 0
  done : Bool := false
  bootSrc : Bool := false
  mbLo : Word := 0
  mbHi : Word := 0
  mbLen : Nat := 0
  reading : Bool := false
deriving DecidableEq, Repr

/-- The Order a ring has started (R99 to R103). -/
structure Running where
  /-- The command that carries it out, `none` for one that failed its first checks. -/
  cmd : Option Instr
  tag : Nat
  index : Nat
  notify : Bool
  progress : Bool
  payload : Option Payload := none
  seq : Nat
  /-- Run count in ns at its start (R103). -/
  start : Nat
  outcome : Option (Status × DWord) := none
  pendingWritten : Bool := false
  /-- Its effect has begun and it waits for its end. -/
  begun : Bool := false
  /-- PERST_N or FLR came while it ran: its completion is discarded (R66). -/
  orphan : Bool := false
deriving DecidableEq, Repr

/-- One Order ring (R92 to R95) or packet DMA queue (R120). -/
structure RingSt where
  baseLo : Word := 0
  baseHi : Word := 0
  cplLo : Word := 0
  cplHi : Word := 0
  enable : Bool := false
  level : Nat := 0
  vector : Nat := 0
  log2 : Nat := 6
  /-- PC_DMA_WAYBILL, on packet DMA queues. -/
  waybill : Bool := false
  head : Nat := 0
  cplTail : Nat := 0
  tail : Nat := 0
  cplHead : Nat := 0
  phase : Bool := true
  stopped : Bool := false
  cfgErr : Bool := false
  fetchErr : Bool := false
  /-- Sequence numbers of the Orders issued and not started (R109), in slot order. -/
  issued : List Nat := []
  running : Option Running := none
  /-- Slot and bytes of the descriptors posted and not used (packet DMA queues); `none`: their fetch fails. -/
  descs : List (Nat × Option (List Byte)) := []
deriving DecidableEq, Repr

/-- A descriptor of a queue from the host whose completion is not yet written (R122): its slot, and its status with the
timestamp once both are known. -/
structure HostFrame where
  slot : Nat
  tsreq : Bool
  outcome : Option (Status × Nat) := none
deriving DecidableEq, Repr

/-- The host interface (R85 to R123). -/
structure HostSt where
  rings : Sparse RingSt := []
  dma : Sparse RingSt := []
  /-- Words of the host region table, by 8 × entry + word (R90). -/
  regions : Sparse Word := []
  counterUser : Bool := false
  /-- PC_EV_RING_ERR and PC_EV_BOOT_DONE (R88). -/
  evRing : Bool := false
  evBoot : Bool := false
  dmaDrop : Sparse Nat := []
  /-- Words of the MSI-X table by 4 × vector + word; its mask words are 1 where unlisted. -/
  msix : Sparse Word := []
  msixPending : NatSet := []
  /-- Frames of each queue from the host whose completion is due. -/
  hostFrames : Sparse (List HostFrame) := []
  nextSeq : Nat := 0
  /-- Sequence numbers of the Orders with FENCE that were issued and have no final completion yet (R109). -/
  fences : List Nat := []
  /-- The ring that last had its turn to start an Order (R108). -/
  lastRing : Nat := 63
deriving DecidableEq, Repr

end Sys2Proof.Machine
end

