-- ==== Sys2Proof/Machine/Parts/Faults.lean ====
section
/-!
DEFINITION. Plain data of faults, fencing and BIST (files 16 and 18).
-/

namespace Sys2Proof.Machine

/-- One fault recorded in a Cabin since its last clear: local source, severity after escalation, and its own (R437, R444). -/
structure CauseRec where
  loc : Nat
  sev : Nat
  own : Nat
deriving DecidableEq, Repr

/-- The fault and fence words of one Cabin (R440). -/
structure CabSt where
  fenced : Bool := false
  repair : Bool := false
  gen : Nat := 0
  cause : Nat := 0
  valid : Bool := false
  overflow : Bool := false
  sev : Nat := 0
  cls : Nat := 0
  loc : Nat := 0
  ts : Nat := 0
  maxSev : Nat := 0
  count : Nat := 0
  raised : NatSet := []
  unacked : NatSet := []
  causes : List CauseRec := []
  /-- SUB of the unit that UNIT_UNFENCE is repairing: 0xFF the whole island (R456). -/
  repairSub : Nat := 0xFF
  /-- An S3 fault of that unit, or of the whole island, arrived meanwhile (R462). -/
  again : Bool := false
deriving DecidableEq, Repr

/-- A class word of the Keystone (R442). UNCLEARED follows from the Cabins. -/
structure ClassSt where
  unack : Bool := false
  maxSev : Nat := 0
  lastSev : Nat := 0
  lastSrc : Nat := 0
deriving DecidableEq, Repr

/-- Cabins and the Keystone (R437 to R449). -/
structure FaultSt where
  cabs : Sparse CabSt := []
  classes : Sparse ClassSt := []
  firstValid : Bool := false
  firstOverflow : Bool := false
  firstAcked : Bool := false
  firstSev : Nat := 0
  firstCls : Nat := 0
  firstSrc : Nat := 0
  firstTs : Nat := 0
  maxSev : Nat := 0
  count : Nat := 0
  /-- Sources of the faults that hold the chip with their own severities, the starter first (R449). -/
  hold : List (Nat × Nat) := []
  holdSrc : Nat := 0
  /-- Level of ERR_N (R82, R446). -/
  errLow : Bool := true
deriving DecidableEq, Repr

/-- A test of an island or channel that runs (R487). -/
structure BistRun where
  island : Nat
  sub : Nat
  type : Nat
  ret : Bool
  ring : Nat
  payload : Option Nat
  /-- CUT bits set so far (R489, R490). -/
  cut : Nat := 0
deriving DecidableEq, Repr

/-- BIST state of the Signal Box: tests running and the last result of each target, by 8 × island + SUB + 1 (R489). -/
structure BistSt where
  runs : List BistRun := []
  results : Sparse (List Byte) := []
deriving DecidableEq, Repr

end Sys2Proof.Machine
end

