-- ==== Sys2Proof/Machine/Parts/Nolral.lean ====
section
/-!
DEFINITION. Plain data of the packet program: the Manifest of a frame (R160 to R164), the decoded program image
(R189), the tables and Ledgers it declares (R237, R250) and what a program asks of the machine (R178 to R181).
-/

namespace Sys2Proof.Machine

/-- The Manifest of one frame in one Line (R160 to R163). Containers are numbers of their width, 0 where unlisted. -/
structure Manifest where
  c8 : Sparse Nat := []
  c16 : Sparse Nat := []
  c32 : Sparse Nat := []
  w : Sparse Nat := []
  /-- p0 … p7 as bits; p0 is always 1, p1 is the hit of the Course at work (R162). -/
  preds : Nat := 1
  epoch : Nat := 0
  pass : Nat := 0
  inPort : Nat := 0
  origin : Nat := 0
  /-- 64-bit report format (R391). -/
  inTs : Nat := 0
  parse : Nat := 0
  hv : Nat := 0
  tc : Nat := 0
  mcClass : Nat := 0
  fhash : Nat := 0
  dropReason : Nat := 0
  trapReason : Nat := 0
  dispKind : Nat := 0
  dispTarget : Nat := 0
  waybill : Nat := 0
  egPort : Nat := 0
  qId : Nat := 0
  qDepth : Nat := 0
  eflags : Nat := 0
  pktLen : Nat := 0
  cons : Sparse Nat := []
deriving DecidableEq, Repr

/-- One Ledger descriptor of a Course (R172, R189). -/
structure LedgerDesc where
  op : Nat
  ledger : Nat
  index : Nat
  value : Nat
  compare : Nat
  wide : Bool
  cond : Nat
  imm : Nat
deriving DecidableEq, Repr

/-- One Course of a loaded image (R165, R189). Bundles are (START, LENGTH); actions are 64-bit micro-operations. -/
structure Course where
  lookup : Nat
  table : Nat
  sels : List Nat
  missBundle : Nat
  hash0 : Nat
  hash1 : Nat
  mask0 : Nat
  mask1 : Nat
  ledger0 : LedgerDesc
  ledger1 : LedgerDesc
  bundles : List (Nat × Nat)
  actions : List Nat
  consts : List Nat
deriving DecidableEq, Repr

/-- A table declaration of an image (R237). -/
structure TableDecl where
  id : Nat
  /-- 1 EXACT, 2 LPM, 3 PRIORITY, 4 DIRECT, 5 ADATA. -/
  tkind : Nat
  keyBits : Nat
  adWords : Nat
  adMode : Nat
  adTable : Nat
  tflags : Nat
  blocks : Nat
  learnAction : Nat
  evq : Nat
  pfxWidth : Nat
  pfxLsb : Nat
  agePeriod : Nat
  hseed : Nat
  entries : Nat
  missAd : List Nat
deriving DecidableEq, Repr

/-- A Ledger declaration of an image (R238). -/
structure LedgerDecl where
  id : Nat
  wide : Bool
  evq : Nat
  entries : Nat
deriving DecidableEq, Repr

/-- One EXACT, LPM or PRIORITY entry (R241, R248, R265). `band` is PLEN or PRIORITY; `mask` is 1 where a bit of the
key is compared; `index` is the ADATA index of an indirect entry. -/
structure Entry where
  key : Nat
  mask : Nat := 0
  band : Nat := 0
  action : Nat := 0
  ad : List Nat := []
  index : Nat := 0
  static : Bool := false
  learned : Bool := false
  hbit : Bool := false
  abit : Bool := false
  vis : Nat := 0
  /-- The VALID bit of a TCAM result word (R270); only TCAM_RAW leaves an invalid slot listed. -/
  valid : Bool := true
  /-- The INDIRECT bit TCAM_RAW wrote into the result word; none: as the table is declared. -/
  indirect : Option Bool := none
deriving DecidableEq, Repr

/-- One table instance of a Line (R235, R236). -/
structure Inst where
  iid : Nat
  decl : TableDecl
  /-- The initial action data of a DIRECT entry (R236). -/
  initAd : List Nat
  sram : List Nat := []
  tcam : List Nat := []
  raw : Bool := false
  /-- EXACT by location, LPM and PRIORITY by entry position in the instance's slices. -/
  ents : Sparse Entry := []
  /-- DIRECT and ADATA entries that differ from their initial value: action and action data. -/
  direct : Sparse (Nat × List Nat) := []
  /-- Keys and values a BALGER table keeps (R257). -/
  pendingList : List (Nat × Nat) := []
  /-- Run count of the last LEARN_FULL event (R257). -/
  lastFull : Option Nat := none
deriving DecidableEq, Repr

/-- One Ledger instance of a Line (R236): values where not 0. -/
structure LedgerInst where
  iid : Nat
  decl : LedgerDecl
  sram : List Nat := []
  vals : Sparse Nat := []
deriving DecidableEq, Repr

/-- A loaded program image (R189). -/
structure Prog where
  egress : Bool
  progId : Word
  crc : Word
  courses : List Course
  /-- Containers of each header instance, empty for an unused one. -/
  headers : List (List Nat)
  deparse : List Nat
  tables : List TableDecl
  ledgers : List LedgerDecl
deriving DecidableEq, Repr

/-- One state record of a parse graph (R205). -/
structure GState where
  inst : Nat
  fragKind : Nat
  accept : Bool
  lenVar : Bool
  totCheck : Bool
  fixedLen : Nat
  minLen : Nat
  maxLen : Nat
  lenOff : Nat
  lenShift : Nat
  lenMask : Nat
  lenMul : Nat
  totOff : Nat
  totAdd : Nat
  sel0 : Nat
  sel1 : Nat
  setDst : Nat
  setVal : Nat
deriving DecidableEq, Repr

/-- One transition entry of a parse graph (R205). -/
structure GTrans where
  state : Nat
  next : Nat
  tact : Nat
  value : Nat
  mask : Nat
deriving DecidableEq, Repr

/-- A loaded parse graph (R205). -/
structure Graph where
  egress : Bool
  graphId : Word
  crc : Word
  states : List GState
  trans : List GTrans
deriving DecidableEq, Repr

/-- A request to the egress commit point (R178): a one-step time fill or an IOAM fill at a byte offset. -/
structure CommitReq where
  /-- 1 ORIGIN, 2 CORRECTION, 3 CSUM_UDP, 0 IOAM_FILL. -/
  kind : Nat
  offset : Nat
deriving DecidableEq, Repr

/-- One entry a LEARN micro-operation submits (R178, R252): table, key, key bits, value. -/
structure LearnReq where
  table : Nat
  key : Nat
  keyBits : Nat
  value : Nat
deriving DecidableEq, Repr

/-- What a program asked for while a frame passed the Line. -/
structure LineAsk where
  hostCopy : Option (Nat × Nat) := none
  mirrors : List Nat := []
  reqs : List CommitReq := []
  csums : List (Nat × Nat) := []
  /-- Header instances that a Course has set invalid, as a mask: their tails are lost (R196). -/
  lost : Nat := 0
  learns : List LearnReq := []
  /-- Requests and sessions ignored (R493). -/
  overflow : Nat := 0
  /-- Course lookups that hit, as table and key, for the hit bits of R246. -/
  hits : List (Nat × Nat) := []
  /-- Courses whose lookup hit (R426). -/
  hitCourses : List Nat := []
  /-- Ledger operations carried out: Course, unit, instance and index (R172). -/
  lreads : List (Nat × Nat × Nat × Nat) := []
  /-- SRAM table entries that lookups have read, as instance and location (R260). -/
  reads : List (Nat × Nat) := []
deriving DecidableEq, Repr

end Sys2Proof.Machine
end

