-- ==== Sys2Proof/Machine/Parts/Packet.lean ====
section
/-!
DEFINITION. Plain data of the packet path: Waybills (R410), frames at each place of their walk, Yard accounts and
cells (file 10), queues and copies (file 11), Lines and epochs (files 06 to 09), Quarries (file 12).
-/

namespace Sys2Proof.Machine

/-- A Waybill (R410). WFLAGS are held as their bits. -/
structure Waybill where
  inTs : Nat := 0
  enqTs : Nat := 0
  egTs : Nat := 0
  inPort : Nat := 0
  egPort : Nat := 0xFFFF
  qId : Nat := 0xFFFF
  epoch : Nat := 0
  qDepth : Nat := 0
  pktLen : Nat := 0
  dropReason : Nat := 0
  trapReason : Nat := 0
  pass : Nat := 0
  latClass : Nat := 0
  /-- The dropping island's code, if one is recorded. -/
  dropUnit : Option Nat := none
  wflags : Nat := 0
  fate : Nat := 0
  sel : Nat := 0
  fhash : Nat := 0
  residence : Nat := 0
  /-- SECONDS of T_in, whole (R414). -/
  inSec : Nat := 0
  /-- Run count in 2^-32 ns at T_in, from which RESIDENCE and CORRECTION are formed, and at ENQ_TS. -/
  inRun : Int := 0
  enqRun : Int := 0
  /-- The first bytes of the frame as the first ingress Line received it (R417). -/
  head : List Byte := []
deriving DecidableEq, Repr

/-- A frame between its arrival and the pass of its ingress Line (R393, R191). `siding` says it re-enters. -/
structure RxFrame where
  fid : Nat
  line : Nat
  bytes : List Byte
  /-- BAD code its end will show: 0 none, 1 FCS_ERR, 2 LINK_SEC (R272, R362). -/
  bad : Nat
  m : Manifest
  wb : Waybill
  req : Nat
  group : Nat
  cells : Nat
  siding : Bool := false
  /-- A frame of a host queue: queue, descriptor slot, TSREQ (R121). -/
  host : Option (Nat × Nat × Bool) := none
deriving DecidableEq, Repr

/-- The primary copies a disposition calls for: target ports with their queue, or a Siding queue. -/
structure CopyPlan where
  queue : Nat
  port : Nat
  /-- 0 primary, 1 mirror, 2 Siding. -/
  kind : Nat
  trunc : Nat := 0
  mcast : Bool := false
deriving DecidableEq, Repr

/-- A frame in a Junction half (R303): its deparsed bytes, disposition and asks. -/
structure JnFrame where
  fid : Nat
  half : Nat
  line : Nat
  bytes : List Byte
  bad : Nat
  m : Manifest
  wb : Waybill
  req : Nat
  group : Nat
  cells : Nat
  /-- First pass: the ingress port sessions apply (R308). -/
  first : Bool
  /-- The frame's fate lets primary copies be made (R183). -/
  primary : Bool
  mirrors : List Nat
  hostCopy : Option (Nat × Nat)
  host : Option (Nat × Nat × Bool) := none
  /-- A DIRECT frame goes straight to this queue (R121). -/
  direct : Option Nat := none
  /-- A message of an export port, and the data records in it (R418). -/
  post : Option (Nat × Nat) := none
deriving DecidableEq, Repr

/-- One cell in a Yard (R271, R272): its index, and its header's NEXT, REFCNT, LAST, LEN and CRC. BAD, which only a first cell means, is
the `bad` of its share. `retire` marks a cell bad on repeat (R287). -/
structure CellSt where
  refcnt : Nat
  len : Nat
  crc : Nat
  retire : Bool := false
  idx : Nat := 0
  next : Nat := 0
  last : Bool := false
deriving DecidableEq, Repr

/-- A frame's cells in one Yard (R273 to R283). -/
structure Share where
  fid : Nat
  yard : Nat
  req : Nat
  /-- Cells set aside at admission, and whether they came from headroom (R279). -/
  c : Nat
  headroom : Bool
  /-- The frame entered on a port and is on its first pass, so it may still be in reception (R282). -/
  first : Bool
  written : Bool
  /-- BAD of the first cell (R272). -/
  bad : Nat
  /-- The BAD code the frame's end will set (R273). -/
  endBad : Nat
  cells : List CellSt
  bytes : List Byte
  /-- What stands in the unused bytes of the last cell (R271): free values. -/
  pad : List Byte := []
deriving DecidableEq, Repr

/-- Where one cell of a copy stands: in the Yard share, spilled or returning in a segment, back on chip as a cell of its
own with this index (R333), lost with a channel (R344), or read and released. -/
inductive CellPlace where
  | shared | seg (id : Nat) | own (len crc idx : Nat) | lost | done
deriving DecidableEq, Repr

/-- One queued or travelling copy (R306). -/
structure Copy where
  cid : Nat
  fid : Nat
  queue : Nat
  yard : Nat
  port : Nat
  /-- 0 primary, 1 mirror, 2 Siding. -/
  kind : Nat
  cut : Bool
  trunc : Nat
  /-- Bytes of the copy as its Yard holds them. -/
  bytes : List Byte
  places : List CellPlace
  /-- The queue entered spill mode before the copy was appended, so the copy is of the stream (R330). -/
  stream : Bool := false
  /-- The copy was spilled at some time (`eflags` bit 0). -/
  spilled : Bool := false
  /-- BAD of a first cell that has left its share, and whether a cell returned bad from a Quarry set it (R335). -/
  ownBad : Nat := 0
  quarryBad : Bool := false
  /-- A stall of this copy was counted (R334). -/
  stalled : Bool := false
  m : Manifest
  wb : Waybill
  host : Option (Nat × Nat × Bool) := none
  /-- A DIRECT frame (R121): it has no epoch of its own. -/
  direct : Bool := false
deriving DecidableEq, Repr

/-- A copy that its egress Line has passed and the Platform is sending (R298, R394). -/
structure TxCopy where
  copy : Copy
  line : Nat
  /-- Bytes to send, without FCS. -/
  out : List Byte
  /-- The copy ends stomped (R314) for this BAD code or cause. -/
  stomp : Bool := false
  /-- Bytes sent before a bad cell when stomped for it. -/
  cutAt : Option Nat := none
  egTs : Nat
  /-- Run count in 2^-32 ns at T_eg. -/
  egRun : Int
  /-- The bytes after link security (R360), if the port protects the frame. -/
  wire : List Byte
  mirrors : List Nat
deriving DecidableEq, Repr

/-- A copy being discarded unread (R275). -/
structure Discard where
  copy : Copy
deriving DecidableEq, Repr

/-- An egress mirror copy in the staging buffer of a Junction half (R309). -/
structure Staged where
  sid : Nat
  session : Nat
  half : Nat
  /-- cid of the source copy, with which the copy is discarded if that is stomped or dropped, and the Yard it is read from. -/
  source : Nat
  yard : Nat
  /-- Queue and port of the session's DEST when the copy was staged. -/
  queue : Nat
  port : Nat
  bytes : List Byte
  m : Manifest
  wb : Waybill
  complete : Bool
deriving DecidableEq, Repr

/-- Live counts of one Yard (R279, R287). -/
structure YardSt where
  held : Sparse Nat := []
  hused : Sparse Nat := []
  sharedUsed : Nat := 0
  hpoolUsed : Nat := 0
  free : Nat := 131072
  /-- Indices of the retired cells (R287). -/
  retired : NatSet := []
  /-- Requesters whose XOFF state is set (R317). -/
  xoff : NatSet := []
  /-- `YD_SHARED_LIMIT` of the plan derived last (R292): what the quotas and limits that no policy names follow from. -/
  plan : Nat := 0x1EC00
deriving DecidableEq, Repr

/-- Scheduler state of one queue (R298, R299). Deficit in bytes, buckets in 1/8000 byte; `none`: no bucket (RATE 0). -/
structure QueueSt where
  deficit : Int := 0
  minBucket : Option Int := none
  maxBucket : Option Int := none
  /-- Run count in ns to which the buckets are filled. -/
  filled : Nat := 0
  /-- LIMIT_PCT of QUEUE_SET (R291, R320). -/
  limitPct : Nat := 50
  spillMode : Bool := false
  /-- A segment has been written since the mode began (R330). -/
  spilledOnce : Bool := false
deriving DecidableEq, Repr

/-- One mirror session (R307). -/
structure Session where
  dest : Nat
  tc : Nat
  trunc : Nat
deriving DecidableEq, Repr

/-- A bank of program or graph kept by a Line (R159, R193): the program with its bindings to instances (R236). -/
structure Bank where
  prog : Prog
  binds : Sparse Nat
  lbinds : Sparse Nat
deriving DecidableEq, Repr

/-- One learn submission waiting (R253). -/
structure LearnSub where
  iid : Nat
  key : Nat
  value : Nat
deriving DecidableEq, Repr

/-- A flap tracker (R256). -/
structure Tracker where
  iid : Nat
  key : Nat
  count : Nat
  start : Nat
deriving DecidableEq, Repr

/-- One physical ingress or egress Line. While it is fenced, its banks stand for the copies that the Signal Box keeps (R454). -/
structure LineSt where
  live : Bool := false
  curProg : Option Bank := none
  drnProg : Option Bank := none
  stgProg : Option Bank := none
  curGraph : Option Graph := none
  drnGraph : Option Graph := none
  stgGraph : Option Graph := none
  insts : List Inst := []
  ledgers : List LedgerInst := []
  nextIid : Nat := 0
  learnQ : List LearnSub := []
  trackers : List Tracker := []
  /-- The seed was written since the last commit (R493). -/
  seedDirty : Bool := false
  /-- State of the generator of RND (R182, R493); the reset value of the seed is 0. -/
  rnd : BitVec 64 := 0
  /-- Frames of the draining epoch are stale here: a relief Line that took over under a fence (R459). -/
  drnStale : Bool := false
deriving DecidableEq, Repr

/-- The device's epoch sequence (R209 to R219). -/
structure EpochSt where
  live : Bool := false
  cur : Nat := 0
  draining : Bool := false
  /-- Run count in ns at phase 2, and the age limit in ms (R217). -/
  phase2 : Nat := 0
  ageMs : Nat := 10
  /-- The waiting EPOCH_COMMIT: ring, scope, AGE_MS, TIMEOUT_MS, run count in ns when it began to wait (R229). -/
  waiting : Option (Nat × Nat × Nat × Nat × Nat) := none
  /-- Earliest stale epoch of Junction halves, Yards and Quarries, by island code (R219). -/
  oldest : Sparse Nat := []
deriving DecidableEq, Repr

/-- The header of one cell as a segment header holds it (R326): R272 without NEXT. -/
structure SegCell where
  refcnt : Nat := 0
  last : Bool := false
  bad : Nat := 0
  len : Nat := 0
  crc : Nat := 0
deriving DecidableEq, Repr

/-- One segment of a Quarry (R326, R330). -/
structure Seg where
  id : Nat
  slot : Nat
  queue : Nat
  /-- Its cells: copy and cell index. -/
  cells : List (Nat × Nat)
  /-- 0 writing, 1 accepted, 2 requested, 3 returned and waiting for admission. -/
  stage : Nat
  /-- The active channels of the map it was written under, rising. -/
  acts : List Nat
  /-- Spill key slot that protects it (R370). -/
  key : Nat
  /-- Channels its data lies in. -/
  chans : NatSet
  /-- The cell headers of its segment header, and the slot of the queue's next spilled segment (R326). -/
  hdrs : List SegCell := []
  next : Option Nat := none
  /-- The 32 cells as the memory holds them, encrypted (R328). -/
  units : List (List Byte) := []
  /-- Cells found bad on repeat at its return (R335). -/
  badCells : List Nat := []
deriving DecidableEq, Repr

/-- Settings of one DRAM bit (R349): read delay, write delay; Vref by rank and bit. -/
structure DqSet where
  rd : Nat := 0
  wr : Nat := 0
  vref : Nat := 0
deriving DecidableEq, Repr

/-- A transaction that waits at a channel (R336, R337): its segment, whether it writes, its channel byte address, and how many younger
transactions have bypassed it. -/
structure DramTx where
  seg : Nat
  write : Bool
  addr : Nat
  bypassed : Nat := 0
deriving DecidableEq, Repr

/-- One DRAM channel (R337 to R339, R343). -/
structure ChanSt where
  trained : Bool := false
  /-- Its transactions, oldest first (R337). -/
  queue : List DramTx := []
  /-- Gbit per rank of its parts, as MR8 reports it (R342). -/
  density : Nat := 0
  dq : Sparse DqSet := []
  drift : Int := 0
  /-- Drift for which the write timing was last updated (R343). -/
  wrDrift : Int := 0
  /-- Run count in ns of the last access to each bank (R338). -/
  rowAt : Sparse Nat := []
  /-- Open row of each bank, by 8 × rank + bank. -/
  openRow : Sparse (Option Nat) := []
  lastRow : Sparse (Option Nat) := []
  /-- 2-bit history counter of each bank, starting at 2. -/
  history : Sparse Nat := []
  /-- Refreshes that each rank owes, and the bank each rank refreshes next. -/
  owed : Sparse Nat := []
  nextBank : Sparse Nat := []
  /-- Ranks whose last MR4 reading was above the operating temperature. -/
  mr4High : NatSet := []
  retraining : Bool := false
  /-- Rings of the DRAM_TRAIN RETRAIN Orders that the retraining at work serves, and of those that wait for the next (R350). -/
  rings : List Nat := []
  next : List Nat := []
  /-- Run counts in ns of cells bad on repeat within the last ms (R335). -/
  badTimes : List Nat := []
deriving DecidableEq, Repr

/-- One Quarry (file 12). -/
structure QuarrySt where
  enabled : Bool := false
  selfRefresh : Bool := false
  ranks : Nat := 0
  speed : Nat := 0
  /-- Gbit per rank per channel in use. -/
  density : Nat := 0
  /-- Capacity of one channel in bytes. -/
  capacity : Nat := 0
  active : NatSet := []
  /-- The channels of the live map (R325): those in use until a new map is built (R344). -/
  mapActs : NatSet := []
  fenced : NatSet := []
  mapGen : Nat := 0
  grain : Nat := 13
  bankXor : Bool := true
  remap : Bool := false
  /-- Slots in use by segments; the slot last allocated (R329). -/
  lastSlot : Nat := 0
  segs : List Seg := []
  /-- Segments refused for lack of a slot, by queue and first cell, counted once each (R332). -/
  noSlot : List (Nat × Nat × Nat) := []
  /-- Waiting SPILL_SET ENABLE 0: ring, TIMEOUT_MS, run count in ns at its start. -/
  disabling : List (Nat × Nat × Nat) := []
  /-- CHANNELS of the SPILL_SET that enabled it. -/
  channels : Nat := 0
  resetN : Bool := false
  /-- Run count in ns when a transaction was last queued or in flight (R340). -/
  busyAt : Nat := 0
  /-- Run count in ns at the commit point of self-refresh, and the channels whose oscillator is due before the next read (R341). -/
  srTime : Nat := 0
  oscDue : NatSet := []
deriving DecidableEq, Repr

/-- All the state of the packet path. -/
structure PacketSt where
  /-- Next frame, copy, segment and staging numbers. -/
  nextId : Nat := 0
  rx : List RxFrame := []
  jn : List JnFrame := []
  shares : List Share := []
  queues : Sparse (List Copy) := []
  tx : List TxCopy := []
  discards : List Discard := []
  staged : List Staged := []
  /-- Frames in a Siding between egress and ingress Line (R216, R223), in order. -/
  sidings : List RxFrame := []
  /-- Slots that an ingress Line still gives its Platform before Siding frames may have one beside it (R226). -/
  sidingWait : Sparse Nat := []
  /-- Slots that an egress Line still gives its ports before its Siding queue may have one beside them (R300). -/
  sidingSlots : Sparse Nat := []
  /-- Host copies passed to the PCIe island and not yet handed to their queue (R303): half, queue, reason, bytes. -/
  hostCopies : List JnFrame := []
  qs : Sparse QueueSt := []
  /-- DWRR pointer per port and level, keyed 8 × port + level (R298). -/
  pointers : Sparse Nat := []
  yards : Sparse YardSt := []
  groups : Sparse Nat := []
  /-- SHARED_LIMIT of the plan derived last, as the shadow keeps it for every Yard (R454). -/
  plan : Nat := 0x1EC00
  sessions : Sparse (Option Session) := []
  /-- Ingress and egress sources: port → sessions (R307). -/
  inSrc : Sparse NatSet := []
  egSrc : Sparse NatSet := []
  /-- Copies of the banks of unfenced Lines whose domain went off (R454). -/
  iBanks : Sparse LineSt := []
  eBanks : Sparse LineSt := []
  ilines : Sparse LineSt := []
  elines : Sparse LineSt := []
  epoch : EpochSt := {}
  quarries : Sparse QuarrySt := []
  /-- SPEED, CHANNELS and RANKS of each enabled Quarry, as the shadow of R454 keeps them. -/
  spillCfg : Sparse (Option (Nat × Nat × Nat)) := []
  chans : Sparse ChanSt := []
deriving DecidableEq, Repr

end Sys2Proof.Machine
end

