-- ==== Sys2Proof/Machine/Parts/Ports.lean ====
section
/-!
DEFINITION. Plain data of lanes, ports, failover groups and management lanes (file 05).
-/

namespace Sys2Proof.Machine

/-- Port states and their codes (R135). -/
inductive PortState where
  | adminDown | an | training | aligning | up | fault | remote | backoff | quiet | waking
deriving DecidableEq, Repr

/-- The code PORT_STATE reports (R135). -/
def PortState.code : PortState → Nat
  | .adminDown => 1 | .an => 2 | .training => 3 | .aligning => 4 | .up => 5 | .fault => 6 | .remote => 7
  | .backoff => 8 | .quiet => 9 | .waking => 10

/-- One lane (R128 to R134). -/
structure LaneSt where
  los : Bool := true
  lock : Bool := false
  sd : Bool := false
  eye : Nat := 0
  txHeld : Bool := false
  tx : TxSet := { cm2 := 0, cm1 := 0, c0 := 0, c1 := 0, swing := 0 }
  /-- Setting and margin recorded at the last TRAIN_FAIL. -/
  best : Option (TxSet × Nat) := none
  /-- The lane is being retrained alone (R136). -/
  retrain : Bool := false
  /-- Taps of the receiver's FFE (8) and DFE (12) as adaptation left them (R128). -/
  ffe : List DWord := []
  dfe : List DWord := []
deriving DecidableEq, Repr

/-- The policy record of QUEUE_SET that is not held in words (R291, R320). -/
structure PortPolicy where
  peerNs : Nat := 600
  propNs : Nat := 500
  /-- QUOTA_PCT of each priority group, 0 for the default. -/
  quotaPct : Sparse Nat := []
deriving DecidableEq, Repr

/-- One configured port. -/
structure Port where
  mode : Nat
  an : Bool
  train : Bool
  rsFec : Bool
  quietOk : Bool
  advMask : Word
  maxFrame : Nat
  pfcEn : Nat
  st : PortState
  /-- The negotiated mode under AN, else MODE (R141). -/
  inForce : Nat
  fecInForce : Bool
  downCount : Nat := 0
  /-- Index into the BACKOFF schedule, and the run count in ns at which the wait began (R137). -/
  backoff : Nat := 0
  backoffAt : Nat := 0
  /-- A TRAIN_FAIL fault was raised since the port was configured or last UP (R137). -/
  failRaised : Bool := false
  /-- The port is in BACKOFF after TRAIN_FAIL (R141). -/
  afterFail : Bool := false
  quietAgreed : Bool := false
  standbyLost : Bool := false
  remoteFault : Bool := false
  /-- A skew fault was raised for this occurrence (R132). -/
  skewRaised : Bool := false
  /-- Received pause of each priority: the run count in ns at which it ends. -/
  paused : Sparse Nat := []
  /-- Run count in ns at which the port last reached UP (R150). -/
  upSince : Nat := 0
  policy : PortPolicy := {}
deriving DecidableEq, Repr

/-- One management lane configured by PORT_SET with MGMT (R144). -/
structure Mgmt where
  mode : Nat
  an : Bool
  adminDown : Bool
  maxFrame : Nat
  rxq : Nat
  txq : Nat
  st : PortState
  /-- What PORT_STATE reports of it besides (R141). -/
  los : Bool := true
  lock : Bool := false
  downCount : Nat := 0
deriving DecidableEq, Repr

/-- One failover group (R149). -/
structure Group where
  spread : Bool
  revert : Bool
  quietStandby : Bool
  wtr : Nat
  members : List Nat
  /-- PROTECT: the member it resolves to; SPREAD: 256 slots. -/
  current : Option Nat := none
  slots : List Nat := []
deriving DecidableEq, Repr

/-- Lanes, ports, groups and what the Platform keeps for them. -/
structure PortsSt where
  lanes : Sparse LaneSt := []
  ports : Sparse (Option Port) := []
  mgmt : Sparse (Option Mgmt) := []
  groups : Sparse (Option Group) := []
  /-- Causeway latency of each trained Tile (R17). -/
  causeway : Sparse (Option Word) := []
  /-- Line pair serving each Platform, by default its own number (R19). -/
  serving : Sparse (Option Nat) := []
  /-- Line pair that last served a Platform that none serves now (R458). -/
  lastServed : Sparse Nat := []
  /-- Line pair prepared for a Platform: Line → Platform (R458). -/
  prepared : Sparse (Option Nat) := []
  /-- District → Platform for which the automatic relief flow is to prepare the relief Line (R457). -/
  reliefDue : Sparse Nat := []
  /-- Outputs RECCLK_OUT held low since their source left UP (R147). -/
  recclkLow : NatSet := []
deriving DecidableEq, Repr

end Sys2Proof.Machine
end

