-- ==== Sys2Proof/Machine/Parts/Signal.lean ====
section
/-!
DEFINITION. Plain data of the Signal Box (file 17).
-/

namespace Sys2Proof.Machine

/-- Micro-state of a Signalman: what a save frame holds (R464, R471). -/
structure MicroSt where
  addr : Nat := 0
  z : Bool := false
  n : Bool := false
  c : Bool := false
  v : Bool := false
  lc : Nat := 0
  stack : List Nat := []
  s : Sparse Nat := []
deriving DecidableEq, Repr

/-- A trap entry of patch RAM (R473). -/
structure TrapEntry where
  addr : Nat
  target : Nat
  enable : Bool
deriving DecidableEq, Repr

/-- A bus operation that has been issued and whose word waits (R465). -/
structure BusWait where
  word : Nat
  done : Bool
  err : Bool
  governed : Bool
  /-- The word DST takes when the microword ends, or the status code that goes to its bits [15:0] (R468). -/
  value : Option Nat
  status : Nat
deriving DecidableEq, Repr

/-- One Signalman (R463 to R480). -/
structure SmSt where
  m : MicroSt := {}
  /-- Save frame of the last trap and its cause (R471). -/
  save : MicroSt := {}
  saveCause : Nat := 0
  inTrap : Bool := false
  lastCause : Nat := 0
  /-- Causes of traps that are due and wait for a boundary at which they can be taken (R469, R470). -/
  due : NatSet := []
  /-- Event mask of the routine and its duty event queue. No operation of the spec writes the mask. -/
  mask : Bool := false
  events : List Nat := []
  halted : Bool := false
  fenced : Bool := false
  /-- Words of the hold bracket executed so far, 0 where the last word had HOLD 0 (R469). -/
  bracket : Nat := 0
  wait : Option BusWait := none
  /-- Words left to single-step. -/
  steps : Option Nat := none
  /-- The debug port has let the Signalman go on: the breakpoint at the present address was taken. -/
  passBp : Bool := false
  /-- A routine runs: its turn has begun and has not ended by YIELD (R463, R470). -/
  running : Bool := false
  /-- Run count in ns at the start of that turn, moved on by the time spent halted, and at the last halt (R470). -/
  turnAt : Nat := 0
  haltedAt : Nat := 0
  loc : Sparse Byte := []
  patch : Sparse Nat := []
  traps : Sparse (Option TrapEntry) := []
  /-- The decrypted patch words that the boot island keeps (R473). -/
  image : Sparse Nat := []
  /-- A patch set is in use (R473, R475). -/
  patched : Bool := false
  bps : Sparse (Option Nat) := []
  /-- Ring of the MICRO_CALL routine that runs (R478), and for each word it staged the value before and the bits written (R472). -/
  call : Option Nat := none
  undo : Sparse (Word × Word) := []
deriving DecidableEq, Repr

/-- The Signal Box. -/
structure SignalSt where
  sms : Sparse SmSt := []
  /-- Signalman whose duties Signalman 3 holds (R476). -/
  cover : Option Nat := none
  /-- Duties that have lapsed. -/
  lapsed : NatSet := []
  /-- FRAME operations accepted for each port within the last ms: run counts in ns (R474). -/
  frames : Sparse (List Nat) := []
  /-- Records of the last trace of each Line, by 2 × Line, plus 1 for an egress Line (R482). -/
  traces : Sparse (List Byte) := []
deriving DecidableEq, Repr

end Sys2Proof.Machine
end

