-- ==== Sys2Proof/Machine/Parts/Time.lean ====
section
/-!
DEFINITION. Plain data of the Timetable (file 14) and of telemetry (file 15).
-/

namespace Sys2Proof.Machine

/-- A slew in progress (R384): what is left of its offset and D, in 2^-32 ns. -/
structure Slew where
  rem : Int
  d : Int
deriving DecidableEq, Repr

/-- A copy of the time (R390): its lock and its last loop measurements, in 2^-16 ns, newest first. -/
structure CopyLock where
  locked : Bool := false
  meas : List Nat := []
deriving DecidableEq, Repr

/-- A PPS input (R402). -/
structure PpsIn where
  ts : Nat := 0
  new : Bool := false
  overrun : Bool := false
  step : Nat := 0
  count : Nat := 0
deriving DecidableEq, Repr

/-- The Timetable's state besides its written words (R380 to R404). -/
structure TimeSt where
  sec : Nat := 0
  ns : Nat := 0
  frac : Nat := 0
  /-- The 64-bit run count in 2^-16 ns, and the 16 bits below it that TIME_FREQ's increments leave. -/
  run : Nat := 0
  runFrac : Nat := 0
  /-- The base increment in 2^-32 ns. -/
  incr : Nat := 0xCCCCCCCD
  slew : Option Slew := none
  holdover : Bool := true
  refLost : Bool := true
  refFreq : Bool := false
  stepCount : Nat := 0
  /-- Run count at the watchdog's starting point (R388). -/
  wdogStart : Nat := 0
  tile : Sparse CopyLock := []
  egress : Sparse CopyLock := []
  pps : Sparse PpsIn := []
  /-- Bits of TT_EVENT. -/
  events : Nat := 0
  /-- PPS_OUT levels that are high, and what is left of their WIDTH in 2^-32 ns (R403). -/
  ppsHigh : NatSet := []
  ppsLeft : Sparse Int := []
deriving DecidableEq, Repr

/-- One monitor (R419 to R422), keyed 65536 × KIND + INDEX. -/
structure Mon where
  bins : Sparse Nat := []
  min : Nat := 0xFFFFFFFF
  max : Nat := 0
  icount : Nat := 0
  linear : Bool := false
  step : Nat := 0
  /-- BASE, or OFFSET as 16 bits. -/
  base : Nat := 0
deriving DecidableEq, Repr

/-- An export port (R416 to R418). -/
structure ExportSt where
  record : List Byte := []
  /-- Data records of the open message, and the run count in ns at its first record. -/
  open' : List (List Byte) := []
  openAt : Nat := 0
  /-- Selected records waiting for the message to close. -/
  queued : List (List Byte) := []
  /-- Data records sent. -/
  seq : Nat := 0
  /-- Run counts in ns at which the last template was sent, and until which the port is sending at its 400 Gbit/s. -/
  templAt : Nat := 0
  busyTo : Nat := 0
deriving DecidableEq, Repr

/-- What a dump tick captured of one island (R428). -/
structure IslandDump where
  cycles : Nat
  counts : List Nat
  ctls : List Nat
  istate : Nat
  skew : Nat
deriving DecidableEq, Repr

/-- One dump record (R428): its header fields, island entries and monitors as captured. -/
structure DumpRec where
  /-- Where it goes: ring whose regions hold the buffers, BASE, COUNT, and VECTOR under NOTIFY (R429, R433). -/
  ring : Nat
  base : Nat
  count : Nat
  notify : Option Nat
  sections : Nat
  flags : Nat
  seq : Nat
  time : Nat
  run : Nat
  period : Nat
  skipped : Nat
  seconds : Nat
  /-- Island entries by place, `none` for one whose domain is off. -/
  islands : Sparse (Option IslandDump)
  mons : Sparse (Option Mon)
  /-- Monitors of islands whose domain is off: their entries are 0. -/
  dark : NatSet
deriving DecidableEq, Repr

/-- The clocks of the islands, as the performance counters see them (R424 to R426). -/
structure PmcSt where
  /-- Cycles of each clock so far, by `clockOf`. -/
  clocks : Sparse Nat := []
  /-- What an island's clock had counted when the island was last reset, by code. -/
  starts : Sparse Nat := []
  /-- The cycle after the one in which the event of a counter was last true, by the control address of its PMC_CTL. -/
  last : Sparse Nat := []
deriving DecidableEq, Repr

/-- Telemetry (R416 to R432). -/
structure TelemetrySt where
  mons : Sparse (Option Mon) := []
  exports : Sparse ExportSt := []
  dumpEn : Bool := false
  notify : Bool := false
  base : Nat := 0
  period : Nat := 0
  sections : Nat := 0
  count : Nat := 0
  vector : Nat := 0
  seq : Nat := 0
  skipped : Nat := 0
  /-- Ring whose regions DUMP_SET was checked against (R431); the buffer is checked again before each record (R429). -/
  ring : Nat := 0
  writing : Option DumpRec := none
  last : Option DumpRec := none
  nodeId : Nat := 0
  nsdShort : Nat := 0
  hlBack : Nat := 0x27
  nsdWide : Nat := 0
deriving DecidableEq, Repr

end Sys2Proof.Machine
end

