-- ==== Sys2Proof/Machine/State.lean ====
section
/-!
DEFINITION. The state of the TB5120, the reasons a step can stop, and the state right after reset.
-/

namespace Sys2Proof.Machine

/-- Why a step stops. -/
inductive Fault where
  /-- Raised by a command that names a unit outside the ranges of R27 (a lane above 511, a ring above 63, …): no such pin,
  wire or unit can send the event. Safe: the device never meets it. -/
  | noSuchUnit
deriving DecidableEq, Repr

/-- Why a command has no meaning. -/
inductive Refusal where
  /-- Raised by an arm of `exec` whose command has no meaning yet. Safe: no claim covers it. -/
  | notModelled (mnemonic : String)
deriving DecidableEq, Repr

/-- What the device sends to the outside: on a wire, a pin, a bus or the debug port, in order. -/
inductive Output where
  /-- A frame on a line lane port, without FCS; `stomped`: it ends with an inverted FCS and an error block (R314), after
  the bytes listed. -/
  | frame (port : Nat) (bytes : List Byte) (stomped : Bool)
  | mgmtFrame (lane : Nat) (bytes : List Byte)
  /-- XOFF (quanta) or XON (0) of one priority, and the PFC frame that carries it (R153). -/
  | pfc (port prio quanta : Nat) (bytes : List Byte)
  /-- The message page's OUI and the unformatted page that a port sends in negotiation (R127). -/
  | anPages (port : Nat) (oui : BitVec 24) (page : BitVec 11)
  /-- The answer of a lane in training to the coefficient requests of its partner (R133): updated, or not updated. -/
  | coefficients (lane : Nat) (updated : Bool)
  | remoteFault (port : Nat)
  /-- Quiet signalling (R142, R143): 0 markers, 1 answer, 2 beacon, 3 wake burst and sync word. -/
  | quiet (port kind : Nat)
  | msix (vector : Nat)
  /-- A completed Waybill of R410. -/
  | waybill (bytes : List Byte)
  /-- A segment as it is written to DRAM: Quarry, slot, ciphertext (R326, R369). -/
  | segment (quarry slot : Nat) (bytes : List Byte)
  /-- DRAM commands seen at a channel: 0 refresh of a bank, 1 all-bank refresh, 2 precharge, 3 self-refresh entry,
  4 self-refresh exit, 5 ZQ calibration, 6 MR4 read. -/
  | dram (channel kind arg : Nat)
  /-- A value a register read returns on PCI Express. -/
  | read (value : Nat)
  | smbus (bytes : List Byte)
  /-- The answer of the debug TAP: LOCKED (R481), or a status and what the command returns (R480). -/
  | debugLocked
  | debug (st : Status) (bytes : List Byte)
  | tdo (bits : Nat)
  | pps (k : Nat) (high : Bool)
deriving DecidableEq, Repr

/-- The chip: every register, memory, queue, counter, mode and pin, and what it has sent to the outside. -/
structure Chip where
  out : List Output := []
  /-- Host memory as far as the device has written it, addresses rising. -/
  hostMem : List Host.Cell := []
  power : PowerSt := {}
  boot : BootSt := {}
  host : HostSt := {}
  /-- Written words by control address: the live value, the staged value where it differs from the live one, and the
  shadow of R454. An unlisted live word holds its reset value. -/
  live : Sparse Word := []
  staged : Sparse Word := []
  shadow : Sparse Word := []
  /-- Status and read-back of the last word access that no Order carries. -/
  lastWrite : Option (Status × Word) := none
  faults : FaultSt := {}
  ports : PortsSt := {}
  pkt : PacketSt := {}
  cipher : CipherSt := {}
  time : TimeSt := {}
  tm : TelemetrySt := {}
  sb : SignalSt := {}
  pmc : PmcSt := {}
  bist : BistSt := {}
  /-- The number of free values taken so far: the model's own counter, no register of the device. -/
  free : Nat := 0
deriving DecidableEq, Repr

/-- The chip right after reset: VDD_AON has become good (R382), supply reset holds every other island (R45), and nothing is
recorded. -/
def Chip.reset : Chip := {}

/-- The whole machine: a block that takes commands from a queue. -/
structure State where
  /-- Commands waiting, first in, first out. -/
  pending : List Instr := []
  chip : Chip := {}
deriving DecidableEq, Repr

/-- The machine right after reset: no command waits. -/
def State.reset : State := { pending := [], chip := Chip.reset }

end Sys2Proof.Machine
end

