-- ==== Sys2Proof/Machine/Ops.lean ====
section
/-!
DEFINITION. The named operations every meaning uses: outputs, host memory, free values, words of the Cabins, lookups of
ports, lanes, Lines, queues and domains, and the running of an Order's effect.
-/

namespace Sys2Proof.Machine

/-! Outputs, host memory and free values -/

/-- Sends something to the outside. -/
def emit (o : Output) (s : Chip) : Chip := { s with out := s.out ++ [o] }

/-- Writes bytes into a sparse byte memory, listing every byte written. -/
def putBytes : List Host.Cell → Nat → List Byte → List Host.Cell
  | m, _, [] => m
  | m, a, b :: bs => putBytes (sins m a b) (a + 1) bs

/-- Writes bytes into host memory. -/
def hostWrite (a : Nat) (bs : List Byte) (s : Chip) : Chip := { s with hostMem := putBytes s.hostMem a bs }

/-- The byte of host memory the device last wrote at an address, if it wrote one. -/
def hostByte (s : Chip) (a : Nat) : Option Byte := sfind s.hostMem a

/-- Signals an MSI-X vector: sends the message, or records it while the vector is masked (R89, R120). -/
def msix (v : Nat) (s : Chip) : Chip :=
  if (match sfind s.host.msix (4 * v + 3) with | some w => w | none => 1).toNat % 2 = 1 then
    { s with host := { s.host with msixPending := nadd s.host.msixPending v } }
  else emit (.msix v) s

/-- The next free value and the state that has taken it. -/
def freeNext (s : Chip) : BitVec 64 := Config.freeValue s.free
def freeTake (s : Chip) : Chip := { s with free := s.free + 1 }

/-- `n` free bytes, and the state that has taken them. -/
def freeBytes (n : Nat) (s : Chip) : List Byte :=
  (((span s.free ((n + 7) / 8)).map (fun k => leBytes 8 (Config.freeValue k).toNat)).flatten).take n
def freeBytesTake (n : Nat) (s : Chip) : Chip := { s with free := s.free + (n + 7) / 8 }

/-! Time -/

/-- The run count in ns (R381). -/
def runNs (s : Chip) : Nat := s.time.run / 65536

/-- The ns of the run count since it read `since`, which wraps with its 64 bits (R381). -/
def elapsed (s : Chip) (since : Nat) : Nat := (runNs s + 2 ^ 48 - since) % 2 ^ 48

/-- The ns left until the run count reads `at'`, 0 once it has passed it. -/
def remaining (s : Chip) (at' : Nat) : Nat :=
  let d := (at' % 2 ^ 48 + 2 ^ 48 - runNs s) % 2 ^ 48
  if d < 2 ^ 47 then d else 0

/-- A time in the 64-bit report format (R391). -/
def report (sec ns frac : Nat) (q : Bool) : Nat :=
  pack [(63, 1, b2n q), (46, 17, sec), (16, 30, ns), (0, 16, frac / 65536)]

/-- The present time in the report format (R391). -/
def nowTs (s : Chip) : Nat := report s.time.sec s.time.ns s.time.frac s.time.holdover

/-! Words -/

/-- The value of a word that no write has changed: its reset value, or for a quota or a queue limit that no policy names, what the
plan derived last gives it (R292). -/
def defWord (s : Chip) (ca : Nat) : Word :=
  match islOf (ca / 2 ^ 32) with
  | some (.yard y) =>
    let off := ca % 2 ^ 32
    let plan := (sget {} s.pkt.yards y).plan
    if 0x10000 ≤ off && off < 0x10000 + 16 * 4096 && off % 16 = 4 then BitVec.ofNat 32 (plan * 25 / 100)
    else if 0x40000 ≤ off && off < 0x40000 + 4 * 10276 && off % 4 = 0 then BitVec.ofNat 32 (plan * 50 / 100)
    else resetWord ca
  | _ => resetWord ca

/-- The live value of a word. -/
def liveW (s : Chip) (ca : Nat) : Word := match sfind s.live ca with | some w => w | none => defWord s ca

/-- The staged value of a word, equal to the live one where none is staged (R113). -/
def stagedW (s : Chip) (ca : Nat) : Word := match sfind s.staged ca with | some w => w | none => liveW s ca

/-- Sets the live value of a word. -/
def setLive (ca : Nat) (v : Word) (s : Chip) : Chip :=
  { s with live := if v = defWord s ca then sdel s.live ca else sins s.live ca v }

/-- Sets the staged value of a word (R113). -/
def setStaged (ca : Nat) (v : Word) (s : Chip) : Chip :=
  { s with staged := if v = liveW s ca then sdel s.staged ca else sins s.staged ca v }

/-- Records a written word in the shadow of R454. -/
def setShadow (ca : Nat) (v : Word) (s : Chip) : Chip := { s with shadow := sins s.shadow ca v }

/-- The bits set in `mask` take the bits of `new` (R118). -/
def mergeW (old new mask : Word) : Word := (old &&& ~~~mask) ||| (new &&& mask)

/-- A field of the live value of a word. -/
def fieldOf (s : Chip) (i : Isl) (off lo w : Nat) : Nat := bits (liveW s (caddr i off)).toNat lo w

/-- Sets a field of a live word. -/
def setField' (i : Isl) (off lo w v : Nat) (s : Chip) : Chip :=
  let ca := caddr i off
  setLive ca (mergeW (liveW s ca) (packW [(lo, w, v)]) (packW [(lo, w, 2 ^ w - 1)])) s

/-- Adds to a counter field, saturating at all ones (R8). -/
def bumpField (i : Isl) (off lo w n : Nat) (s : Chip) : Chip :=
  setField' i off lo w (satAdd (2 ^ w - 1) (fieldOf s i off lo w) n) s

/-- Adds `n` to a 32-bit RC counter of a Cabin. -/
def bump (i : Isl) (off n : Nat) (s : Chip) : Chip := bumpField i off 0 32 n s

/-! Performance counters (R424 to R426) -/

/-- The clock of an island: 0 the 1.6 GHz of Lines, Junction and Yards (R16), 1 the tick of the Timetable, else one of its own. -/
def clockOf : Isl → Nat
  | .iline _ => 0 | .eline _ => 0 | .yard _ => 0 | .jn _ => 0 | .tt => 1 | i => 2 + i.code

/-- Cycles of an island's clock so far. -/
def clockNow (s : Chip) (i : Isl) : Nat := sget 0 s.pmc.clocks (clockOf i)

/-- PMC_CYCLES: cycles since the island's reset, modulo 2^64 (R424). -/
def pmcCycles (s : Chip) (i : Isl) : Nat := (clockNow s i + 2 ^ 64 - sget 0 s.pmc.starts i.code % 2 ^ 64) % 2 ^ 64

/-- PMC_CTL of counter `k`, as a number. -/
def pmcCtl (s : Chip) (i : Isl) (k : Nat) : Nat := (liveW s (caddr i (0x48 + 4 * k))).toNat

/-- The 48 bits of counter `k`. -/
def pmcCnt (s : Chip) (i : Isl) (k : Nat) : Nat :=
  (liveW s (caddr i (0x80 + 8 * k))).toNat + (liveW s (caddr i (0x84 + 8 * k))).toNat * 2 ^ 32

/-- Adds to a counter, which wraps with its 48 bits. -/
def pmcAdd (i : Isl) (k n : Nat) (s : Chip) : Chip :=
  let v := (pmcCnt s i k + n) % 2 ^ 48
  setLive (caddr i (0x84 + 8 * k)) (BitVec.ofNat 32 (v / 2 ^ 32)) (setLive (caddr i (0x80 + 8 * k)) (BitVec.ofNat 32 v) s)

/-- The event of counter `k` is true in the present cycle, up to the cycle `till`. -/
def pmcMark (i : Isl) (k till : Nat) (s : Chip) : Chip :=
  { s with pmc := { s.pmc with last := sput 0 s.pmc.last (caddr i (0x48 + 4 * k)) till } }

/-- Whether an occurrence adds to a counter: in LEVEL mode one of a further clock does, in edge mode one that does not follow back to
back; `none` where the clocks passed since the last one do not tell (R425). A frame in a slot occurs at most once per clock. -/
def pmcCounts (s : Chip) (i : Isl) (k : Nat) : Option Bool :=
  let ctl := pmcCtl s i k
  let last := sget 0 s.pmc.last (caddr i (0x48 + 4 * k))
  let gap := clockNow s i + 1 - last
  if last = 0 || (bit ctl 30 && (bits ctl 0 16 = 0x10 || 0 < gap)) || 1 < gap then some true else none

/-- An event of R426 occurs in an island: every enabled counter set to it counts it (R425). Whether two occurrences fall in one clock, or in
clocks that follow each other, is a free value where the clocks do not tell; a field access takes a free number of clocks (DESIGN CHOICE,
log 118). -/
def pmcCount (i : Isl) (event sub : Nat) (s : Chip) : Chip :=
  (span 0 8).foldl (fun s k =>
    let ctl := pmcCtl s i k
    if bit ctl 31 && bits ctl 0 16 == event && bits ctl 16 4 == sub then
      let x := (freeNext s).toNat
      let n := match pmcCounts s i k with | some b => b2n b | none => x % 2
      let n := if event = 2 && bit ctl 30 then n + x / 2 % 2 ^ 16 else n
      pmcMark i k (clockNow s i + 1) (pmcAdd i k n (freeTake s))
    else s) s

/-- An island's cycle count starts again, with its reset (R424). -/
def restartClock (i : Isl) (s : Chip) : Chip :=
  { s with pmc := { s.pmc with starts := sput 0 s.pmc.starts i.code (clockNow s i)
                               last := s.pmc.last.filter (fun x => ¬ x.1 / 2 ^ 32 = i.code) } }

/-- Drops every written word of an island: both values return to reset (R113), and its cycles count from here (R424). -/
def resetWords (i : Isl) (s : Chip) : Chip :=
  let s := restartClock i s
  { s with live := s.live.filter (fun p => ¬ p.1 / 2 ^ 32 = i.code),
           staged := s.staged.filter (fun p => ¬ p.1 / 2 ^ 32 = i.code) }

/-! Cabins and domains -/

/-- The fault and fence words of an island. -/
def cabOf (s : Chip) (i : Isl) : CabSt := sget {} s.faults.cabs i.code

/-- Changes them. -/
def modCab (i : Isl) (f : CabSt → CabSt) (s : Chip) : Chip :=
  { s with faults := { s.faults with cabs := smod {} s.faults.cabs i.code f } }

/-- The island is fenced (R440). -/
def isFenced (s : Chip) (i : Isl) : Bool := (cabOf s i).fenced

/-- Counts a request answered `FENCED` (R450). -/
def countFencedReq (i : Isl) (s : Chip) : Chip := bump i 0x14 1 s

/-- A power domain. -/
def domainSt (s : Chip) (n : Nat) : DomainSt := sget {} s.power.domains n

/-- Changes a power domain. -/
def modDomain (n : Nat) (f : DomainSt → DomainSt) (s : Chip) : Chip :=
  { s with power := { s.power with domains := smod {} s.power.domains n f } }

/-- The island has power (R48). -/
def isOn (s : Chip) (i : Isl) : Bool := match domainOf i with | none => true | some n => (domainSt s n).on

/-- Chip hold is in force (R449). -/
def chipHold (s : Chip) : Bool := s.faults.hold ≠ []

/-- System scope is held in reset (R45, R63). -/
def inReset (s : Chip) : Bool := s.power.supplyHeld || s.power.pinHeld

/-! Port modes (R125) -/

/-- A mode of R125: rate in Gbit/s, lanes, symbol rate in kBd, NRZ signalling, and FEC (0 none or MODE 0x02's choice, 1
RS(528,514), 2 RS(544,514)). -/
structure ModeSpec where
  rate : Nat
  width : Nat
  kbd : Nat
  nrz : Bool
  fec : Nat
deriving DecidableEq, Repr

/-- The table of R125. -/
def modeTable : Sparse ModeSpec :=
  [(0x01, ⟨10, 1, 10312500, true, 0⟩), (0x02, ⟨25, 1, 25781250, true, 0⟩), (0x03, ⟨50, 1, 26562500, false, 2⟩),
   (0x04, ⟨100, 1, 53125000, false, 2⟩), (0x05, ⟨200, 1, 106250000, false, 2⟩), (0x06, ⟨400, 1, 212500000, false, 2⟩),
   (0x09, ⟨100, 2, 26562500, false, 2⟩), (0x0A, ⟨200, 2, 53125000, false, 2⟩), (0x0B, ⟨400, 2, 106250000, false, 2⟩),
   (0x0C, ⟨800, 2, 212500000, false, 2⟩), (0x10, ⟨100, 4, 25781250, true, 1⟩), (0x11, ⟨200, 4, 26562500, false, 2⟩),
   (0x12, ⟨400, 4, 53125000, false, 2⟩), (0x13, ⟨800, 4, 106250000, false, 2⟩), (0x14, ⟨1600, 4, 212500000, false, 2⟩),
   (0x18, ⟨400, 8, 26562500, false, 2⟩), (0x19, ⟨800, 8, 53125000, false, 2⟩), (0x1A, ⟨1600, 8, 106250000, false, 2⟩),
   (0x1B, ⟨3200, 8, 212500000, false, 2⟩)]

/-- A mode's row, if R125 has it. -/
def modeSpec (m : Nat) : Option ModeSpec := sfind modeTable m

/-- Lanes of a mode. -/
def modeWidth (m : Nat) : Nat := match modeSpec m with | none => 1 | some x => x.width

/-- Rate of a mode in Gbit/s. -/
def modeRate (m : Nat) : Nat := match modeSpec m with | none => 0 | some x => x.rate

/-! Ports and lanes -/

/-- A configured port (R29). -/
def portOf (s : Chip) (p : Nat) : Option Port := sget none s.ports.ports p

/-- Replaces a port's record. -/
def setPort (p : Nat) (v : Option Port) (s : Chip) : Chip :=
  { s with ports := { s.ports with ports := sput none s.ports.ports p v } }

/-- Changes a configured port. -/
def modPort (p : Nat) (f : Port → Port) (s : Chip) : Chip :=
  match portOf s p with | none => s | some v => setPort p (some (f v)) s

/-- One lane. -/
def laneOf (s : Chip) (l : Nat) : LaneSt := sget {} s.ports.lanes l

/-- Changes a lane. -/
def modLane (l : Nat) (f : LaneSt → LaneSt) (s : Chip) : Chip :=
  { s with ports := { s.ports with lanes := smod {} s.ports.lanes l f } }

/-- Numbers of the configured ports. -/
def portList (s : Chip) : List Nat := (s.ports.ports.filter (fun x => x.2.isSome)).map (fun x => x.1)

/-- The lanes of a port. -/
def portLanes (p : Nat) (v : Port) : List Nat := span p (modeWidth v.mode)

/-- The configured port a lane belongs to. -/
def portOfLane (s : Chip) (l : Nat) : Option Nat :=
  (portList s).find? (fun p => match portOf s p with | none => false | some v => p ≤ l && l < p + modeWidth v.mode)

/-- The port is in UP (R135). -/
def portUp (s : Chip) (p : Nat) : Bool := match portOf s p with | none => false | some v => v.st = .up

/-- Rate of a port in force, in Gbit/s. -/
def portRate (s : Chip) (p : Nat) : Nat := match portOf s p with | none => 0 | some v => modeRate v.inForce

/-- The Platform and lane index of a port or lane (R27). -/
def platformOf (p : Nat) : Nat := p / 16
def laneIndex (p : Nat) : Nat := p % 16

/-- A word of the port block at `base` of its Platform Cabin. -/
def portWord (p base off : Nat) : Nat := caddr (.platform (platformOf p)) (base + 0x40 * laneIndex p + off)

/-- The home Yard of a Platform (R21). -/
def homeYard (k : Nat) : Nat := k / 4

/-! Lines and queues -/

/-- The Line pair that serves a Platform (R19). -/
def servingLine (s : Chip) (k : Nat) : Option Nat :=
  match sfind s.ports.serving k with | none => some k | some x => x

/-- Makes a Line pair, or none, serve a Platform; remembers the last one that did (R458). -/
def setServing (k : Nat) (n : Option Nat) (s : Chip) : Chip :=
  let last := match n, servingLine s k with
    | none, some o => sins s.ports.lastServed k o
    | _, _ => s.ports.lastServed
  { s with ports := { s.ports with serving := if n = some k then sdel s.ports.serving k else sins s.ports.serving k n,
                                   lastServed := last } }

/-- The Platform a Line pair serves. -/
def servedBy (s : Chip) (n : Nat) : Option Nat := (span 0 32).find? (fun k => servingLine s k = some n)

/-- The Platform a Line pair is prepared for (R458). -/
def preparedFor (s : Chip) (n : Nat) : Option Nat := sget none s.ports.prepared n

/-- The Platform whose home Yard holds the Siding queue of a pair (R223). A relief pair that has served none holds it in
the first Yard of its District (DESIGN CHOICE, log 6). -/
def sidingPlatform (s : Chip) (n : Nat) : Nat :=
  if n < 32 then n
  else match servedBy s n with
    | some k => k
    | none => match preparedFor s n with
      | some k => k
      | none => match s.ports.lastServed.find? (fun x => x.2 = n) with
        | some x => x.1
        | none => 8 * (n - 32)

/-- The port of a port queue (R27). -/
def queuePort (q : Nat) : Option Nat :=
  if q < 8192 then some (q / 16) else if q < 10240 then some ((q - 8192) / 4) else none

/-- The Yard that holds a queue (R295). -/
def queueYard (s : Chip) (q : Nat) : Nat :=
  match queuePort q with | some p => homeYard (platformOf p) | none => homeYard (sidingPlatform s (q - 10240))

/-- Index j of a queue at its port (R295). -/
def queueIndex (q : Nat) : Nat := if q < 8192 then q % 16 else 16 + (q - 8192) % 4

/-- Queue `j` of a port (R295). -/
def queueId (p j : Nat) : Nat := if j < 16 then 16 * p + j else 8192 + 4 * p + (j - 16)

/-- The egress Line whose scheduler serves a queue. -/
def queueLine (s : Chip) (q : Nat) : Option Nat :=
  match queuePort q with | some p => servingLine s (platformOf p) | none => some (q - 10240)

/-- Control address of a scheduling word (0 CFG, 4 MIN, 8 MAX) of a queue at an egress Line (R301). -/
def schedWordAt (n q o : Nat) : Nat :=
  match queuePort q with
  | some p => caddr (.eline n) (0x2000 + 0x200 * laneIndex p + 0x10 * queueIndex q + o)
  | none => caddr (.eline n) (0x4000 + o)

/-- The queue exists: its port is configured, or it is a Siding queue (R29, R223). -/
def queueExists (s : Chip) (q : Nat) : Bool :=
  match queuePort q with | some p => (portOf s p).isSome | none => decide (q < 10276)

/-- An ingress or egress Line. -/
def lineOf (s : Chip) (egress : Bool) (n : Nat) : LineSt := sget {} (if egress then s.pkt.elines else s.pkt.ilines) n

/-- Replaces a Line. -/
def setLine (egress : Bool) (n : Nat) (v : LineSt) (s : Chip) : Chip :=
  if egress then { s with pkt := { s.pkt with elines := sput {} s.pkt.elines n v } }
  else { s with pkt := { s.pkt with ilines := sput {} s.pkt.ilines n v } }

/-- Changes a Line. -/
def modLine (egress : Bool) (n : Nat) (f : LineSt → LineSt) (s : Chip) : Chip :=
  setLine egress n (f (lineOf s egress n)) s

/-- The island of a Line. -/
def lineIsl (egress : Bool) (n : Nat) : Isl := if egress then .eline n else .iline n

/-- Changes the packet state. -/
def modPkt (f : PacketSt → PacketSt) (s : Chip) : Chip := { s with pkt := f s.pkt }

/-- The copies queued in a queue. -/
def queueOf (s : Chip) (q : Nat) : List Copy := sget [] s.pkt.queues q

/-- Replaces a queue. -/
def setQueue (q : Nat) (l : List Copy) (s : Chip) : Chip :=
  modPkt (fun k => { k with queues := sput [] k.queues q l }) s

/-- Scheduler state of a queue. -/
def queueSt (s : Chip) (q : Nat) : QueueSt := sget {} s.pkt.qs q

/-- Changes it. -/
def modQueueSt (q : Nat) (f : QueueSt → QueueSt) (s : Chip) : Chip :=
  modPkt (fun k => { k with qs := smod {} k.qs q f }) s

/-- A Yard's live counts. -/
def yardOf (s : Chip) (y : Nat) : YardSt := sget {} s.pkt.yards y

/-- Changes them, and raises the watermark of cells in use (R290). -/
def modYard (y : Nat) (f : YardSt → YardSt) (s : Chip) : Chip :=
  let s := modPkt (fun k => { k with yards := smod {} k.yards y f }) s
  let used := 131072 - (yardOf s y).free - (yardOf s y).retired.length
  if used > fieldOf s (.yard y) 0x0114 0 18 then setField' (.yard y) 0x0114 0 18 used s else s

/-- A Quarry. -/
def quarryOf (s : Chip) (q : Nat) : QuarrySt := sget {} s.pkt.quarries q

/-- Changes it. -/
def modQuarry (q : Nat) (f : QuarrySt → QuarrySt) (s : Chip) : Chip :=
  modPkt (fun k => { k with quarries := smod {} k.quarries q f }) s

/-- A DRAM channel. -/
def chanOf (s : Chip) (c : Nat) : ChanSt := sget {} s.pkt.chans c

/-- Changes it. -/
def modChan (c : Nat) (f : ChanSt → ChanSt) (s : Chip) : Chip :=
  modPkt (fun k => { k with chans := smod {} k.chans c f }) s

/-- Cells of `n` bytes (R271). -/
def cellsOf (n : Nat) : Nat := (n + 255) / 256

/-- A cell of a copy that its queue still counts (R279). -/
def CellPlace.held : CellPlace → Bool
  | .done => false | .lost => false | _ => true

/-- A cell of a copy on chip. -/
def CellPlace.onChip : CellPlace → Bool
  | .shared => true | .own _ _ _ => true | _ => false

/-- Every copy in the device: queued, travelling or being discarded. -/
def allCopies (s : Chip) : List Copy :=
  (s.pkt.queues.map (fun x => x.2)).flatten ++ s.pkt.tx.map (fun t => t.copy) ++ s.pkt.discards.map (fun d => d.copy)

/-- DEPTH(q): the cells of a queue, on chip and spilled (R279). -/
def depthOf (s : Chip) (q : Nat) : Nat :=
  ((allCopies s).filter (fun c => c.queue = q)).foldl (fun n c => n + (c.places.filter CellPlace.held).length) 0

/-- On-chip cells of the copies queued in a queue (R330). -/
def onChipOf (s : Chip) (q : Nat) : Nat :=
  (queueOf s q).foldl (fun n c => n + (c.places.filter CellPlace.onChip).length) 0

/-- A word of requester `r` of a Yard: RSV, QUOTA, HDRM (R290). -/
def rqWord (s : Chip) (y r o : Nat) : Nat := (liveW s (caddr (.yard y) (0x10000 + 16 * r + o))).toNat

/-- A word of queue `q` at a Quarry: THRESH, REFILL, ALLOW (R346). -/
def spillWord (s : Chip) (y q o : Nat) : Nat := (liveW s (caddr (.quarry y) (0x40000 + 16 * q + o))).toNat

/-- A queue is spill-mapped (R346). -/
def spillMapped (s : Chip) (q : Nat) : Bool := decide (q < 10240) && spillWord s (queueYard s q) q 8 ≠ 0

/-! Frames held by epoch (R211, R216) -/

/-- The epoch is stale: neither current nor draining (R211). -/
def isStale (s : Chip) (e : Nat) : Bool :=
  ¬ e = s.pkt.epoch.cur && ¬ (s.pkt.epoch.draining && e == (s.pkt.epoch.cur + 65535) % 65536)

/-- The epoch is the draining one. -/
def isDraining (s : Chip) (e : Nat) : Bool := s.pkt.epoch.draining && e == (s.pkt.epoch.cur + 65535) % 65536

/-- A copy with a cell in a segment, which its Quarry counts (R216). -/
def Copy.spilledNow (c : Copy) : Bool := c.places.any (fun p => match p with | .seg _ => true | _ => false)

/-- The epoch a frame counts under: a DIRECT frame takes the current one (R121). -/
def countEpoch (s : Chip) (direct : Bool) (e : Nat) : Nat := if direct then s.pkt.epoch.cur else e

/-- Island code and epoch of every frame held (R216). A dropped copy whose cells still wait for their walk (R275) is held by none. -/
def heldFrames (s : Chip) : List (Nat × Nat) :=
  (s.pkt.rx.filter (fun f => f.siding)).map (fun f => ((Isl.iline f.line).code, f.m.epoch)) ++
  s.pkt.jn.map (fun f => ((Isl.jn f.half).code, countEpoch s f.direct.isSome f.m.epoch)) ++
  s.pkt.hostCopies.map (fun f => ((Isl.jn f.half).code, f.m.epoch)) ++
  s.pkt.staged.map (fun f => ((Isl.jn f.half).code, f.m.epoch)) ++
  (s.pkt.queues.map (fun x => x.2.map (fun c =>
    (if c.spilledNow then (Isl.quarry c.yard).code else (Isl.yard c.yard).code, countEpoch s c.direct c.m.epoch)))).flatten ++
  s.pkt.tx.map (fun t => ((Isl.eline t.line).code, countEpoch s t.copy.direct t.copy.m.epoch)) ++
  s.pkt.sidings.map (fun f => ((Isl.eline f.line).code, f.m.epoch))

/-- Held count of an island: 0 current, 1 draining, 2 stale (R222). A fenced island counts 0. -/
def heldCount (s : Chip) (i : Isl) (which : Nat) : Nat :=
  if isFenced s i then 0
  else ((heldFrames s).filter (fun x => x.1 == i.code && (if which = 0 then decide (x.2 = s.pkt.epoch.cur)
    else if which = 1 then isDraining s x.2 else isStale s x.2))).length

/-- Frames held of the draining epoch over all islands. -/
def drainingHeld (s : Chip) : Nat := ((heldFrames s).filter (fun x => isDraining s x.2)).length

/-- Some island holds stale frames. -/
def someStale (s : Chip) : Bool := (heldFrames s).any (fun x => isStale s x.2)

/-- How far epoch `e` lies before epoch `c`, modulo 2^16 (R31). -/
def epochAge (c e : Nat) : Nat := (c + 65536 - e % 65536) % 65536

/-- Each island records the earliest stale epoch it holds until its stale count returns to 0 (R219). -/
def noteStale (s : Chip) : Chip :=
  let cur := s.pkt.epoch.cur
  let held := (heldFrames s).filter (fun x => isStale s x.2)
  let keep := s.pkt.epoch.oldest.filter (fun x => held.any (fun h => h.1 = x.1))
  let next := held.foldl (fun (m : Sparse Nat) h =>
    match sfind m h.1 with
    | none => sins m h.1 h.2
    | some e => if epochAge cur h.2 > epochAge cur e then sins m h.1 h.2 else m) keep
  modPkt (fun k => { k with epoch := { k.epoch with oldest := next } }) s

/-- An EPOCH_COMMIT waits whose scope names Line pair `n` (R229). -/
def commitWaits (s : Chip) (n : Nat) : Bool :=
  match s.pkt.epoch.waiting with | none => false | some (_, lines, _, _, _) => bit lines n

/-! Outcomes -/

/-- What a command does to the chip; the queue stays as it is. -/
def onChip (s : State) (f : Chip → Chip) : Host.Outcome State Fault Refusal := .next { s with chip := f s.chip }

/-- A command that names a unit outside R27 stops; any other does what it does to the chip. -/
def onUnit (ok : Bool) (s : State) (f : Chip → Chip) : Host.Outcome State Fault Refusal :=
  if ok then onChip s f else .fault .noSuchUnit

end Sys2Proof.Machine
end

