-- ==== Sys2Proof/Machine/Clock.lean ====
section
/-!
DEFINITION. One tick of the Timetable (R380, R381, R384) with the edges of its pulses (R403), which is part of what a step does when no
command waits, and the bits of `TT_EVENT` (R404).
-/

namespace Sys2Proof.Machine

/-- The increments R383 holds the clock to, in 2^-32 ns. -/
def incrMin : Nat := 0xCC985F07
def incrMax : Nat := 0xCD013A93

/-- What the slew in progress adds at this tick: D, or the remainder on the last tick (R384). -/
def slewAdd (w : Slew) : Int :=
  if 0 < w.rem then min w.d w.rem else max w.d w.rem

/-- The slew in progress ends at this tick (R384). -/
def slewDone (t : TimeSt) : Bool := match t.slew with | none => false | some w => decide (w.rem = slewAdd w)

/-- NANOSECONDS:FRACTION moved by a signed number of 2^-32 ns, with its carry into or borrow from SECONDS (R380). -/
def moveClock (d : Int) (t : TimeSt) : TimeSt :=
  let ns : Int := (t.sec : Int) * 1000000000 * 2 ^ 32 + (t.ns : Int) * 2 ^ 32 + t.frac + d
  let total := (ns % (2 ^ 48 * 1000000000 * 2 ^ 32 : Int)).toNat
  { t with sec := total / (1000000000 * 2 ^ 32), ns := total / 2 ^ 32 % 1000000000, frac := total % 2 ^ 32 }

/-- One tick: NANOSECONDS:FRACTION takes the effective increment and carries into SECONDS, and the run count takes the base
increment (R380, R381). A slew that has added its whole offset ends (R384). -/
def tickTime (t : TimeSt) : TimeSt :=
  let add := match t.slew with | none => 0 | some w => slewAdd w
  let fine := t.runFrac + t.incr
  let t' := moveClock (t.incr + add) t
  { t' with
    run := (t.run + fine / 65536) % 2 ^ 64
    runFrac := fine % 65536
    slew := match t.slew with
      | none => none
      | some w => if w.rem = add then none else some { w with rem := w.rem - add } }

/-- A bit of `TT_EVENT` becomes 1: with EN of `TT_EV_CTRL` set it signals its vector (R404). -/
def ttEvent (k : Nat) (s : Chip) : Chip :=
  if bit s.time.events k then s
  else
    let s := { s with time := { s.time with events := s.time.events + 2 ^ k } }
    let c := (liveW s (caddr .tt 0x0304)).toNat
    if bit c 31 && !inReset s then msix (c % 256) s else s

/-- VDD_AON is lost, rail 5 of R43: the always-on domain has no power (R46). -/
def aonLost (s : Chip) : Bool := s.power.railsLost.contains 5

/-! Pulses (R403) -/

/-- A signed word in 2^-16 ns. -/
def signedWord (s : Chip) (ca : Nat) : Int := signed 32 (liveW s ca).toNat

/-- TT_PPS_OUT_CTRL of an output. -/
def ppsCtrl (s : Chip) (k : Nat) : Nat := (liveW s (caddr .tt (0x0200 + 16 * k))).toNat

/-- STOP_HOLD holds `PPS_OUT[k]` low while TT_HOLDOVER is 1. -/
def ppsStopped (s : Chip) (k : Nat) : Bool := bit (ppsCtrl s k) 30 && s.time.holdover

/-- `PPS_OUT[k]` falls. -/
def ppsFall (k : Nat) (s : Chip) : Chip :=
  emit (.pps k false) { s with time := { s.time with ppsHigh := ndel s.time.ppsHigh k, ppsLeft := sdel s.time.ppsLeft k } }

/-- Outputs that STOP_HOLD holds low fall at once. -/
def ppsHold (s : Chip) : Chip := (s.time.ppsHigh.filter (ppsStopped s)).foldl (fun s k => ppsFall k s) s

/-- What the next tick adds to the clock: the effective increment (R383). -/
def effIncr (t : TimeSt) : Int := t.incr + (match t.slew with | none => 0 | some w => slewAdd w)

/-- The target of `PPS_OUT[k]` within a second, in 2^-32 ns: its offset, advanced by its delay. -/
def ppsTarget (s : Chip) (k : Nat) : Int :=
  ((liveW s (caddr .tt (0x0204 + 16 * k))).toNat % 2 ^ 30 : Nat) * 2 ^ 32 - signedWord s (caddr .tt (0x0208 + 16 * k)) * 2 ^ 16

/-- The clock passes a target of every second at its next tick. -/
def passesAt (t : TimeSt) (target : Int) : Bool :=
  let sec : Int := 1000000000 * 2 ^ 32
  let now : Int := t.ns * 2 ^ 32 + t.frac
  decide ((now - target) / sec < (now + effIncr t - target) / sec)

/-- `PPS_OUT[k]` rises at the next tick: EN is 1, nothing holds it low (R56, R403), and the clock passes its target. -/
def ppsRises (s : Chip) (k : Nat) : Bool :=
  bit (ppsCtrl s k) 31 && !ppsStopped s k && !s.power.supplyHeld && !s.time.ppsHigh.contains k && passesAt s.time (ppsTarget s k)

/-- `PPS_OUT[k]` falls at the next tick: its WIDTH ends. -/
def ppsFalls (s : Chip) (k : Nat) : Bool := s.time.ppsHigh.contains k && decide (sget 0 s.time.ppsLeft k ≤ effIncr s.time)

/-- `PPS_OUT[k]` at a tick from the state `s0` (R403). -/
def ppsTick (s0 : Chip) (k : Nat) (s : Chip) : Chip :=
  if ppsFalls s0 k then ppsFall k s
  else if s0.time.ppsHigh.contains k then { s with time := { s.time with ppsLeft := smod 0 s.time.ppsLeft k (· - effIncr s0.time) } }
  else if ppsRises s0 k then
    emit (.pps k true) { s with time := { s.time with
      ppsHigh := nadd s.time.ppsHigh k
      ppsLeft := sput 0 s.time.ppsLeft k (bits (ppsCtrl s k) 20 10 * 1000 * 2 ^ 32 : Nat) } }
  else s

/-- The Timetable ticks, even in reset, while VDD_AON is good (R46). -/
def idleTick (s : Chip) : Chip :=
  if aonLost s then s
  else
    let t := { s with time := tickTime s.time }
    ppsTick s 1 (ppsTick s 0 (if slewDone s.time then ttEvent 3 t else t))

end Sys2Proof.Machine
end

