-- ==== Sys2Proof/Machine/Operands.lean ====
section
/-!
DEFINITION. The 32 bytes of an Order and the operand forms of every Order card (R97, R98, R124): which command an Order
asks for, its level, its payload and whether it reads or writes it. Checks 1 to 4 of R99 rest on this file.
-/

namespace Sys2Proof.Machine

/-- Opcode and level of each Order (R124). -/
def orderLevels : Sparse Nat :=
  [(0x0101, 2), (0x0102, 2), (0x0103, 2), (0x0104, 2), (0x0201, 1), (0x0202, 0), (0x0203, 1), (0x0204, 2), (0x0301, 1),
   (0x0302, 1), (0x0303, 1), (0x0304, 0), (0x0401, 1), (0x0402, 1), (0x0403, 1), (0x0404, 1), (0x0405, 2), (0x0501, 1),
   (0x0502, 1), (0x0601, 1), (0x0602, 2), (0x0701, 1), (0x0702, 1), (0x0703, 1), (0x0704, 1), (0x0801, 1), (0x0802, 1),
   (0x0803, 0), (0x0804, 2), (0x0901, 1), (0x0902, 1), (0x0A01, 1), (0x0A02, 1), (0x0A03, 1), (0x0A04, 1), (0x0A05, 2),
   (0x0B01, 1)]

/-- Bytes `lo` to `hi` are 0. -/
def zeros (bs : List Byte) (lo hi : Nat) : Bool := allZero (slice bs lo (hi + 1 - lo))

/-- The byte at an offset. -/
def byteAt (bs : List Byte) (o : Nat) : Nat := leAt bs o 1

/-- The payload an Order names (R98), with the bytes read there. -/
def payloadIn (bs data : List Byte) : Payload := { addr := leAt bs 0x08 8, len := leAt bs 0x10 4, data := data }

/-- The payload an Order writes: no bytes are read. -/
def payloadOut (bs : List Byte) : Payload := { addr := leAt bs 0x08 8, len := leAt bs 0x10 4 }

/-- An answer under a condition. -/
def given {α : Type} (c : Bool) (x : α) : Option α := if c then some x else none

/-- Member ports of FAILOVER_SET, 2 bytes each. -/
def portList16 : Nat → List Byte → List Nat
  | 0, _ => []
  | n + 1, bs => leAt bs 0 2 :: portList16 n (bs.drop 2)

/-- Entries of FIELD_WRITE (R118). -/
def fieldEntries : Nat → List Byte → List FieldEntry
  | 0, _ => []
  | n + 1, bs => ⟨leAt bs 0 8, BitVec.ofNat 32 (leAt bs 8 4), BitVec.ofNat 32 (leAt bs 12 4)⟩ :: fieldEntries n (bs.drop 16)

/-- The list operands of R265. -/
def tableOps (bs data : List Byte) : TableOps :=
  let f := byteAt bs 0x19
  { lines := leAt bs 0x14 5, egress := bit f 0, epoch := bit f 1, deep := bit f 2, absentOk := bit f 3,
    count := leAt bs 0x1A 2, payload := payloadIn bs data }

/-- Reserved bits of the list operands (R265). -/
def tableOpsOk (bs : List Byte) : Bool := byteAt bs 0x18 < 16 && byteAt bs 0x19 < 16

/-- FIELD_READ (R117). -/
def parseFieldRead (ring : Nat) (p : Bool) (bs : List Byte) : Option Instr :=
  let count := leAt bs 0x1C 2
  given (leAt bs 0x14 8 < 2 ^ 44 && byteAt bs 0x1E < 2 && byteAt bs 0x1F = 0 && (p == decide (count ≠ 1)) &&
      (p || zeros bs 0x08 0x13))
    (.fieldRead ring { caddr := leAt bs 0x14 8, count := count, live := byteAt bs 0x1E = 1,
                       payload := if p then some (payloadOut bs) else none })

/-- FIELD_WRITE (R118). -/
def parseFieldWrite (ring : Nat) (p : Bool) (bs data : List Byte) : Option Instr :=
  if p then
    given (zeros bs 0x14 0x1F)
      (.fieldWrite ring { isList := true, payloadLen := leAt bs 0x10 4, entries := fieldEntries (data.length / 16) data })
  else
    given (zeros bs 0x18 0x1F && leAt bs 0x08 8 < 2 ^ 44)
      (.fieldWrite ring { isList := false, payloadLen := 0, entries := fieldEntries 1 (bs.drop 8) })

/-- MICRO_CALL (R478). -/
def parseMicroCall (ring : Nat) (bs : List Byte) : Option Instr :=
  let sm := byteAt bs 0x08
  let op := byteAt bs 0x09
  if op = 0 then given (zeros bs 0x0A 0x1F) (.microCallStatus ring sm)
  else if op = 1 then given (zeros bs 0x0A 0x1F) (.microCallRestart ring sm)
  else given (op = 2 && zeros bs 0x0B 0x0F)
    (.microCallCall ring ⟨sm, byteAt bs 0x0A, BitVec.ofNat 64 (leAt bs 0x10 8), BitVec.ofNat 64 (leAt bs 0x18 8)⟩)

/-- PORT_SET (R139). -/
def parsePortSet (ring : Nat) (bs : List Byte) : Option Instr :=
  let f := byteAt bs 0x0B
  given (f < 64 && byteAt bs 0x13 < 4 && zeros bs 0x16 0x1F)
    (.portSet ring
      { port := leAt bs 0x08 2, mode := byteAt bs 0x0A, an := bit f 0, train := bit f 1, rsFec := bit f 2,
        quietOk := bit f 3, adminDown := bit f 4, mgmt := bit f 5, advMask := BitVec.ofNat 32 (leAt bs 0x0C 4),
        maxFrame := leAt bs 0x10 2, pfcEn := BitVec.ofNat 8 (byteAt bs 0x12), recclk := BitVec.ofNat 2 (byteAt bs 0x13),
        mgRxq := byteAt bs 0x14, mgTxq := byteAt bs 0x15 })

/-- FAILOVER_SET (R152). -/
def parseFailover (ring : Nat) (p : Bool) (bs data : List Byte) : Option Instr :=
  let o := if p then 0x14 else 0x08
  let f := byteAt bs (o + 3)
  let count := byteAt bs (o + 6)
  let ms := if p then portList16 count data else portList16 count (bs.drop 0x10)
  given (f < 4 && (if p then zeros bs 0x1B 0x1F
      else byteAt bs 0x0F = 0 && (8 < count || zeros bs (0x10 + 2 * count) 0x1F)))
    (.failoverSet ring
      { group := leAt bs o 2, kind := byteAt bs (o + 2), revert := bit f 0, quietStandby := bit f 1,
        wtr := leAt bs (o + 4) 2, count := count, members := ms,
        payload := if p then some (leAt bs 0x10 4) else none })

/-- LANE_TUNE (R134). -/
def parseLaneTune (ring : Nat) (bs : List Byte) : Option Instr :=
  let lane := leAt bs 0x08 2
  let a := byteAt bs 0x0A
  let bare := zeros bs 0x0B 0x1F
  if a = 1 then
    given (byteAt bs 0x0B = 0 && zeros bs 0x12 0x1F)
      (.laneTuneSetTx ring ⟨lane, ⟨signed 8 (byteAt bs 0x0C), signed 8 (byteAt bs 0x0D), signed 8 (byteAt bs 0x0E),
        signed 8 (byteAt bs 0x0F), leAt bs 0x10 2⟩⟩)
  else if a = 2 then given bare (.laneTuneFreezeRx ring lane)
  else if a = 3 then given bare (.laneTuneRelease ring lane)
  else if a = 4 then given bare (.laneTuneReadTx ring lane)
  else given (a = 5 && bare) (.laneTuneReadBest ring lane)

/-- LINES and the image of PROGRAM_LOAD and PARSER_LOAD (R190, R206). -/
def loadOps (bs data : List Byte) : Option LoadOps :=
  given (byteAt bs 0x18 < 16 && zeros bs 0x19 0x1F) { lines := leAt bs 0x14 5, image := payloadIn bs data }

/-- EPOCH_COMMIT (R229). -/
def parseEpochCommit (ring : Nat) (bs : List Byte) : Option Instr :=
  let f := byteAt bs 0x0D
  given (byteAt bs 0x0C < 16 && f < 4 && zeros bs 0x14 0x1F)
    (.epochCommit ring { lines := leAt bs 0x08 5, wait := bit f 0, expectValid := bit f 1, expect := leAt bs 0x0E 2,
                         ageMs := leAt bs 0x10 2, timeoutMs := leAt bs 0x12 2 })

/-- EPOCH_STATUS (R231). -/
def parseEpochStatus (ring : Nat) (bs : List Byte) : Option Instr :=
  if byteAt bs 0x08 = 0 then given (zeros bs 0x09 0x1F) (.epochStatusSummary ring)
  else given (byteAt bs 0x08 = 1 && byteAt bs 0x09 < 2 && zeros bs 0x0C 0x1F)
    (.epochStatusBank ring ⟨byteAt bs 0x09 = 1, byteAt bs 0x0A, byteAt bs 0x0B⟩)

/-- TABLE_MOD (R268). -/
def parseTableMod (ring : Nat) (bs data : List Byte) : Option Instr :=
  let t := tableOps bs data
  let op := byteAt bs 0x1C
  let ok := tableOpsOk bs && zeros bs 0x1D 0x1F
  if op = 0 then given ok (.tableModReplace ring t [])
  else if op = 1 then given ok (.tableModRead ring t [])
  else if op = 2 then given ok (.tableModLedgerWrite ring t)
  else if op = 3 then given ok (.tableModLedgerRead ring t)
  else given (op = 4 && ok) (.tableModDump ring t [])

/-- TABLE_REHASH (R269). -/
def parseRehash (ring : Nat) (bs : List Byte) : Option Instr :=
  let ops : RehashOps := ⟨byteAt bs 0x08, byteAt bs 0x09 = 1, byteAt bs 0x0A⟩
  let ok := byteAt bs 0x09 < 2 && zeros bs 0x0C 0x1F
  if byteAt bs 0x0B = 0 then given ok (.tableRehashPending ring ops [])
  else given (byteAt bs 0x0B = 1 && ok) (.tableRehashReorder ring ops)

/-- TCAM_RAW (R270). -/
def parseTcamRaw (ring : Nat) (bs data : List Byte) : Option Instr :=
  let f := byteAt bs 0x15
  let ops (p : Payload) : TcamRawOps := ⟨byteAt bs 0x14, bit f 0, byteAt bs 0x16, leAt bs 0x18 4, p⟩
  let ok := f < 4 && byteAt bs 0x17 = 0 && zeros bs 0x1C 0x1F
  if bit f 1 then given ok (.tcamRawWrite ring (ops (payloadIn bs data))) else given ok (.tcamRawRead ring (ops (payloadOut bs)))

/-- QUEUE_SET (R320). -/
def parseQueueSet (ring : Nat) (p : Bool) (bs data : List Byte) : Option Instr :=
  let op := byteAt bs 0x14
  let ok := p && byteAt bs 0x15 = 0 && zeros bs 0x18 0x1F
  if op = 0 then given ok (.queueSetPort ring ⟨leAt bs 0x16 2, leAt bs 0x10 4, data⟩)
  else if op = 1 then
    given (!p && zeros bs 0x1B 0x1F)
      (.queueSetQueue ring
        { queue := leAt bs 0x16 2, minRate := leAt bs 0x08 4, maxRate := leAt bs 0x0C 4, minBurst := leAt bs 0x10 2,
          maxBurst := leAt bs 0x12 2, level := byteAt bs 0x15, weight := byteAt bs 0x18, pfcPri := byteAt bs 0x19,
          limitPct := byteAt bs 0x1A })
  else if op = 2 then given ok (.queueSetMcSet ring ⟨leAt bs 0x16 2, payloadIn bs data⟩)
  else given (op = 3 && ok) (.queueSetMcRead ring ⟨leAt bs 0x16 2, payloadOut bs⟩)

/-- MIRROR_SET (R312). -/
def parseMirror (ring : Nat) (bs : List Byte) : Option Instr :=
  let n := byteAt bs 0x08
  let op := byteAt bs 0x09
  let att : MirrorAttachOps := ⟨n, leAt bs 0x10 2, byteAt bs 0x12 = 1⟩
  let attOk := byteAt bs 0x12 < 2 && zeros bs 0x0A 0x0F && zeros bs 0x13 0x1F
  if op = 0 then given (zeros bs 0x0A 0x1F) (.mirrorSetDelete ring n)
  else if op = 1 then
    given (byteAt bs 0x0D = 0 && zeros bs 0x10 0x1F)
      (.mirrorSetSet ring ⟨n, leAt bs 0x0A 2, byteAt bs 0x0C, leAt bs 0x0E 2⟩)
  else if op = 2 then given attOk (.mirrorSetAttach ring att)
  else given (op = 3 && attOk) (.mirrorSetDetach ring att)

/-- SPILL_SET (R348). -/
def parseSpill (ring : Nat) (bs : List Byte) : Option Instr :=
  if byteAt bs 0x08 = 0 then
    let ok := byteAt bs 0x0C < 16 && byteAt bs 0x0F < 2 && zeros bs 0x12 0x1F
    if byteAt bs 0x0A = 1 then
      given (ok && leAt bs 0x10 2 = 0)
        (.spillSetEnable ring
          { quarry := byteAt bs 0x09, speed := byteAt bs 0x0B, channels := byteAt bs 0x0C, ranks := byteAt bs 0x0D,
            grain := byteAt bs 0x0E, bankXor := byteAt bs 0x0F = 1 } {})
    else given (byteAt bs 0x0A = 0 && ok) (.spillSetDisable ring ⟨byteAt bs 0x09, leAt bs 0x10 2⟩)
  else given (byteAt bs 0x08 = 1 && byteAt bs 0x09 = 0 && zeros bs 0x18 0x1F)
    (.spillSetQueue ring ⟨leAt bs 0x0A 2, leAt bs 0x0C 4, leAt bs 0x10 4, leAt bs 0x14 4⟩)

/-- DRAM_TRAIN (R349). -/
def parseDramTrain (ring : Nat) (bs : List Byte) : Option Instr :=
  let c := byteAt bs 0x08
  let a := byteAt bs 0x09
  let bare := zeros bs 0x0A 0x1F
  if a = 1 then given bare (.dramTrainRetrain ring { channel := c })
  else if a = 2 then given bare (.dramTrainOsc ring { channel := c } none)
  else if a = 3 then
    given (zeros bs 0x0C 0x1F) (.dramTrainRead ring { channel := c, rank := byteAt bs 0x0A, dqBit := byteAt bs 0x0B })
  else given (a = 4 && zeros bs 0x0F 0x1F)
    (.dramTrainSet ring ⟨c, byteAt bs 0x0A, byteAt bs 0x0B, byteAt bs 0x0C, byteAt bs 0x0D, byteAt bs 0x0E⟩)

/-- SA_SET (R367). -/
def parseSaSet (ring : Nat) (p : Bool) (bs data : List Byte) : Option Instr :=
  let op := byteAt bs 0x14
  let rx := byteAt bs 0x15 = 1
  let port := leAt bs 0x16 2
  let an := byteAt bs 0x18
  let ok := byteAt bs 0x15 < 2 && zeros bs 0x19 0x1F
  let bare := !p && zeros bs 0x08 0x13
  if op = 0 then given (p && ok && !rx && an = 0) (.saSetSecy ring ⟨port, rx, an, payloadIn bs data⟩)
  else if op = 1 then given (p && ok) (.saSetInstall ring ⟨port, rx, an, payloadIn bs data⟩)
  else if op = 2 then given (bare && ok) (.saSetEnableTx ring ⟨port, rx, an⟩)
  else if op = 3 then given (bare && ok) (.saSetRetire ring ⟨port, rx, an⟩)
  else given (op = 4 && p && ok) (.saSetRead ring ⟨port, rx, an, payloadOut bs⟩)

/-- TIME_STEP (R389). -/
def parseTimeStep (ring : Nat) (bs : List Byte) : Option Instr :=
  let leave := byteAt bs 0x09 = 1
  if byteAt bs 0x08 = 0 then
    given (byteAt bs 0x09 < 2 && zeros bs 0x14 0x1F) (.timeStepAbsolute ring ⟨leAt bs 0x0A 6, leAt bs 0x10 4, leave⟩)
  else given (byteAt bs 0x08 = 1 && byteAt bs 0x09 < 2 && zeros bs 0x0A 0x0F && zeros bs 0x18 0x1F)
    (.timeStepRelative ring ⟨signed 64 (leAt bs 0x10 8), leave⟩)

/-- DUMP_SET (R431). -/
def parseDump (ring : Nat) (p : Bool) (bs data : List Byte) : Option Instr :=
  let op := byteAt bs 0x14
  if op = 0 then
    given (!p && byteAt bs 0x15 < 64 && byteAt bs 0x18 < 4 && zeros bs 0x19 0x1F)
      (.dumpSetDump ring
        { base := leAt bs 0x08 8, periodUs := leAt bs 0x10 4, sections := byteAt bs 0x15, count := byteAt bs 0x16,
          vector := byteAt bs 0x17, en := bit (byteAt bs 0x18) 0, notify := bit (byteAt bs 0x18) 1 })
  else if op = 1 then given (p && zeros bs 0x16 0x1F) (.dumpSetExport ring ⟨byteAt bs 0x15, payloadIn bs data⟩)
  else given (op = 2 && p && zeros bs 0x15 0x1F) (.dumpSetIoam ring ⟨payloadIn bs data⟩)

/-- HIST_SET (R423). -/
def parseHist (ring : Nat) (p : Bool) (bs : List Byte) : Option Instr :=
  let kind := byteAt bs 0x14
  let op := byteAt bs 0x15
  let index := leAt bs 0x16 2
  let ok := byteAt bs 0x18 < 2 && byteAt bs 0x19 = 0 && zeros bs 0x1E 0x1F
  let ops : HistOps := ⟨kind, index, byteAt bs 0x18 = 1, leAt bs 0x1A 2, leAt bs 0x1C 2⟩
  let bare := !p && zeros bs 0x08 0x13
  if op = 0 then given (bare && ok) (.histSetSet ring ops)
  else if op = 1 then given (p && zeros bs 0x18 0x1F) (.histSetRead ring ⟨kind, index, payloadOut bs⟩)
  else given (op = 2 && bare && ok) (.histSetClear ring ops)

/-- ISLAND and SUB of UNIT_FENCE and UNIT_UNFENCE (R455, R456). -/
def unitOps (bs : List Byte) : Option UnitOps :=
  given (leAt bs 0x08 2 < 0x1000 && zeros bs 0x0B 0x1F) ⟨leAt bs 0x08 2, byteAt bs 0x0A⟩

/-- RELIEF_ASSIGN (R460). -/
def parseRelief (ring : Nat) (bs : List Byte) : Option Instr :=
  let k := byteAt bs 0x08
  let op := byteAt bs 0x09
  let f := byteAt bs 0x0A
  let ok := f < 2 && zeros bs 0x0B 0x1F
  if op = 0 then given ok (.reliefAssignAssign ring ⟨k, f = 1⟩)
  else if op = 1 then given ok (.reliefAssignReturn ring ⟨k, f = 1⟩)
  else given (op = 2 && f = 0 && ok) (.reliefAssignGo ring k)

/-- BIST_RUN (R491). -/
def parseBist (ring : Nat) (p : Bool) (bs : List Byte) : Option Instr :=
  let op := byteAt bs 0x18
  let ops : BistOps := ⟨leAt bs 0x14 2, byteAt bs 0x16, byteAt bs 0x17, byteAt bs 0x19 = 1, if p then some (payloadOut bs) else none⟩
  let ok := leAt bs 0x14 2 < 0x1000 && byteAt bs 0x19 < 2 && zeros bs 0x1A 0x1F && (p || zeros bs 0x08 0x13)
  if op = 0 then given ok (.bistRunRun ring ops {})
  else if op = 1 then given (ok && p) (.bistRunRead ring ops)
  else given (op = 2 && ok && !p) (.bistRunAbort ring ops)

/-- The Orders without PAYLOAD. -/
def parseBare (ring op : Nat) (bs : List Byte) : Option Instr :=
  if op = 0x0101 then parseFieldRead ring false bs
  else if op = 0x0102 then parseFieldWrite ring false bs []
  else if op = 0x0103 then given (zeros bs 0x10 0x1F) (.blockCommit ring (leAt bs 0x08 8))
  else if op = 0x0104 then parseMicroCall ring bs
  else if op = 0x0201 then parsePortSet ring bs
  else if op = 0x0202 then
    given (byteAt bs 0x0A < 2 && zeros bs 0x0B 0x1F) (.portState ring ⟨leAt bs 0x08 2, byteAt bs 0x0A = 1⟩)
  else if op = 0x0203 then parseFailover ring false bs []
  else if op = 0x0204 then parseLaneTune ring bs
  else if op = 0x0303 then parseEpochCommit ring bs
  else if op = 0x0304 then parseEpochStatus ring bs
  else if op = 0x0404 then parseRehash ring bs
  else if op = 0x0501 then parseQueueSet ring false bs []
  else if op = 0x0502 then parseMirror ring bs
  else if op = 0x0601 then parseSpill ring bs
  else if op = 0x0602 then parseDramTrain ring bs
  else if op = 0x0702 then
    given (byteAt bs 0x09 = 0 && zeros bs 0x0C 0x1F) (.keyErase ring ⟨byteAt bs 0x08, leAt bs 0x0A 2⟩)
  else if op = 0x0703 then parseSaSet ring false bs []
  else if op = 0x0801 then
    given (byteAt bs 0x0D < 2 && zeros bs 0x0E 0x1F) (.timeFreq ring ⟨leAt bs 0x08 5, byteAt bs 0x0D = 1⟩)
  else if op = 0x0802 then
    given (byteAt bs 0x12 < 2 && zeros bs 0x13 0x1F)
      (.timeSlew ring ⟨signed 64 (leAt bs 0x08 8), leAt bs 0x10 2, byteAt bs 0x12 = 1⟩)
  else if op = 0x0803 then given (zeros bs 0x08 0x1F) (.timeRead ring none)
  else if op = 0x0804 then parseTimeStep ring bs
  else if op = 0x0901 then parseDump ring false bs []
  else if op = 0x0902 then parseHist ring false bs
  else if op = 0x0A01 then
    given (leAt bs 0x08 2 < 0x1000 && zeros bs 0x0A 0x1F) (.faultAck ring (leAt bs 0x08 2))
  else if op = 0x0A02 then
    let all := byteAt bs 0x0A = 1
    given (leAt bs 0x08 2 < 0x1000 && byteAt bs 0x0A < 2 && zeros bs 0x0B 0x1F && (!all || leAt bs 0x08 2 = 0))
      (.faultClear ring ⟨leAt bs 0x08 2, all⟩)
  else if op = 0x0A03 then (unitOps bs).map (fun u => .unitFence ring u)
  else if op = 0x0A04 then (unitOps bs).map (fun u => .unitUnfence ring u {})
  else if op = 0x0A05 then parseRelief ring bs
  else if op = 0x0B01 then parseBist ring false bs
  else none

/-- The Orders with PAYLOAD. -/
def parsePayload (ring op : Nat) (bs data : List Byte) : Option Instr :=
  if op = 0x0101 then parseFieldRead ring true bs
  else if op = 0x0102 then parseFieldWrite ring true bs data
  else if op = 0x0203 then parseFailover ring true bs data
  else if op = 0x0301 then (loadOps bs data).map (fun o => .programLoad ring o)
  else if op = 0x0302 then (loadOps bs data).map (fun o => .parserLoad ring o)
  else if op = 0x0401 then
    given (tableOpsOk bs && zeros bs 0x1C 0x1F && !(tableOps bs data).absentOk) (.tableAdd ring (tableOps bs data) [])
  else if op = 0x0402 then
    given (tableOpsOk bs && zeros bs 0x1C 0x1F && !(tableOps bs data).deep) (.tableDel ring (tableOps bs data) [])
  else if op = 0x0403 then parseTableMod ring bs data
  else if op = 0x0405 then parseTcamRaw ring bs data
  else if op = 0x0501 then parseQueueSet ring true bs data
  else if op = 0x0701 then
    given (zeros bs 0x1C 0x1F)
      (.keyWrite ring ⟨byteAt bs 0x14, byteAt bs 0x15, leAt bs 0x16 2, leAt bs 0x18 4, payloadIn bs data⟩)
  else if op = 0x0703 then parseSaSet ring true bs data
  else if op = 0x0704 then given (zeros bs 0x14 0x1F) (.cipherJob ring ⟨payloadIn bs data⟩)
  else if op = 0x0803 then given (zeros bs 0x14 0x1F) (.timeRead ring (some (payloadOut bs)))
  else if op = 0x0901 then parseDump ring true bs data
  else if op = 0x0902 then parseHist ring true bs
  else if op = 0x0B01 then parseBist ring true bs
  else none

/-- Whether an Order with PAYLOAD reads it. -/
def orderReads : Instr → Bool
  | .fieldWrite _ o => o.isList
  | .failoverSet _ o => o.payload.isSome
  | .programLoad _ _ | .parserLoad _ _ | .tableAdd _ _ _ | .tableDel _ _ _ | .tableModReplace _ _ _ | .tableModRead _ _ _
  | .tableModLedgerWrite _ _ | .tableModLedgerRead _ _ | .tableModDump _ _ _ | .tcamRawWrite _ _ | .queueSetPort _ _
  | .queueSetMcSet _ _ | .keyWrite _ _ | .saSetSecy _ _ | .saSetInstall _ _ | .cipherJob _ _ | .dumpSetExport _ _
  | .dumpSetIoam _ _ => true
  | _ => false

/-- Whether an Order with PAYLOAD writes it, so that its region needs WRITE (R91). -/
def orderWrites : Instr → Bool
  | .fieldRead _ _ | .tableModRead _ _ _ | .tableModLedgerRead _ _ | .tableModDump _ _ _ | .tcamRawRead _ _ | .queueSetMcRead _ _
  | .saSetRead _ _ | .timeRead _ _ | .histSetRead _ _ | .bistRunRun _ _ _ | .bistRunRead _ _ => true
  | _ => false

/-- Signalmen whose duty an Order needs, as R30 names the duties: lanes, table and memory maintenance, BIST and repair of the District
of its unit, faults, time and telemetry, lookaside cipher; Signalman 3 sequences the central tests (R463, R476, R484; log 76). -/
def orderDuties : Instr → List Nat
  | .laneTuneSetTx _ o => [4 + 3 * (o.lane / 128)]
  | .laneTuneFreezeRx _ l | .laneTuneRelease _ l | .laneTuneReadTx _ l | .laneTuneReadBest _ l => [4 + 3 * (l / 128)]
  | .tableRehashPending _ o _ | .tableRehashReorder _ o => [5 + 3 * (if o.line < 32 then o.line / 8 else o.line - 32)]
  | .dramTrainRetrain _ o | .dramTrainOsc _ o _ | .dramTrainRead _ o | .dramTrainSet _ o => [5 + 3 * (o.channel / 8)]
  | .unitUnfence _ o _ => if o.island / 256 < 4 then [6 + 3 * (o.island / 256)] else []
  | .bistRunRun _ o _ | .bistRunRead _ o | .bistRunAbort _ o => [if o.island / 256 < 4 then 6 + 3 * (o.island / 256) else 3]
  | .reliefAssignAssign _ o | .reliefAssignReturn _ o => [6 + 3 * (o.platform / 8)]
  | .reliefAssignGo _ k => [6 + 3 * (k / 8)]
  | .faultAck _ _ | .faultClear _ _ => [1]
  | .timeFreq _ _ | .timeSlew _ _ | .timeStepAbsolute _ _ | .timeStepRelative _ _ | .timeRead _ _ | .dumpSetDump _ _
  | .dumpSetExport _ _ | .dumpSetIoam _ _ | .histSetSet _ _ | .histSetRead _ _ | .histSetClear _ _ => [2]
  | .cipherJob _ _ => [3]
  | _ => []

/-- An Order with PAYLOAD whose reserved bits are 0 and whose operands its card refuses, an undefined OP among them: check 6 of R99, which
follows the region's. The answer says whether it would write its payload. -/
def lateCheck (op : Nat) (bs : List Byte) : Option Bool :=
  let o := byteAt bs 0x14
  if op = 0x0401 || op = 0x0402 then given (tableOpsOk bs && zeros bs 0x1C 0x1F) false
  else if op = 0x0403 then given (tableOpsOk bs && zeros bs 0x1D 0x1F) false
  else if op = 0x0501 then given (3 < o && byteAt bs 0x15 = 0 && zeros bs 0x18 0x1F) false
  else if op = 0x0703 then given (o ≠ 2 && o ≠ 3 && zeros bs 0x19 0x1F) (o = 4)
  else if op = 0x0901 then given (decide (2 < o)) false
  else if op = 0x0902 then
    given ((byteAt bs 0x15 = 1 || 2 < byteAt bs 0x15) && byteAt bs 0x19 = 0 && zeros bs 0x1E 0x1F) (byteAt bs 0x15 = 1)
  else if op = 0x0B01 then
    given (2 < byteAt bs 0x18 && leAt bs 0x14 2 < 0x1000 && byteAt bs 0x19 < 2 && zeros bs 0x1A 0x1F) false
  else none

/-- What checks 1 to 4 of R99 leave of an Order: the status it completes with, an operand its card refuses later (R99 check 6) with whether
the Order would write its payload, or the command it asks for. -/
inductive Parsed where
  | fails (st : Status)
  | late (writes : Bool)
  | cmd (c : Instr)
deriving DecidableEq, Repr

/-- Checks 1 to 4 of R99 on the bytes of an Order, for a ring of level `level`. R98 gives no status to a PAYLOAD_LEN outside its range: it is
refused with the reserved bits, before the region (DESIGN CHOICE, log 155). -/
def parseOrder (ring level : Nat) (bs data : List Byte) : Parsed :=
  let op := leAt bs 0 2
  let flags := byteAt bs 2
  let p := bit flags 0
  match sfind orderLevels op with
  | none => .fails .badOpcode
  | some l =>
    if level < l then .fails .privDenied
    else if byteAt bs 3 ≠ l then .fails .badOperand
    else if 16 ≤ flags || leAt bs 6 2 ≠ 0 then .fails .badOperand
    else if p && (leAt bs 0x10 4 = 0 || 16777216 < leAt bs 0x10 4) then .fails .badOperand
    else match (if p then parsePayload ring op bs data else parseBare ring op bs) with
      | some c => .cmd c
      | none => match (if p then lateCheck op bs else none) with
        | some w => .late w
        | none => .fails .badOperand

end Sys2Proof.Machine
end

