-- ==== Sys2Proof/Machine/Flags.lean ====
section
/-!
DEFINITION. The read-only bits of every Cabin word, computed from the state, and the value a read returns.
-/

namespace Sys2Proof.Machine

/-- CAB_STATE to CAB_CLASSES (R440). -/
def subFenced (s : Chip) (i : Isl) : Nat :=
  match i with
  | .quarry q => pack ((span 0 4).map (fun k => (k, 1, b2n ((quarryOf s q).fenced.contains k))))
  | .ci => pack ((span 0 4).map (fun e => (e, 1, b2n (s.cipher.engineOut.contains e))))
  | _ => 0

def maskOf (l : NatSet) : Nat := l.foldl (fun n k => n + 2 ^ k) 0

/-- VALID, OVERFLOW, ACKED, SEV and CLASS as R440 lays them out. -/
def recordBits (valid overflow acked : Bool) (sev cls : Nat) : List (Nat × Nat × Nat) :=
  [(31, 1, b2n valid), (30, 1, b2n overflow), (29, 1, b2n acked), (24, 3, sev), (20, 4, cls)]

/-- ACKED of a Cabin's record (R440). -/
def CabSt.acked (c : CabSt) : Bool := c.valid && c.unacked.isEmpty

def cabBits (s : Chip) (i : Isl) (off : Nat) : Nat :=
  let c := cabOf s i
  if off = 0x00 then pack [(31, 1, b2n c.fenced), (30, 1, b2n c.repair), (16, 8, c.gen), (12, 4, c.cause),
    (0, 4, subFenced s i)]
  else if off = 0x04 then pack ((0, 8, c.loc) :: recordBits c.valid c.overflow c.acked c.sev c.cls)
  else if off = 0x08 then c.ts % 2 ^ 32
  else if off = 0x0C then c.ts / 2 ^ 32
  else if off = 0x10 then pack [(24, 3, c.maxSev), (0, 16, c.count)]
  else if off = 0x18 then pack [(16, 12, maskOf c.raised), (0, 12, maskOf c.unacked)]
  else if off = 0x40 then pmcCycles s i % 2 ^ 32
  else if off = 0x44 then pmcCycles s i / 2 ^ 32
  else if off = 0xC0 then satAdd max32 (heldCount s i 0) 0
  else if off = 0xC4 then satAdd max32 (heldCount s i 1) 0
  else if off = 0xC8 then satAdd max32 (heldCount s i 2) 0
  else 0

/-- PF_TS_RX_FIXED and PF_TS_TX_FIXED of a mode and its FEC (R395), in tenths of a ns. -/
def fixedLatency (mode : Nat) (rs : Bool) (tx : Bool) : Nat :=
  match modeSpec mode with
  | none => 0
  | some m =>
    if m.kbd = 10312500 then (if tx then 415 else 480)
    else if m.kbd = 25781250 then
      if rs then (if tx then 360 else 625) else (if tx then 275 else 310)
    else if m.kbd = 26562500 then (if tx then 395 else 700)
    else if m.kbd = 53125000 then (if tx then 330 else 525)
    else if m.kbd = 106250000 then (if tx then 295 else 440)
    else (if tx then 270 else 395)

/-- The mode in force of a port has FEC (R125). -/
def hasFec (v : Port) : Bool := v.fecInForce || (match modeSpec v.inForce with | none => false | some m => decide (m.fec ≠ 0))

/-- The same in 2^-16 ns, as the words hold it. -/
def tsFixed (s : Chip) (p : Nat) (tx : Bool) : Nat :=
  match portOf s p with
  | none => 0
  | some v => fixedLatency v.inForce (v.fecInForce || v.inForce = 0x10) tx * 65536 / 10

/-- PF_PFC_STATE (R316, R317). -/
def pfcState (s : Chip) (p : Nat) : Nat :=
  let paused := match portOf s p with
    | none => []
    | some v => (v.paused.filter (fun x => 0 < remaining s x.2)).map (fun x => x.1)
  let xoff := (span 0 8).filter (fun g => (span 0 8).any (fun y => (yardOf s y).xoff.contains (8 * p + g)))
  pack [(8, 8, maskOf paused), (0, 8, maskOf xoff)]

/-- SAs of a SecY that satisfy a test, as a mask of ANs. -/
def anMask (l : Sparse (Option SaSt)) (f : SaSt → Bool) : Nat :=
  maskOf ((span 0 4).filter (fun a => match sget none l a with | none => false | some x => f x))

/-- PF_MS_STATE (R368). -/
def msState (s : Chip) (p : Nat) : Nat :=
  let y := sget {} s.cipher.secy p
  pack [(31, 1, b2n y.enable), (30, 1, b2n y.encoding.isSome), (28, 2, y.encoding.getD 0),
    (20, 4, anMask y.tx (fun _ => true)), (16, 4, anMask y.rx (fun _ => true)), (12, 4, anMask y.tx (·.exhausted)),
    (8, 4, anMask y.tx (·.keyless)), (4, 4, anMask y.rx (·.keyless))]

def platformBits (s : Chip) (k off : Nat) : Nat :=
  let p := 16 * k + off % 0x400 / 0x40
  let o := off % 0x40
  if off = 0x0180 then (match sget none s.ports.causeway (k / 4) with | none => 0 | some w => w.toNat)
  else if off < 0x1400 then (if o = 0x30 then pfcState s p else 0)
  else if off < 0x4400 then
    let l := laneOf s p
    if o = 0 then pack [(6, 1, b2n l.txHeld)]
    else
      let quiet := match portOfLane s p with
        | none => false
        | some q => match portOf s q with | none => false | some v => v.st = .quiet
      pack [(31, 1, b2n l.los), (30, 1, b2n l.lock), (29, 1, b2n l.sd), (28, 1, b2n quiet), (8, 8, l.eye)]
  else if off < 0x5400 then (if o = 0x30 then msState s p else 0)
  else if o = 0x0C then tsFixed s p false
  else if o = 0x10 then tsFixed s p true
  else 0

/-- Something is staged in a Line that the next commit naming it will make live (R221). -/
def lineDirty (s : Chip) (egress : Bool) (n : Nat) : Bool :=
  let l := lineOf s egress n
  l.stgProg.isSome || l.stgGraph.isSome || l.insts.any (fun t => t.ents.any (fun x => x.2.vis = 1 || x.2.vis = 2)) || l.seedDirty ||
    s.staged.any (fun x => x.1 / 2 ^ 32 = (lineIsl egress n).code)

/-- The banks of a Line that bind an instance: bit 0 current, bit 1 draining, bit 2 staged (R494). -/
def bankMask (l : LineSt) (ledger : Bool) (iid : Nat) : Nat :=
  let has (b : Option Bank) : Bool := match b with
    | none => false
    | some b => (if ledger then b.lbinds else b.binds).any (fun x => x.2 = iid)
  pack [(0, 1, b2n (has l.curProg)), (1, 1, b2n (has l.drnProg)), (2, 1, b2n (has l.stgProg))]

/-- The owner word of SRAM block, or with `tcam` TCAM block, `b` (R494). -/
def blockWord (l : LineSt) (tcam : Bool) (b : Nat) : Nat :=
  let word (ledger : Bool) (iid id : Nat) : Nat :=
    pack [(31, 1, 1), (30, 1, b2n ledger), (27, 3, bankMask l ledger iid), (0, 8, id)]
  match l.insts.find? (fun t => (if tcam then t.tcam else t.sram).contains b) with
  | some t => word false t.iid t.decl.id
  | none => match (if tcam then none else l.ledgers.find? (fun g => g.sram.contains b)) with
    | some g => word true g.iid g.decl.id
    | none => 0

def lineBits (s : Chip) (egress : Bool) (n off : Nat) : Nat :=
  if 0x0A00 ≤ off && off < 0x0B00 then blockWord (lineOf s egress n) false ((off - 0x0A00) / 4) else
  if 0x0B00 ≤ off && off < 0x0C00 then blockWord (lineOf s egress n) true ((off - 0x0B00) / 4) else
  if off = 0x0704 then
    pack [(16, 16, s.pkt.epoch.cur), (2, 1, b2n (lineOf s egress n).live), (1, 1, b2n s.pkt.epoch.draining),
      (0, 1, b2n (lineDirty s egress n))]
  else 0

/-- Sum of the live RSV of all port requesters of a Yard (R293). -/
def rsvSum (s : Chip) (y : Nat) : Nat :=
  let base := caddr (.yard y) 0x10000
  (s.live.filter (fun x => base ≤ x.1 && x.1 < base + 16 * 4096 && x.1 % 16 = 0)).foldl (fun n x => n + x.2.toNat) 0

/-- The live plan of a Yard does not fit it (R293). -/
def planOver (s : Chip) (y : Nat) : Bool :=
  decide (5120 + rsvSum s y + fieldOf s (.yard y) 0x0104 0 18 + fieldOf s (.yard y) 0x0100 0 18 >
    131072 - (yardOf s y).retired.length)

def yardBits (s : Chip) (y off : Nat) : Nat :=
  let v := yardOf s y
  if off = 0x0108 then pack [(31, 1, b2n (planOver s y)), (0, 18, v.free)]
  else if off = 0x010C then v.sharedUsed
  else if off = 0x0110 then v.hpoolUsed
  else if off = 0x0134 then v.retired.length
  else if 0x80000 ≤ off then
    let r := (off - 0x80000) / 16
    if off % 16 = 0 then sget 0 v.held r else if off % 16 = 4 then sget 0 v.hused r else 0
  else if 0x60000 ≤ off then depthOf s ((off - 0x60000) / 4)
  else 0

/-- Slots of a Quarry's active data areas (R324). -/
def slotsTotal (v : QuarrySt) : Nat := v.mapActs.length * 15 * v.capacity / 131072

def quarryBits (s : Chip) (q off : Nat) : Nat :=
  let v := quarryOf s q
  if off = 0x0104 then
    pack [(31, 1, b2n v.enabled), (30, 1, b2n v.selfRefresh), (29, 1, b2n v.remap), (24, 4, v.mapGen),
      (20, 4, maskOf v.fenced), (16, 4, maskOf v.active), (8, 8, v.density), (6, 2, v.ranks), (4, 2, v.speed)]
  else if off = 0x010C then slotsTotal v
  else if off = 0x0110 then slotsTotal v - v.segs.length
  else if 0x40000 ≤ off then 32 * (v.segs.filter (fun g => g.queue = (off - 0x40000) / 16)).length
  else 0

/-- One Signalman. -/
def smOf (s : Chip) (n : Nat) : SmSt := sget {} s.sb.sms n

/-- SB_SM_STATE (R477). -/
def smState (s : Chip) (n : Nat) : Nat :=
  let m := smOf s n
  pack [(30, 2, if m.fenced then 2 else if m.halted then 1 else 0), (29, 1, b2n m.inTrap), (28, 1, b2n m.patched),
    (24, 4, m.lastCause), (20, 4, if n = 3 then s.sb.cover.getD 0xF else 0xF), (0, 15, m.m.addr)]

/-- Trap entries of a Signalman that are enabled. -/
def enabledTraps (m : SmSt) : Nat :=
  (m.traps.filter (fun x => match x.2 with | none => false | some t => t.enable)).length

def sbBits (s : Chip) (off : Nat) : Nat :=
  if 0x2000 ≤ off then
    let d := domainSt s ((off - 0x2000) / 4)
    pack [(31, 1, b2n d.on), (29, 2, d.mode.code), (0, 16, d.ups)]
  else if 0x0340 ≤ off && off < 0x0380 then
    let m := smOf s ((off - 0x0340) / 4)
    pack [(12, 12, m.patch.length), (0, 7, enabledTraps m)]
  else if 0x0300 ≤ off && off < 0x0340 then smState s ((off - 0x0300) / 4)
  else 0

/-- Some Cabin holds a valid record with class `c` raised (R442). -/
def uncleared (s : Chip) (c : Nat) : Bool := s.faults.cabs.any (fun x => x.2.valid && x.2.raised.contains c)

/-- Highest MAXSEV over the Cabins whose record is valid (R442). -/
def sumMaxSev (s : Chip) : Nat := s.faults.cabs.foldl (fun n x => if x.2.valid then max n x.2.maxSev else n) 0

/-- KS_SUMMARY (R442). -/
def ksSummary (s : Chip) : Nat :=
  pack [(31, 1, b2n s.faults.errLow), (30, 1, b2n (chipHold s)), (24, 3, sumMaxSev s),
    (0, 12, maskOf ((span 0 12).filter (uncleared s)))]

def ksBits (s : Chip) (off : Nat) : Nat :=
  let f := s.faults
  if off = 0x0100 then pack ((0, 20, f.firstSrc) :: recordBits f.firstValid f.firstOverflow f.firstAcked f.firstSev f.firstCls)
  else if off = 0x0104 then f.firstTs % 2 ^ 32
  else if off = 0x0108 then f.firstTs / 2 ^ 32
  else if off = 0x010C then pack [(24, 3, f.maxSev), (0, 16, f.count)]
  else if off = 0x011C then pack [(31, 1, b2n (chipHold s)), (0, 20, f.holdSrc)]
  else if off = 0x0120 then ksSummary s
  else if 0x0200 ≤ off && off < 0x0260 then
    let c := (off - 0x0200) / 8
    let k := sget {} f.classes c
    if off % 8 = 0 then pack [(31, 1, b2n k.unack), (30, 1, b2n (uncleared s c)), (24, 3, k.maxSev)]
    else pack [(24, 3, k.lastSev), (0, 20, k.lastSrc)]
  else if 0x0300 ≤ off && off < 0x0310 then
    let n := 32 + (off - 0x0300) / 4
    match servedBy s n with
    | some k => pack [(30, 1, 1), (0, 5, k)]
    | none => match preparedFor s n with
      | some k => pack [(31, 1, 1), (0, 5, k)]
      | none => 0
  else 0

/-- A copy of the time (R390). -/
def tileCopy (s : Chip) (t : Nat) : CopyLock := sget {} s.time.tile t
def egressCopy (s : Chip) (n : Nat) : CopyLock := sget {} s.time.egress n

/-- Remainder of the slew in 2^-16 ns (R404). -/
def slewRem (s : Chip) : Int := match s.time.slew with | none => 0 | some w => w.rem / 65536

/-- TT_STATUS (R404). -/
def ttStatus (s : Chip) : Nat :=
  let t := s.time
  let tiles := (span 0 8).filter (fun k => (tileCopy s k).locked)
  let egress := (span 0 4).filter (fun d => ((span (8 * d) 8) ++ [32 + d]).all (fun n => (egressCopy s n).locked))
  pack [(31, 1, b2n t.holdover), (30, 1, b2n t.refLost), (29, 1, b2n t.slew.isSome), (24, 4, t.stepCount),
    (16, 1, b2n t.refFreq), (8, 8, maskOf tiles), (0, 8, maskOf egress)]

def ttBits (s : Chip) (off : Nat) : Nat :=
  let t := s.time
  if off = 0x0100 then ttStatus s
  else if off = 0x0108 then t.incr % 2 ^ 32
  else if off = 0x010C then t.incr / 2 ^ 32 % 256
  else if off = 0x0110 then unsignedOf 64 (slewRem s) % 2 ^ 32
  else if off = 0x0114 then unsignedOf 64 (slewRem s) / 2 ^ 32
  else if 0x0120 ≤ off && off < 0x0140 then
    let p := sget {} t.pps ((off - 0x0120) / 16)
    let o := off % 16
    if o = 0 then p.ts % 2 ^ 32
    else if o = 4 then p.ts / 2 ^ 32
    else if o = 8 then pack [(31, 1, b2n p.new), (30, 1, b2n p.overrun), (24, 4, p.step), (0, 16, p.count)]
    else 0
  else if off = 0x0300 then t.events
  else 0

def tmBits (s : Chip) (off : Nat) : Nat :=
  let t := s.tm
  if off = 0x0100 then Config.pen.toNat
  else if off = 0x0104 then pack [(31, 1, b2n t.dumpEn), (30, 1, b2n t.writing.isSome), (0, 6, t.sections)]
  else if off = 0x0120 then t.nodeId % 2 ^ 32
  else if off = 0x0124 then t.nodeId / 2 ^ 32
  else if off = 0x0128 then t.nsdShort
  else if off = 0x012C then t.hlBack
  else if off = 0x0130 then t.nsdWide % 2 ^ 32
  else if off = 0x0134 then t.nsdWide / 2 ^ 32
  else 0

/-- Segments a spill key slot protects, over all Quarries (R371). -/
def keySegs (s : Chip) (k : Nat) : Nat :=
  (s.pkt.quarries.map (fun q => (q.2.segs.filter (fun g => g.key = k)).length)).sum

/-- CI_SPILL_KEY (R371). -/
def spillKeyBits (s : Chip) : Nat :=
  let c := s.cipher
  pack [(31, 1, b2n (sget none c.spill 0).isSome), (30, 1, b2n (sget none c.spill 1).isSome),
    (29, 1, c.spillActive.getD 0), (28, 1, b2n c.spillDrain.isSome),
    (0, 24, match c.spillDrain with | none => 0 | some k => keySegs s k)]

/-- The read-only and W1C bits of a word. -/
def roBits (s : Chip) (i : Isl) (off : Nat) : Nat :=
  if off < 0x100 then cabBits s i off
  else match i with
  | .platform k => platformBits s k off
  | .iline n => lineBits s false n off
  | .eline n => lineBits s true n off
  | .yard y => yardBits s y off
  | .quarry q => quarryBits s q off
  | .sb => sbBits s off
  | .ks => ksBits s off
  | .tt => ttBits s off
  | .ci => spillKeyBits s
  | .tm => tmBits s off
  | _ => 0

/-- A word of a queue that this Yard or Quarry does not hold (R290, R346). -/
def notHeld (s : Chip) (i : Isl) (off : Nat) : Bool :=
  match i with
  | .yard y =>
    if 0x40000 ≤ off && off < 0x40000 + 4 * 10276 then decide (queueYard s ((off - 0x40000) / 4) ≠ y)
    else if 0x60000 ≤ off && off < 0x60000 + 4 * 10276 then decide (queueYard s ((off - 0x60000) / 4) ≠ y)
    else false
  | .quarry q => 0x40000 ≤ off && off < 0x40000 + 16 * 10240 && decide (queueYard s ((off - 0x40000) / 16) ≠ q)
  | _ => false

/-- Words that read 0 on a TB5120-P (R368). -/
def linkCipherWord (i : Isl) (off : Nat) : Bool :=
  match i with | .platform _ => 0x5000 ≤ off && off < 0x5400 | _ => false

/-- The value a read of a word returns: staged or live (R113, R117). Reserved words and words not held read 0. -/
def readWord (s : Chip) (live : Bool) (i : Isl) (off : Nat) : Word :=
  match wordSpec i off with
  | none => 0
  | some w =>
    if notHeld s i off || (linkCipherWord i off && !Config.linkCipher) then 0
    else
      let v := if live then liveW s (caddr i off) else stagedW s (caddr i off)
      let v := if i = .sb && off = 0x0100 then 0 else v
      (v &&& BitVec.ofNat 32 (w.rw ||| w.rws ||| w.rc)) |||
        (BitVec.ofNat 32 (roBits s i off) &&& BitVec.ofNat 32 (w.ro ||| w.w1c ||| (if i = .sb then w.rw else 0)))

end Sys2Proof.Machine
end

