-- ==== Sys2Proof/Machine/Waybills.lean ====
section
/-!
DEFINITION. Waybills, monitors and postcard selection (R410 to R421).
-/

namespace Sys2Proof.Machine

/-! Monitors -/

/-- Nominal millivolts of the watched rails, in the order of R43 without VDD_FUSE. -/
def railNominal : List Nat := [720, 800, 750, 900, 1200, 750, 1100, 600, 850, 1800]

/-- A monitor with its reset binning (R419). -/
def resetMon (kind idx : Nat) : Mon :=
  if kind ≤ 1 then { base := 16 }
  else if kind = 2 then { base := 1 }
  else if kind = 3 then { linear := true, step := 4 }
  else if kind = 4 then { linear := true, base := 320, step := 16 }
  else { linear := true, base := nth 0 railNominal idx - 64, step := 4 }

/-- The monitor of a kind and index. -/
def monOf (s : Chip) (kind idx : Nat) : Mon :=
  match sget none s.tm.mons (65536 * kind + idx) with | none => resetMon kind idx | some m => m

/-- Replaces a monitor. -/
def setMon (kind idx : Nat) (m : Mon) (s : Chip) : Chip :=
  let v := if m = resetMon kind idx then none else some m
  { s with tm := { s.tm with mons := sput none s.tm.mons (65536 * kind + idx) v } }

/-- The bin of a sample (R420). -/
def monBin (m : Mon) (v : Int) : Nat :=
  if m.linear then
    let o := signed 16 m.base
    if v < o then 0 else min 31 (1 + ((v - o) / m.step).toNat)
  else if v < m.base then 0 else min 31 (1 + Nat.log2 (v.toNat / m.base))

/-- A monitor after one sample (R421). MIN and MAX are 32-bit words, signed in the temperature monitors; the first sample of
an interval sets both. -/
def monAdd (isSigned : Bool) (m : Mon) (v : Int) : Mon :=
  let read (x : Nat) : Int := if isSigned then signed 32 x else x
  let b := monBin m v
  let first := m.icount = 0
  { m with
    bins := sput 0 m.bins b ((sget 0 m.bins b + 1) % 2 ^ 48)
    min := if first || v < read m.min then unsignedOf 32 v else m.min
    max := if first || read m.max < v then unsignedOf 32 v else m.max
    icount := satAdd max32 m.icount 1 }

/-- Takes a sample into a monitor. -/
def monSample (kind idx : Nat) (v : Int) (s : Chip) : Chip :=
  setMon kind idx (monAdd (kind == 4) (monOf s kind idx) v) s

/-- A 32-bit latency in ns from two run counts in 2^-32 ns (R410, R421). -/
def latencyNs (later earlier : Int) : Nat := satAdd max32 ((later - earlier) / 2 ^ 32).toNat 0

/-! Waybills -/

/-- WFLAGS with bit 7 set when any timestamp of the record carries Q (R410). -/
def waybillFlags (w : Waybill) : Nat :=
  let q := bit w.inTs 63 || bit w.enqTs 63 || bit w.egTs 63
  if q && !bit w.wflags 7 then w.wflags + 128 else w.wflags

/-- The 64 bytes of a Waybill (R410). -/
def waybillBytes (w : Waybill) : List Byte :=
  leBytes 8 w.inTs ++ leBytes 8 w.enqTs ++ leBytes 8 w.egTs ++ leBytes 2 w.inPort ++ leBytes 2 w.egPort ++
  leBytes 2 w.qId ++ leBytes 2 w.epoch ++ leBytes 4 w.qDepth ++ leBytes 2 w.pktLen ++ leBytes 2 w.dropReason ++
  leBytes 2 w.trapReason ++ leBytes 1 w.pass ++ leBytes 1 w.latClass ++
  leBytes 4 (match w.dropUnit with | none => 0 | some u => 2 ^ 31 + u * 256) ++ leBytes 2 (waybillFlags w) ++
  leBytes 1 w.fate ++ leBytes 1 w.sel ++ leBytes 4 w.fhash ++ leBytes 4 w.residence ++ leBytes 4 0

/-- The export port that islands of a District are offered to (R416). -/
def exportOf (i : Isl) : Nat := if i.code / 256 < 2 then 0 else 1

/-- An export port. -/
def exportSt (s : Chip) (e : Nat) : ExportSt := sget {} s.tm.exports e

/-- Changes it. -/
def modExport (e : Nat) (f : ExportSt → ExportSt) (s : Chip) : Chip :=
  { s with tm := { s.tm with exports := smod {} s.tm.exports e f } }

/-- Fields of an export record (R431). -/
def ExportSt.field (x : ExportSt) (off len : Nat) : Nat := leAt x.record off len

/-- Which criteria of R416 a Waybill meets at an export port. -/
def postcardSel (x : ExportSt) (w : Waybill) : Nat :=
  let drop := w.fate = 2 || w.fate = 3
  let lat := w.fate = 1 && x.field 0x08 4 ≤ w.residence
  let samp := w.fate = 1 && Nat.land w.fhash (x.field 0x0C 4) = x.field 0x10 4
  Nat.land (pack [(0, 1, b2n drop), (1, 1, b2n lat), (2, 1, b2n samp)]) (x.field 0x01 1 % 8)

/-- The IPFIX data record of a selected Waybill (R417). -/
def postcardBytes (x : ExportSt) (w : Waybill) : List Byte :=
  let head := w.head.take (x.field 0x02 1)
  beBytes 4 w.inPort ++ beBytes 4 (if w.egPort = 0xFFFF then 0xFFFFFFFF else w.egPort) ++
    [if w.fate = 1 then 0x40 else 0x80] ++ beBytes 2 w.pktLen ++ waybillBytes w ++
    [BitVec.ofNat 8 head.length] ++ head

/-- Records of an export port were sent, or lost: TM_PC_SENT and TM_PC_LOST (R418, R432). Only records sent advance the sequence number
(R417); those of a frame that a Yard refuses are none of them (log 172). -/
def countPosts (e n : Nat) (sent : Bool) (s : Chip) : Chip :=
  if n = 0 then s
  else (span 0 n).foldl (fun s _ => pmcCount .tm (if sent then 0x64 else 0x65) e s)
    (bump .tm ((if sent then 0x0110 else 0x0114) + 8 * e) n
      (if sent then modExport e (fun x => { x with seq := (x.seq + n) % 2 ^ 32 }) s else s))

/-- The records of a frame that carries a message were sent, or lost (R418). -/
def postOutcome (post : Option (Nat × Nat)) (sent : Bool) (s : Chip) : Chip :=
  match post with | none => s | some (e, n) => countPosts e n sent s

/-- Length of the open message with its records: header 16, set header 4 (R417). -/
def messageLen (rs : List (List Byte)) : Nat := 20 + (rs.map List.length).sum

/-- The Waybill is tested against an export port's criteria and, if selected, queued as a data record; a record that finds
8,192 held is lost (R416, R418). -/
def postcardSelect (i : Isl) (w : Waybill) (s : Chip) : Chip :=
  let e := exportOf i
  let x := exportSt s e
  let sel := postcardSel x w
  if x.field 0 1 = 1 && sel ≠ 0 && !isFenced s .tm then
    if x.open'.length + x.queued.length ≥ 8192 then
      countPosts e 1 false s
    else
      let r := postcardBytes x { w with sel := sel }
      if x.queued.isEmpty && messageLen (x.open' ++ [r]) ≤ x.field 0x06 2 then
        modExport e (fun x => { x with open' := x.open' ++ [r], openAt := if x.open'.isEmpty then runNs s else x.openAt }) s
      else modExport e (fun x => { x with queued := x.queued ++ [r] }) s
  else s

/-- A copy's Waybill is completed at its fate in an island: it is sent to telemetry and never changes (R411). Samples of
the latency monitors belong to transmitted copies (R419). -/
def finishWaybill (i : Isl) (w : Waybill) (s : Chip) : Chip :=
  let w := { w with latClass := if w.fate = 1 then w.latClass else 0xFF, residence := if w.fate = 1 then w.residence else 0,
                    egTs := if w.fate = 1 || w.fate = 3 then w.egTs else 0 }
  postcardSelect i w (emit (.waybill (waybillBytes w)) s)

/-- A frame or copy is dropped by an island for a reason (R183, R280). -/
def dropWaybill (i : Isl) (reason : Nat) (w : Waybill) (s : Chip) : Chip :=
  finishWaybill i { w with dropReason := reason, dropUnit := some i.code, fate := 2 } s

end Sys2Proof.Machine
end

