-- ==== Sys2Proof/Machine/Cells.lean ====
section
/-!
DEFINITION. Yard accounts and cells (file 10): admission (R279), the return of reservations and cells (R282, R283,
R287), reading and releasing the cells of copies (R274, R275), and what follows the accounts: XOFF states (R317), spill mode (R330), pending maps and
draining keys (R344, R370).
-/

namespace Sys2Proof.Machine

/-- Drop reasons of R183. -/
def dropNoEpoch : Nat := 0x0001
def dropStale : Nat := 0x0002
def dropNoAction : Nat := 0x0003
def dropNoTarget : Nat := 0x0004
def dropPassLimit : Nat := 0x0005
def dropPortDown : Nat := 0x0006
def dropOversize : Nat := 0x0007
def dropQuota : Nat := 0x0008
def dropQueueLimit : Nat := 0x0009
def dropPool : Nat := 0x000A
def dropFenced : Nat := 0x000B
def dropCellCrc : Nat := 0x000C
def dropStomped : Nat := 0x000D
def dropFcs : Nat := 0x000E
def dropLinkSec : Nat := 0x000F
def dropSpillLost : Nat := 0x0010
def dropHostQueue : Nat := 0x0011
def dropPipeline : Nat := 0x0012

/-- Drop reason of a BAD code (R272, R273). -/
def badReason (bad : Nat) : Nat := if bad = 1 then dropFcs else if bad = 2 then dropLinkSec else dropCellCrc

/-! Accounts -/

/-- The words of a requester (R290): 18-bit values. -/
def rsvOf (s : Chip) (y r : Nat) : Nat := rqWord s y r 0 % 2 ^ 18
def quotaOf (s : Chip) (y r : Nat) : Nat := rqWord s y r 4 % 2 ^ 18
def hdrmOf (s : Chip) (y r : Nat) : Nat := rqWord s y r 8 % 2 ^ 18
def losslessOf (s : Chip) (y r : Nat) : Bool := decide (r < 4096) && bit (rqWord s y r 4) 31

/-- QLIMIT of a queue at its Yard (R290). -/
def qlimitOf (s : Chip) (y q : Nat) : Nat := (liveW s (caddr (.yard y) (0x40000 + 4 * q))).toNat % 2 ^ 28

/-- SHARED_LIMIT and HDRM_POOL. -/
def sharedLimit (s : Chip) (y : Nat) : Nat := fieldOf s (.yard y) 0x0100 0 18
def hdrmPool (s : Chip) (y : Nat) : Nat := fieldOf s (.yard y) 0x0104 0 18

/-- C of an ingress port (R278). -/
def portCells (v : Port) : Nat := cellsOf (v.maxFrame + 640)

/-- The admission of R279 for requester `r`, queue `q` of depth `depth`, and C cells: `inl` the drop reason of a refusal,
`inr` whether the grant is from headroom. `skipQueue`: a request not checked against QLIMIT. -/
def admission (s : Chip) (y r c depth limit : Nat) : Nat ⊕ Bool :=
  let v := yardOf s y
  let held := sget 0 v.held r
  let hused := sget 0 v.hused r
  let rsv := rsvOf s y r
  let shared := held + c - max held rsv
  let source : Nat ⊕ Bool :=
    if held + c ≤ rsv then .inr false
    else if held < quotaOf s y r && v.sharedUsed + shared ≤ sharedLimit s y then .inr false
    else if losslessOf s y r && hused + c ≤ hdrmOf s y r && v.hpoolUsed + c ≤ hdrmPool s y then .inr true
    else if held ≥ quotaOf s y r then .inl dropQuota
    else .inl dropPool
  if isFenced s (.yard y) then .inl dropFenced
  else if !losslessOf s y r && depth ≥ limit then .inl dropQueueLimit
  else match source with
    | .inl e => .inl e
    | .inr h => if v.free < c then .inl dropPool else .inr h

/-- Applies a grant (R279). -/
def grant (y r c : Nat) (headroom : Bool) (s : Chip) : Chip :=
  pmcCount (.yard y) 0x30 0 (modYard y (fun v =>
    if headroom then
      { v with hused := smod 0 v.hused r (· + c), hpoolUsed := v.hpoolUsed + c, free := v.free - c }
    else
      let held := sget 0 v.held r
      let rsv := rsvOf s y r
      let shared := if held + c ≤ rsv then 0 else held + c - max held rsv
      { v with held := sput 0 v.held r (held + c), sharedUsed := v.sharedUsed + shared, free := v.free - c }) s)

/-- Counts a refusal in the Yard (R280, R290); a refusal with `FENCED` is counted by the Junction half `h`. -/
def countRefusal (y r h reason : Nat) (s : Chip) : Chip :=
  if reason = dropFenced then bump (.jn h) 0x010C 1 (countFencedReq (.yard y) s)
  else
    let off := if reason = dropQuota then 0x0120 else if reason = dropQueueLimit then 0x0124 else 0x0128
    pmcCount (.yard y) 0x31 0 (bump (.yard y) off 1 (bump (.yard y) (0x80008 + 16 * r) 1 s))

/-- Returns `u` unused cells of a reservation to the source it was granted from (R282). -/
def returnUnused (y r u : Nat) (headroom : Bool) (s : Chip) : Chip :=
  modYard y (fun v =>
    if headroom then
      { v with hused := smod 0 v.hused r (· - u), hpoolUsed := v.hpoolUsed - u, free := v.free + u }
    else
      let held := sget 0 v.held r
      { v with held := sput 0 v.held r (held - u), sharedUsed := v.sharedUsed - min u (held - rsvOf s y r),
               free := v.free + u }) s

/-- Frees `n` cells charged to requester `r`; those of the indices `ret` are retired (R283, R287). -/
def freeCells (y r n : Nat) (ret : List Nat) (s : Chip) : Chip :=
  if n = 0 then s
  else
    let rsv := rsvOf s y r
    let s := (span 0 n).foldl (fun s _ => pmcCount (.yard y) 0x32 0 s) s
    modYard y (fun v =>
      let hu := sget 0 v.hused r
      let h := min n hu
      let k := n - h
      let held := sget 0 v.held r
      { v with hused := sput 0 v.hused r (hu - h), hpoolUsed := v.hpoolUsed - h,
               held := sput 0 v.held r (held - k), sharedUsed := v.sharedUsed - min k (held - rsv),
               free := v.free + (n - ret.length), retired := ret.foldl nadd v.retired }) s

/-! Cell IDs and headers (R27, R271, R272) -/

/-- The cell ID of an index of a Yard (R27). -/
def cellId (y idx : Nat) : Nat := y * 2 ^ 17 + idx

/-- The header of cell `k` of a share (R272). -/
def cellHeader (h : Share) (k : Nat) : DWord :=
  match h.cells[k]? with
  | none => 0
  | some c => packD [(44, 20, c.next), (32, 12, c.refcnt), (31, 1, b2n c.last), (28, 3, if k = 0 then h.bad else 0), (16, 8, c.len), (0, 16, c.crc)]

/-- The indices of a Yard in use: cells of frames, cells of copies' own and retired cells. -/
def usedCells (s : Chip) (y : Nat) : List Nat :=
  ((s.pkt.shares.filter (fun h => h.yard = y)).map (fun h => (h.cells.filter (fun c => c.refcnt ≠ 0)).map (fun c => c.idx))).flatten ++
  (((allCopies s).filter (fun c => c.yard = y)).map (fun c => c.places.filterMap (fun p => match p with | .own _ _ i => some i | _ => none))).flatten ++
  (yardOf s y).retired

/-- The first index at or after a start, cyclically, that a list of used ones does not hold. -/
def unusedFrom (used : List Nat) : Nat → Nat → Nat
  | 0, i => i % 131072
  | n + 1, i => if used.contains (i % 131072) then unusedFrom used n (i + 1) else i % 131072

/-- Indices of `n` free cells. Which ones the free list gives is not stated: each search starts at a free value (log 167). -/
def takeIdxs (free : Nat) : Nat → List Nat → List Nat
  | 0, _ => []
  | n + 1, used =>
    let i := unusedFrom used used.length (Config.freeValue (free + n)).toNat
    i :: takeIdxs free n (i :: used)

/-! Shares and copies -/

/-- A frame's cells in a Yard. -/
def shareOf (s : Chip) (y fid : Nat) : Option Share := s.pkt.shares.find? (fun h => h.fid = fid && h.yard = y)

/-- Replaces a share, or removes one of which no cell is left. -/
def setShare (y fid : Nat) (v : Share) (s : Chip) : Chip :=
  let dead := v.cells.all (fun c => c.refcnt = 0)
  let next (l : List Share) : List Share :=
    if dead then l.filter (fun h => ¬ (h.fid = fid ∧ h.yard = y))
    else l.map (fun h => if h.fid = fid && h.yard = y then v else h)
  modPkt (fun k => { k with shares := next k.shares }) s

/-- Takes one reference from each named cell of a list, counting from `i`: the cells, how many are freed, and the indices of those
that are retired. -/
def decCells (idxs : List Nat) : Nat → List CellSt → List CellSt × Nat × List Nat
  | _, [] => ([], 0, [])
  | i, c :: cs =>
    let rest := decCells idxs (i + 1) cs
    if idxs.contains i && decide (0 < c.refcnt) then
      let gone := c.refcnt = 1
      ({ c with refcnt := c.refcnt - 1 } :: rest.1, rest.2.1 + (if gone then 1 else 0),
        if gone && c.retire then c.idx :: rest.2.2 else rest.2.2)
    else (c :: rest.1, rest.2)

/-- A copy has read or discarded cells of its frame's share: each is decremented, and freed at 0 (R274). Where no copy is left of a
frame still being written, what its reservation has not used returns with them (R282). -/
def decShare (y fid : Nat) (idxs : List Nat) (s : Chip) : Chip :=
  match shareOf s y fid with
  | none => s
  | some v =>
    let d := decCells idxs 0 v.cells
    let s := if !v.written && d.1.all (fun c => c.refcnt = 0) then returnUnused y v.req (v.c - v.cells.length) v.headroom s else s
    freeCells y v.req d.2.1 d.2.2 (setShare y fid { v with cells := d.1 } s)

/-- Indices of a copy's places that satisfy a test. -/
def placesWhere (f : CellPlace → Bool) : Nat → List CellPlace → List Nat
  | _, [] => []
  | i, p :: ps => if f p then i :: placesWhere f (i + 1) ps else placesWhere f (i + 1) ps

/-- Lets go of every cell a copy still holds: shared cells are decremented, returned cells freed to the spill return
requester, and segments left to `pruneSegs` (R274, R275, R333). -/
def releaseCopy (c : Copy) (s : Chip) : Chip :=
  let own := (placesWhere (fun p => match p with | .own _ _ _ => true | _ => false) 0 c.places).length
  freeCells c.yard 4099 own [] (decShare c.yard c.fid (placesWhere (fun p => p = .shared) 0 c.places) s)

/-- A segment holds a cell of a copy: its place names the segment, or the segment is still being written from it. -/
def Seg.holds (g : Seg) (c : Copy) : Bool := c.places.contains (.seg g.id) || (g.stage = 0 && g.cells.any (fun x => x.1 = c.cid))

/-- A segment that has left its Quarry leaves no transaction behind (log 63). -/
def pruneTx (s : Chip) : Chip :=
  let ids := (s.pkt.quarries.map (fun x => x.2.segs.map (fun g => g.id))).flatten
  modPkt (fun k => { k with chans := k.chans.map (fun x => (x.1, { x.2 with queue := x.2.queue.filter (fun t => ids.contains t.seg) })) }) s

/-- Segments none of whose cells any copy still waits for: their slots return to the free list (R350, R452). -/
def pruneSegs (s : Chip) : Chip :=
  let live := allCopies s
  pruneTx (modPkt (fun k => { k with quarries := k.quarries.map (fun x =>
    (x.1, { x.2 with segs := x.2.segs.filter (fun g => live.any g.holds) })) }) s)

/-- The share of a copy is written to its last cell, or the copy has no share left. -/
def copyWritten (s : Chip) (c : Copy) : Bool :=
  match shareOf s c.yard c.fid with | none => true | some v => v.written

/-- BAD of a copy's first cell. -/
def copyBad (s : Chip) (c : Copy) : Nat :=
  if c.ownBad ≠ 0 then c.ownBad
  else match shareOf s c.yard c.fid with | none => 0 | some v => v.bad

/-- Completes a descriptor of a queue from the host, once, with a status and a timestamp (R122). -/
def hostOutcome (h : Option (Nat × Nat × Bool)) (st : Status) (ts : Nat) (s : Chip) : Chip :=
  match h with
  | none => s
  | some (q, slot, _) =>
    { s with host := { s.host with hostFrames := smod [] s.host.hostFrames q (fun l =>
        l.map (fun f => if f.slot = slot && f.outcome.isNone then { f with outcome := some (st, ts) } else f)) } }

/-- A copy that is read no further: its egress mirror copies go with it (R309), and its Waybill records the reason and whether it was
spilled (R183, R410, R411). -/
def recordDrop (i : Isl) (reason : Nat) (c : Copy) (s : Chip) : Chip :=
  let s := modPkt (fun k => { k with staged := k.staged.filter (fun g => g.complete || ¬ g.source = c.cid) }) s
  hostOutcome c.host .ok 0 (dropWaybill i reason
    { c.wb with pass := c.m.pass, epoch := c.m.epoch, wflags := Nat.lor c.wb.wflags (b2n c.spilled) } s)

/-- A copy's cells wait for their walk (R275), the command COPY_DISCARD_WALK. Its cells in segments need none: they are let go at
once (R350). -/
def keepDiscard (c : Copy) (s : Chip) : Chip :=
  let places := c.places.map (fun p => match p with | .seg _ => .lost | p => p)
  modPkt (fun k => { k with discards := k.discards ++ [{ copy := { c with places := places } }] }) s

/-- Drops a copy unread (R275): its cells stay held until they are walked. -/
def startDiscard (i : Isl) (reason : Nat) (c : Copy) (s : Chip) : Chip := recordDrop i reason c (keepDiscard c s)

/-- Drops a copy whose egress Line reads it to its end: its cells are let go, or wait for their walk while its tail is still
arriving (R275). -/
def dropCopy (i : Isl) (reason : Nat) (c : Copy) (s : Chip) : Chip :=
  if copyWritten s c then recordDrop i reason c (releaseCopy c s) else startDiscard i reason c s

/-- Takes the queued copies that satisfy a test out of every queue and drops them unread. -/
def dropQueued (i : Copy → Isl) (reason : Nat) (f : Copy → Bool) (s : Chip) : Chip :=
  let gone := (s.pkt.queues.map (fun x => x.2.filter f)).flatten
  let keep (m : Sparse (List Copy)) : Sparse (List Copy) :=
    (m.map (fun x => (x.1, x.2.filter (fun c => !f c)))).filter (fun x => x.2 ≠ [])
  let s := modPkt (fun k => { k with queues := keep k.queues }) s
  pruneSegs (gone.foldl (fun s c => startDiscard (i c) reason c s) s)

/-! XOFF (R317) -/

/-- Requesters of a Yard that its live words make lossless. -/
def losslessReqs (s : Chip) (y : Nat) : List Nat :=
  let base := caddr (.yard y) 0x10000
  ((s.live.filter (fun x => base ≤ x.1 && x.1 < base + 16 * 4096 && x.1 % 16 = 4 && bit x.2.toNat 31)).map
    (fun x => (x.1 - base) / 16))

/-- The XOFF state of requester `r` of a Yard after a change of the accounts. -/
def xoffNext (s : Chip) (y r : Nat) : Bool :=
  match portOf s (r / 8) with
  | none => false
  | some p =>
    let v := yardOf s y
    let c := portCells p
    let held := sget 0 v.held r
    let hused := sget 0 v.hused r
    let quota := quotaOf s y r
    let limit := sharedLimit s y
    if decide (0 < hused) || decide (quota < held + c) || decide (limit < v.sharedUsed + c) then true
    else if hused = 0 && decide (held + 3 * c ≤ quota) && decide (v.sharedUsed + 3 * c ≤ limit) then false
    else v.xoff.contains r

/-- PF_XOFF_PG bit of requester `r` (R317). -/
def xoffPg (s : Chip) (r : Nat) : Bool := (span 0 8).any (fun y => (yardOf s y).xoff.contains r)

/-- A PFC frame of one priority (R153): destination 01-80-C2-00-00-01, EtherType 0x8808, MAC control opcode 0x0101, the class enable vector, the
quanta of the eight priorities, and zeros up to the shortest frame (IEEE 802.1Qbb; log 163). -/
def pfcFrame (p prio quanta : Nat) : List Byte :=
  padTo 60 0#8 ([0x01#8, 0x80#8, 0xC2#8, 0#8, 0#8, 0x01#8] ++ beBytes 6 (Config.portMac p).toNat ++ beBytes 2 0x8808 ++ beBytes 2 0x0101 ++
    beBytes 2 (2 ^ prio) ++ ((span 0 8).map (fun k => beBytes 2 (if k = prio then quanta else 0))).flatten)

/-- Sends XOFF or XON for every enabled priority of a port that its map puts in group `g` (R153, R317). -/
def sendPfc (p g : Nat) (on : Bool) (s : Chip) : Chip :=
  match portOf s p with
  | none => s
  | some v =>
    let map := (liveW s (portWord p 0x1000 0x04)).toNat % 2 ^ 24
    let quanta := if on then (liveW s (portWord p 0x1000 0x00)).toNat / 2 ^ 16 else 0
    if v.st = .up then
      (span 0 8).foldl (fun s k =>
        if bit v.pfcEn k && bits map (3 * k) 3 = g then
          let s := emit (.pfc p k quanta (pfcFrame p k quanta)) s
          if on then pmcCount (.platform (platformOf p)) 0x24 (laneIndex p) s else s
        else s) s
    else s

/-- Brings the XOFF states of every Yard up to the accounts and sends the XOFF and XON frames this calls for. -/
def xoffUpdate (s : Chip) : Chip :=
  let t := (span 0 8).foldl (fun t y =>
    let next := (losslessReqs s y).filter (xoffNext s y)
    if next = (yardOf t y).xoff then t else modYard y (fun v => { v with xoff := next }) t) s
  let rs := ((span 0 8).map (fun y => (yardOf s y).xoff ++ (yardOf t y).xoff)).flatten.eraseDups
  rs.foldl (fun t' r => if xoffPg s r = xoffPg t r then t' else sendPfc (r / 8) (r % 8) (xoffPg t r) t') t

/-! Spill mode (R330) -/

/-- The Quarry of a queue takes segments: spill is enabled there and it is not fenced. -/
def spillReady (s : Chip) (q : Nat) : Bool :=
  (quarryOf s (queueYard s q)).enabled && !isFenced s (.quarry (queueYard s q))

/-- Queues whose allowance is not 0 (R346). -/
def allowedQueues (s : Chip) : List Nat :=
  (s.live.filter (fun x =>
    match islOf (x.1 / 2 ^ 32) with
    | some (.quarry _) => 0x40000 ≤ x.1 % 2 ^ 32 && x.1 % 16 = 8 && x.2 ≠ (0 : Word)
    | _ => false)).map (fun x => (x.1 % 2 ^ 32 - 0x40000) / 16)

/-- The on-chip cells of a spill-mapped queue have reached QY_Q_THRESH. -/
def overThresh (s : Chip) (q : Nat) : Bool :=
  spillMapped s q && spillReady s q && decide (spillWord s (queueYard s q) q 0 ≤ onChipOf s q)

/-- A queue whose on-chip cells reach QY_Q_THRESH enters spill mode. One that holds no segment spilled or in flight leaves it, once it
has held one or its on-chip cells have fallen below the threshold (log 44), and its tail joins its head part. -/
def spillModes (s : Chip) : Chip :=
  let s := s.pkt.qs.foldl (fun s x =>
    let q := x.1
    if x.2.spillMode && !(quarryOf s (queueYard s q)).segs.any (fun g => g.queue = q) && (x.2.spilledOnce || !overThresh s q) then
      setQueue q ((queueOf s q).map (fun c => { c with stream := false }))
        (modQueueSt q (fun v => { v with spillMode := false, spilledOnce := false }) s)
    else s) s
  (allowedQueues s).foldl (fun s q =>
    if overThresh s q && !(queueSt s q).spillMode then modQueueSt q (fun v => { v with spillMode := true }) s else s) s

/-! Pending maps and keys (R344, R370) -/

/-- Rebuilds a Quarry's map once no segment of the old one remains (R344 step 4, R346, R461): the unfenced trained channels
form the active set. -/
def rebuildMap (q : Nat) (s : Chip) : Chip :=
  let v := quarryOf s q
  if !v.remap || v.segs ≠ [] then s
  else
    let ctrl := (liveW s (caddr (.quarry q) 0x0100)).toNat
    let act := (span 0 4).filter (fun k => (chanOf s (4 * q + k)).trained && !v.fenced.contains k)
    let d := (act.map (fun k => (chanOf s (4 * q + k)).density)).foldl min (if act = [] then v.density else 16)
    modQuarry q (fun v => { v with active := act, mapActs := act, mapGen := (v.mapGen + 1) % 16, grain := bits ctrl 8 4,
                                   bankXor := bit ctrl 7, remap := false, noSlot := [], density := d
                                   capacity := v.ranks * d * 2 ^ 27 }) s

/-- A queue's spill allowance: used while its Quarry has spill enabled and is not fenced (R84, R345, R348). -/
def spillAllowance (s : Chip) (q : Nat) : Nat :=
  let y := queueYard s q
  if decide (q < 10240) && (quarryOf s y).enabled && !isFenced s (.quarry y) then spillWord s y q 8 else 0

/-- The limits of a Yard's queues with an allowance follow the fence of its Quarry (R292, R345). -/
def relimit (y : Nat) (s : Chip) : Chip :=
  ((allowedQueues s).filter (fun q => queueYard s q = y)).foldl (fun s q =>
    let ca := caddr (.yard y) (0x40000 + 4 * q)
    let w := BitVec.ofNat 32 ((yardOf s y).plan * (queueSt s q).limitPct / 100 + spillAllowance s q)
    setShadow ca w (if isFenced s (.yard y) then s else setLive ca w s)) s

/-- A draining spill key slot is emptied when the last segment it protects leaves (R370). -/
def spillKeyDrain (s : Chip) : Chip :=
  match s.cipher.spillDrain with
  | none => s
  | some k =>
    if keySegs s k = 0 then
      { s with cipher := { s.cipher with spillDrain := none, spill := sput none s.cipher.spill k none } }
    else s

/-- Brings what follows from the packet path's accounts up to date: XOFF, spill mode, pending maps, draining keys and the stale
counts. -/
def account (s : Chip) : Chip :=
  let s := spillModes (xoffUpdate s)
  noteStale (spillKeyDrain ((span 0 8).foldl (fun s q => rebuildMap q s) s))

end Sys2Proof.Machine
end

