-- ==== Sys2Proof/Machine/PortFsm.lean ====
section
/-!
DEFINITION. What a port's change of state does to everything else (R135 to R138, R147, R150, R282, R302, R453): frames on
its wire, frames in reception, failover groups, recovered clock outputs. The port commands and the fencing of units use
these.
-/

namespace Sys2Proof.Machine

/-! Failover groups (R149, R150) -/

/-- A failover group. -/
def groupOf (s : Chip) (g : Nat) : Option Group := sget none s.ports.groups g

/-- Replaces a group. -/
def setGroup (g : Nat) (v : Option Group) (s : Chip) : Chip :=
  { s with ports := { s.ports with groups := sput none s.ports.groups g v } }

/-- The first member of a list that is in UP. -/
def firstUp (s : Chip) (ms : List Nat) : Option Nat := ms.find? (portUp s)

/-- The next member after `p` in list order that is up, wrapping to the start of the list (R150). -/
def nextUp (s : Chip) (ms : List Nat) (p : Nat) : Option Nat :=
  let i := ms.idxOf p
  firstUp s (ms.drop (i + 1) ++ ms.take (i + 1))

/-- The port is down in the sense of R138: it is in none of UP, QUIET and WAKING. -/
def portDown (s : Chip) (p : Nat) : Bool :=
  match portOf s p with | none => true | some v => !(v.st = .up || v.st = .quiet || v.st = .waking)

/-- A SPREAD group's slots with every slot of a member that is down passed on (R150). One that finds no member up stays until one is (DESIGN
CHOICE, log 161). -/
def passSlots (s : Chip) (ms : List Nat) (slots : List Nat) : List Nat :=
  slots.map (fun m => if portDown s m then (match nextUp s ms m with | some n => n | none => m) else m)

/-- The fill of R149 over a list of members: slot i takes member i mod COUNT. -/
def fillSlots (ms : List Nat) : List Nat :=
  if ms = [] then [] else (span 0 256).map (fun i => nth 0 ms (i % ms.length))

/-- A group after the state of a member changed (R149, R150): a PROTECT group whose member went down, or that resolved to
none, resolves to its first member in UP; a SPREAD group passes on the slots of members that are down. -/
def regroup (s : Chip) (g : Group) : Group :=
  if g.spread then { g with slots := passSlots s g.members g.slots }
  else match g.current with
    | some c => if portUp s c then g else { g with current := firstUp s g.members }
    | none => { g with current := firstUp s g.members }

/-- Every group that holds port `p`, after the port's state changed (R150). -/
def regroupPort (p : Nat) (s : Chip) : Chip :=
  { s with ports := { s.ports with groups := s.ports.groups.map (fun x =>
      match x.2 with
      | none => x
      | some g => (x.1, some (if g.members.contains p then regroup s g else g))) } }

/-- The port is a member of some group. -/
def inSomeGroup (s : Chip) (p : Nat) : Bool :=
  s.ports.groups.any (fun x => match x.2 with | none => false | some g => g.members.contains p)

/-- The port is a standby member of a PROTECT group with QUIET_STANDBY (R151). -/
def isStandby (s : Chip) (p : Nat) : Bool :=
  s.ports.groups.any (fun x => match x.2 with
    | none => false
    | some g => !g.spread && g.quietStandby && g.members.contains p && decide (g.current ≠ some p))

/-- A group needs a Quiet port (R151): none of its members is in UP, and the port is its first Quiet member whose standby
is not lost. -/
def groupNeeds (s : Chip) (p : Nat) : Bool :=
  s.ports.groups.any (fun x => match x.2 with
    | none => false
    | some g => !g.spread && g.quietStandby && !(g.members.any (portUp s)) &&
        decide (g.members.find? (fun m => match portOf s m with
          | none => false | some v => v.st = .quiet && !v.standbyLost) = some p))

/-! Recovered clocks (R146, R147) -/

/-- The divider that gives a mode's symbol rate its output (R146). -/
def recclkDiv (mode : Nat) : Nat :=
  match modeSpec mode with
  | none => 0
  | some m =>
    if m.kbd = 25781250 then 165 else if m.kbd = 10312500 then 66 else if m.kbd = 26562500 then 165
    else if m.kbd = 53125000 then 330 else if m.kbd = 106250000 then 660 else 1320

/-- TT_RECCLK_CTRL of an output. -/
def recclkWord (k : Nat) : Nat := caddr .tt (0x0800 + 4 * k)

/-- Outputs whose source lane satisfies a test. -/
def recclkFrom (s : Chip) (f : Nat → Bool) : List Nat :=
  (span 0 2).filter (fun k => let w := (liveW s (recclkWord k)).toNat; bit w 31 && f (w % 512))

/-- Holds low the outputs whose source lies among some lanes (R147). -/
def recclkHold (f : Nat → Bool) (s : Chip) : Chip :=
  { s with ports := { s.ports with recclkLow := (recclkFrom s f).foldl nadd s.ports.recclkLow } }

/-- Lets them run again. -/
def recclkResume (f : Nat → Bool) (s : Chip) : Chip :=
  { s with ports := { s.ports with recclkLow := (recclkFrom s f).foldl ndel s.ports.recclkLow } }

/-- A lane lies in a port. -/
def inPort (s : Chip) (p l : Nat) : Bool :=
  match portOf s p with | none => false | some v => p ≤ l && l < p + modeWidth v.mode

/-! Leaving UP, and reaching it -/

/-- Copies on the wire of a port end where they stand, with `PORT_DOWN`, and their remaining cells are walked (R302, R275). -/
def cutTx (p : Nat) (s : Chip) : Chip :=
  let on (t : TxCopy) : Bool := t.copy.port = p && t.copy.kind ≠ 2
  let gone := s.pkt.tx.filter on
  let s := modPkt (fun k => { k with tx := k.tx.filter (fun t => !on t) }) s
  gone.foldl (fun s t => startDiscard (.eline t.line) dropPortDown t.copy s) s

/-- Frames of a port still in reception are cut off and marked bad (R282, R314). -/
def cutRx (p : Nat) (s : Chip) : Chip :=
  let mark (b : Nat) : Nat := if b = 0 then 1 else b
  let rx (f : RxFrame) : RxFrame :=
    if !f.siding && f.host.isNone && f.m.inPort = p then { f with bad := mark f.bad } else f
  let jn (f : JnFrame) : JnFrame :=
    if f.first && f.host.isNone && f.m.inPort = p then { f with bad := mark f.bad } else f
  let share (h : Share) : Share :=
    if h.first && h.req / 8 = p && !h.written then { h with endBad := mark h.endBad } else h
  modPkt (fun k => { k with rx := k.rx.map rx, jn := k.jn.map jn, shares := k.shares.map share }) s

/-- A port takes a new state. A port that leaves UP ends its copies on the wire (R302). Leaving UP for any state but QUIET is going down
(R138), and so is a Quiet or waking port's loss of its Platform: it is counted, frames in reception end, groups move away from the port
(R150), and the accounts follow. Recovered clocks from a port that leaves UP are held low (R147). -/
def portTo (p : Nat) (st : PortState) (s : Chip) : Chip :=
  match portOf s p with
  | none => s
  | some v =>
    let was := v.st
    let s := setPort p (some { v with st := st }) s
    let s := if st = .fault && was ≠ .fault then emit (.remoteFault p) s else s
    let s := if was = .up && st ≠ .up then recclkHold (inPort s p) s else s
    let alive (x : PortState) : Bool := x = .up || x = .quiet || x = .waking
    if alive was && !alive st then
      let s := modPort p (fun v => { v with downCount := satAdd 0xFFFF v.downCount 1 }) s
      account (regroupPort p (cutRx p (cutTx p s)))
    else if was = .up && st ≠ .up then cutTx p s
    else s

/-- A port reaches UP: its BACKOFF schedule starts again, a later TRAIN_FAIL raises a fault again, groups that resolve to
no member take it, and recovered clocks from it resume (R137, R147, R150). -/
def portToUp (p : Nat) (s : Chip) : Chip :=
  let s := modPort p (fun v => { v with st := .up, backoff := 0, failRaised := false, afterFail := false,
                                        remoteFault := false, skewRaised := false, standbyLost := false,
                                        upSince := runNs s }) s
  regroupPort p (recclkResume (inPort s p) s)

/-- The state from which a port starts its link (R135, R139). -/
def startState (v : Port) (adminDown : Bool) : PortState :=
  if adminDown then .adminDown else if v.an then .an else .training

/-! Platforms without a Line or a Yard (R453) -/

/-- Either Line of a pair is fenced. -/
def pairFenced (s : Chip) (n : Nat) : Bool := isFenced s (.iline n) || isFenced s (.eline n)

/-- No unfenced Line pair serves the Platform, or its home Yard is fenced (R453). -/
def platformHeld (s : Chip) (k : Nat) : Bool :=
  (match servingLine s k with | none => true | some n => pairFenced s n) || isFenced s (.yard (homeYard k))

/-- Ports of a Platform. -/
def portsOn (s : Chip) (k : Nat) : List Nat := (portList s).filter (fun p => platformOf p = k)

/-- Holds every port of a Platform in FAULT (R453). -/
def holdPorts (k : Nat) (s : Chip) : Chip :=
  (portsOn s k).foldl (fun s p => match portOf s p with
    | none => s
    | some v => if v.st = .adminDown then s else portTo p .fault s) s

/-- Every lane of a port is locked without LOS. -/
def allLocked (s : Chip) (p : Nat) : Bool :=
  match portOf s p with
  | none => false
  | some v => (portLanes p v).all (fun l => (laneOf s l).lock && !(laneOf s l).los)

/-- The hold of R453 has ended: ports whose lanes kept their lock pass to ALIGNING, the others start their link. -/
def unholdPorts (k : Nat) (s : Chip) : Chip :=
  if platformHeld s k || isFenced s (.platform k) then s
  else (portsOn s k).foldl (fun s p => match portOf s p with
    | none => s
    | some v =>
      if v.st = .fault then (if allLocked s p then portTo p .aligning s else portTo p (startState v false) s) else s) s

/-- Applies R453 to every Platform after Lines, Yards or assignments changed: `s0` is the state before. -/
def rehold (s0 s : Chip) : Chip :=
  (span 0 32).foldl (fun s k =>
    if platformHeld s k && !platformHeld s0 k then holdPorts k s
    else if platformHeld s0 k && !platformHeld s k then unholdPorts k s
    else s) s

/-- The lanes of a Platform go down (R18, R55). -/
def lanesDown (k : Nat) (s : Chip) : Chip :=
  (span (16 * k) 16).foldl (fun s l => modLane l (fun v => { v with los := true, lock := false, sd := false }) s) s

/-- A fenced Platform's ports go down (R138). -/
def portsDown (k : Nat) (s : Chip) : Chip :=
  (portsOn s k).foldl (fun s p => match portOf s p with
    | none => s
    | some v => if v.st = .adminDown then s else portTo p .fault s) s

end Sys2Proof.Machine
end

