-- ==== Sys2Proof/Machine/Faults.lean ====
section
/-!
DEFINITION. Recording a fault, escalation, fencing and chip hold as shared operations (R437 to R439, R446 to R453), and the
causes of R444. The commands of file 16 stand in `Machine/Repair.lean`.
-/

namespace Sys2Proof.Machine

/-- Classes of R435. -/
def clsLane : Nat := 0x0
def clsCauseway : Nat := 0x1
def clsMemory : Nat := 0x2
def clsTable : Nat := 0x3
def clsBuffer : Nat := 0x4
def clsPipeline : Nat := 0x5
def clsCipher : Nat := 0x6
def clsTime : Nat := 0x7
def clsHandshake : Nat := 0x8
def clsPower : Nat := 0x9
def clsFirmware : Nat := 0xA
def clsBist : Nat := 0xB

/-! Orders at work -/

/-- Gives the Order at work on a ring its status and result. -/
def finishOrder (ring : Nat) (st : Status) (res : DWord) (s : Chip) : Chip :=
  { s with host := { s.host with rings := smod {} s.host.rings ring (fun r =>
      match r.running with
      | none => r
      | some o => if o.outcome.isSome then r else { r with running := some { o with outcome := some (st, res) } }) } }

/-! ERR_N -/

/-- ERR_N is to be driven low after the boot sequence has ended (R446). -/
def errWanted (s : Chip) : Bool :=
  chipHold s || s.faults.cabs.any (fun x => x.2.valid && decide (fieldOf s .ks 0x0110 0 3 ≤ x.2.maxSev))

/-- ERR_N follows the fault state once `PC_BOOT_DONE` is 1; before that it is low (R82, R446). -/
def errUpdate (s : Chip) : Chip :=
  { s with faults := { s.faults with errLow := if s.boot.done && !inReset s then errWanted s else true } }

/-- MAXSEV of a class word returns to 0 when UNCLEARED does (R442). -/
def classUpdate (s : Chip) : Chip :=
  let next (m : Sparse ClassSt) : Sparse ClassSt :=
    (m.map (fun x => if uncleared s x.1 then x else (x.1, { x.2 with maxSev := 0 }))).filter (fun x => x.2 ≠ {})
  { s with faults := { s.faults with classes := next s.faults.classes } }

/-! Fencing -/

/-- Changes a Signalman. -/
def modSm (n : Nat) (f : SmSt → SmSt) (s : Chip) : Chip :=
  { s with sb := { s.sb with sms := smod {} s.sb.sms n f } }

/-- The address a word is fetched from: that of the lowest enabled trap entry that matches it, in patch RAM, or itself (R473). -/
def redirect (m : SmSt) (a : Nat) : Nat :=
  let hit (x : Nat × Option TrapEntry) : Bool := match x.2 with | none => false | some t => t.enable && t.addr == a
  if m.patched && a < 0x4000 then
    match m.traps.find? hit with
    | some (_, some t) => 0x4000 + t.target
    | _ => a
  else a

/-- A Signalman at its dispatcher with cleared micro-state (R476, R478). Memories, patch set, breakpoints and the duty event queue stay. -/
def clearSm (m : SmSt) : SmSt :=
  { m with m := { addr := redirect m 0x0100 }, save := {}, saveCause := 0, inTrap := false, due := [], mask := false, bracket := 0,
           wait := none, steps := none, passBp := false, running := false, call := none, undo := [] }

/-- The Signalman that carries out a duty: Signalman 3 while it covers it (R476). -/
def executor (s : Chip) (d : Nat) : Nat := if s.sb.cover = some d then 3 else d

/-- The Signalmen an Order's routine runs on: those of its District duty, else Signalman 0 (R463). -/
def orderSms (s : Chip) (c : Instr) : List Nat :=
  match orderDuties c with | [] => [0] | ds => ds.map (executor s)

/-- The islands that UNIT_UNFENCE may have in repair. -/
def repairIslands (o : UnitOps) : List Isl :=
  match islOf o.island with
  | some (.iline n) => [.iline n, .eline n]
  | some (.eline n) => [.iline n, .eline n]
  | some (.platform k) => (span (4 * (k / 4)) 4).map .platform
  | some i => [i]
  | none => []

/-- An Order is given up before its end: what the device still holds of it lets go of its ring, and a repair it was carrying out ends. -/
def giveUp (ring : Nat) (c : Instr) (s : Chip) : Chip :=
  let s := match c with
    | .unitUnfence _ o _ => (repairIslands o).foldl (fun s i =>
        modCab i (fun c => { c with repair := false, repairSub := 0xFF, again := false }) s) s
    | _ => s
  let drop (l : List Nat) : List Nat := l.filter (fun r => ¬ r = ring)
  { s with
    pkt := { s.pkt with chans := s.pkt.chans.map (fun x => (x.1, { x.2 with rings := drop x.2.rings, next := drop x.2.next })) } }

/-- The Order that Signalman `n` executes: of those at work whose routine runs on it, the one issued first. An Order that waits for the
hardware is not in its hands (log 173). -/
def orderAt (s : Chip) (n : Nat) : Option (Nat × Instr) :=
  let own (x : Nat × RingSt) : Option (Nat × Nat × Instr) :=
    match x.2.running with
    | none => none
    | some o => match o.cmd with
      | none => none
      | some c =>
        let held := match c with | .unitUnfence _ _ _ => false | _ => o.begun
        if o.outcome.isNone && !held && (orderSms s c).contains n then some (o.seq, x.1, c) else none
  ((s.host.rings.filterMap own).foldl (fun (b : Option (Nat × Nat × Instr)) x =>
    match b with | none => some x | some y => if x.1 < y.1 then some x else some y) none).map (fun x => x.2)

/-- The routine of a Signalman is abandoned (R472): each word that a MICRO_CALL routine staged gets back the value it held before in the bits
written, and the Order the Signalman executes completes with `st` and RESULT 0. Any other Order stages nothing before its effect, which is one
step here, so a list stops with none of its records applied (log 173). -/
def abandonCall (n : Nat) (st : Status) (s : Chip) : Chip :=
  let m := smOf s n
  match m.call with
  | none => match orderAt s n with
    | none => s
    | some (ring, c) => finishOrder ring st 0 (giveUp ring c s)
  | some ring =>
    let s := m.undo.foldl (fun s x => setStaged x.1 (mergeW (stagedW s x.1) x.2.1 x.2.2) s) s
    modSm n (fun m => { m with call := none, undo := [] }) (finishOrder ring st 0 s)

/-- Orders at work whose duty has lapsed complete with `FENCED` (R476). A job that a lookaside engine has goes on in hardware. -/
def lapseOrders (s : Chip) : Chip :=
  s.host.rings.foldl (fun s x => match x.2.running with
    | none => s
    | some o => match o.cmd with
      | none => s
      | some c =>
        let hw := o.begun && (match c with | .cipherJob _ _ => true | _ => false)
        if o.outcome.isNone && !hw && (orderDuties c).any s.sb.lapsed.contains then finishOrder x.1 .fenced 0 (giveUp x.1 c s)
        else s) s

/-- The fault of a Signalman at S3 fences it, or restarts Signalman 0 and the Signalman that covers it (R476). A fenced
Signalman is halted with its micro-state cleared, the Order of a MICRO_CALL routine it ran completes with `FENCED`, and
Signalman 3 takes over its duties if it can. The Order that a restarted Signalman was executing is abandoned. -/
def fenceSm (n : Nat) (s : Chip) : Chip :=
  let restart := n = 0 || (n = 3 && s.sb.cover = some 0)
  let m := smOf s n
  let s := modSm n clearSm
    (if restart then (if m.running then abandonCall n .governed s else s) else if m.call.isSome then abandonCall n .fenced s else s)
  if restart || (smOf s n).fenced then s
  else
    let s := modSm n (fun m => { m with fenced := true }) s
    let sb := s.sb
    let sb := if n = 3 then
        (match sb.cover with
         | none => { sb with lapsed := nadd sb.lapsed 3 }
         | some k => { sb with cover := none, lapsed := nadd (nadd sb.lapsed 3) k })
      else if sb.cover.isNone && !(smOf s 3).fenced then { sb with cover := some n }
      else { sb with lapsed := nadd sb.lapsed n }
    lapseOrders { s with sb := sb }

/-- Sets the fence words of a Cabin: CAB_FENCED, the cause, and a new generation (R450). -/
def setFence (i : Isl) (cause : Nat) (s : Chip) : Chip :=
  modCab i (fun c => { c with fenced := true, gen := (c.gen + 1) % 256, cause := cause }) s

/-- Drops a frame that an ingress Line holds. -/
def dropRx (i : Isl) (reason : Nat) (f : RxFrame) (s : Chip) : Chip :=
  hostOutcome f.host .ok 0 (dropWaybill i reason { f.wb with pass := f.m.pass, epoch := f.m.epoch } s)

/-- Drops a frame that a Junction half holds. -/
def dropJn (i : Isl) (reason : Nat) (f : JnFrame) (s : Chip) : Chip :=
  postOutcome f.post false (hostOutcome f.host .ok 0 <| dropWaybill i reason { f.wb with pass := f.m.pass, epoch := f.m.epoch } s)

/-- Drops everything an ingress Line holds (R450 step 4). -/
def clearIline (reason n : Nat) (s : Chip) : Chip :=
  let gone := s.pkt.rx.filter (fun f => f.line = n)
  let s := modPkt (fun k => { k with rx := k.rx.filter (fun f => ¬ f.line = n) }) s
  gone.foldl (fun s f => dropRx (.iline n) reason f s) s

/-- Drops everything an egress Line holds. -/
def clearEline (reason n : Nat) (s : Chip) : Chip :=
  let tx := s.pkt.tx.filter (fun t => t.line = n)
  let sd := s.pkt.sidings.filter (fun f => f.line = n)
  let s := modPkt (fun k => { k with tx := k.tx.filter (fun t => ¬ t.line = n),
                                     sidings := k.sidings.filter (fun f => ¬ f.line = n) }) s
  let s := tx.foldl (fun s t => dropCopy (.eline n) reason t.copy s) s
  sd.foldl (fun s f => dropRx (.eline n) reason f s) s

/-- Stomps a copy on the wire whose cells can be read no longer: some of its bytes have left, how many the spec does not
say, and it ends with an inverted FCS (R314, R452). -/
def stompTx (t : TxCopy) (s : Chip) : Chip :=
  let sent := t.wire.take ((freeNext s).toNat % (t.wire.length + 1))
  let p := t.copy.port
  let s := emit (.frame p sent true) (freeTake s)
  let s := bump (.platform (platformOf p)) (0x1000 + 0x40 * laneIndex p + 0x2C) 1 s
  let s := releaseCopy t.copy s
  let s := modPkt (fun k => { k with staged := k.staged.filter (fun g => g.complete || ¬ g.source = t.copy.cid) }) s
  hostOutcome t.copy.host .ok (if (match t.copy.host with | some (_, _, b) => b | none => false) then t.egTs else 0)
    (finishWaybill (.eline t.line)
      { t.copy.wb with dropReason := dropStomped, dropUnit := some (Isl.eline t.line).code, fate := 3, egTs := t.egTs } s)

/-- The transactions of a Quarry's channels go with its segments. -/
def emptyChannels (q : Nat) (s : Chip) : Chip := (span (4 * q) 4).foldl (fun s c => modChan c (fun h => { h with queue := [] }) s) s

/-- Drops everything a Yard holds: copies on the wire are stomped, queued ones dropped, discards end, its Quarry's segments
go with them (R452), and its counts fall to those of an empty Yard. -/
def clearYard (y : Nat) (s : Chip) : Chip :=
  let tx := s.pkt.tx.filter (fun t => t.copy.yard = y)
  let s := modPkt (fun k => { k with tx := k.tx.filter (fun t => ¬ t.copy.yard = y) }) s
  let s := tx.foldl (fun s t => if t.copy.kind = 2 then dropCopy (.yard y) dropFenced t.copy s else stompTx t s) s
  let s := dropQueued (fun _ => .yard y) dropFenced (fun c => c.yard = y) s
  let s := modPkt (fun k => { k with shares := k.shares.filter (fun h => ¬ h.yard = y),
                                     discards := k.discards.filter (fun d => ¬ d.copy.yard = y) }) s
  let s := modQuarry y (fun v => { v with segs := [], noSlot := [] }) s
  let s := { s with pkt := { s.pkt with qs := s.pkt.qs.map (fun x =>
      (x.1, if queueYard s x.1 = y then { x.2 with spillMode := false, spilledOnce := false } else x.2)) } }
  modYard y (fun v => { v with held := [], hused := [], sharedUsed := 0, hpoolUsed := 0, free := 131072 - v.retired.length,
                               xoff := [] }) (emptyChannels y s)

/-- Drops the frames a Quarry counts (R345). -/
def clearQuarry (q : Nat) (s : Chip) : Chip :=
  let s := dropQueued (fun _ => .quarry q) dropFenced (fun c => c.yard = q && c.spilledNow) s
  let s := emptyChannels q (modQuarry q (fun v => { v with segs := [], noSlot := [] }) s)
  { s with pkt := { s.pkt with queues := s.pkt.queues.map (fun x =>
      (x.1, x.2.map (fun c => if c.yard = q then { c with stream := false } else c))),
                               qs := s.pkt.qs.map (fun x =>
      (x.1, if queueYard s x.1 = q then { x.2 with spillMode := false, spilledOnce := false } else x.2)) } }

/-- Drops everything a Junction half holds. -/
def clearJn (h : Nat) (s : Chip) : Chip :=
  let jn := s.pkt.jn.filter (fun f => f.half = h) ++ s.pkt.hostCopies.filter (fun f => f.half = h)
  let st := s.pkt.staged.filter (fun f => f.half = h)
  let s := modPkt (fun k => { k with jn := k.jn.filter (fun f => ¬ f.half = h),
                                     hostCopies := k.hostCopies.filter (fun f => ¬ f.half = h),
                                     staged := k.staged.filter (fun f => ¬ f.half = h) }) s
  let s := jn.foldl (fun s f => dropJn (.jn h) dropFenced f s) s
  st.foldl (fun s f => dropWaybill (.jn h) dropFenced f.wb s) s

/-- Every job waiting at a lookaside engine completes with `FENCED` (R450 step 3). -/
def clearEngines (s : Chip) : Chip :=
  let jobs := (s.cipher.engines.map (fun x => x.2.jobs)).flatten
  let s := { s with cipher := { s.cipher with engines := [] } }
  jobs.foldl (fun s j => match j.ring with | some r => finishOrder r .fenced 0 s | none => s) s

/-- A lookaside engine goes out of use; its queued jobs move to the other engines, one each in turn (R379). -/
def engineOutOfUse (e : Nat) (s : Chip) : Chip :=
  let jobs := (sget {} s.cipher.engines e).jobs
  let c := { s.cipher with engines := sdel s.cipher.engines e, engineOut := nadd s.cipher.engineOut e }
  let left := (span 0 4).filter (fun k => !c.engineOut.contains k)
  let s := { s with cipher := c }
  if left = [] then jobs.foldl (fun s j => match j.ring with | some r => finishOrder r .fenced 0 s | none => s) s
  else (jobs.zip (span 0 jobs.length)).foldl (fun s x =>
    let k := nth 0 left (x.2 % left.length)
    { s with cipher := { s.cipher with engines := smod {} s.cipher.engines k (fun g => { g with jobs := g.jobs ++ [x.1] }) } }) s

/-- A relief Line fenced before it serves loses its preparation (R462). -/
def cancelPrepared (n : Nat) (s : Chip) : Chip :=
  { s with ports := { s.ports with prepared := sput none s.ports.prepared n none } }

/-- The relief Line `r` of a District can be prepared for Platform `k`, or stands prepared for it (R457). -/
def reliefFree (s : Chip) (r k : Nat) : Bool :=
  !pairFenced s r && (servedBy s r).isNone && ((preparedFor s r).isNone || preparedFor s r = some k)

/-- A Line pair has been fenced: a relief Line serves no Platform any longer (R462), and the pair of a Platform starts the automatic
relief flow of its District where it can (R457). -/
def reliefFence (n : Nat) (s : Chip) : Chip :=
  if 32 ≤ n then
    let s := { s with ports := { s.ports with reliefDue := sdel s.ports.reliefDue (n - 32) } }
    match servedBy s n with | none => s | some k => setServing k none s
  else if servingLine s n = some n && reliefFree s (32 + n / 8) n && (sfind s.ports.reliefDue (n / 8)).isNone &&
      bit (liveW s (caddr .ks 0x0118)).toNat 0 then
    { s with ports := { s.ports with reliefDue := sins s.ports.reliefDue (n / 8) n } }
  else s

/-- A waiting EPOCH_COMMIT whose scope names Line pair `n` completes with `FENCED` (R233). -/
def cancelCommit (n : Nat) (s : Chip) : Chip :=
  match s.pkt.epoch.waiting with
  | some (ring, lines, _, _, _) =>
    if bit lines n then
      finishOrder ring .fenced 0 (modPkt (fun k => { k with epoch := { k.epoch with waiting := none } }) s)
    else s
  | none => s

/-- A full retraining of a channel ends: the Orders it served complete with `st`, those that waited for the next with `st'` (R349,
R350). -/
def endRetrain (st st' : Status) (c : Nat) (s : Chip) : Chip :=
  let v := chanOf s c
  let s := modChan c (fun v => { v with retraining := false, rings := [], next := [] }) s
  v.next.foldl (fun s r => finishOrder r st' 0 s) (v.rings.foldl (fun s r => finishOrder r st 0 s) s)

/-- Fences one Line of a pair, if it is not yet fenced. -/
def fenceLine (egress : Bool) (n cause : Nat) (s : Chip) : Chip :=
  if isFenced s (lineIsl egress n) then s
  else
    let s := setFence (lineIsl egress n) cause s
    if egress then clearEline dropFenced n s else clearIline dropFenced n s

/-- Fences a Platform: its lanes and ports go down (R138, R447). -/
def fencePlatform (k cause : Nat) (s : Chip) : Chip :=
  if isFenced s (.platform k) then s
  else lanesDown k (portsDown k (setFence (.platform k) cause s))

/-- Fences an island with a cause, and what R448 fences with it: the other Line of a pair. An island already fenced keeps its
cause. -/
def fenceIsland (i : Isl) (cause : Nat) (s : Chip) : Chip :=
  if isFenced s i || unfenceable i then s
  else
    match i with
    | .iline n => rehold s (reliefFence n (cancelCommit n (cancelPrepared n (fenceLine true n 4 (fenceLine false n cause s)))))
    | .eline n => rehold s (reliefFence n (cancelCommit n (cancelPrepared n (fenceLine false n 4 (fenceLine true n cause s)))))
    | .yard y => rehold s (clearYard y (setFence i cause s))
    | .quarry q =>
      let s := relimit q (clearQuarry q (setFence i cause s))
      let s := (span (4 * q) 4).foldl (fun s c => endRetrain .fenced .fenced c s) s
      spillKeyDrain ((quarryOf s q).disabling.foldl (fun s x => finishOrder x.1 .fenced 0 s)
        (modQuarry q (fun v => { v with disabling := [] }) s))
    | .jn h => clearJn h (setFence i cause s)
    | .platform k => fencePlatform k cause s
    | .ci => clearEngines (setFence i cause s)
    | .mg =>
      let s := setFence i cause s
      { s with ports := { s.ports with mgmt := s.ports.mgmt.map (fun x =>
          (x.1, x.2.map (fun g => if g.st = .up then
            { g with st := .fault, los := true, lock := false, downCount := satAdd 0xFFFF g.downCount 1 } else g))) } }
    | _ => setFence i cause s

/-- The four Platforms of a Tile are fenced together (R448). -/
def fenceTile (t cause : Nat) (s : Chip) : Chip :=
  (span 1 3).foldl (fun s j => fencePlatform (4 * t + j) 6 s) (fencePlatform (4 * t) cause s)

/-- Fences channel k of Quarry q (R344): its segments are lost, the frames with cells in them dropped with `SPILL_LOST`, and a
new map waits for the others. The last active channel takes the Quarry with it (R345). -/
def fenceChannel (q k cause : Nat) (s : Chip) : Chip :=
  let v := quarryOf s q
  if v.fenced.contains k then s
  else
    let lost := v.segs.filter (fun g => g.chans.contains k)
    let hit (c : Copy) : Bool := lost.any (fun g => g.holds c)
    let n := ((s.pkt.queues.map (fun x => (x.2.filter hit).length)).sum)
    let act := ndel v.active k
    let s := modQuarry q (fun v => { v with fenced := nadd v.fenced k, active := act, oscDue := ndel v.oscDue k
                                            remap := v.enabled || v.remap }) s
    let s := modChan (4 * q + k) (fun c => { c with trained := false, queue := [] }) (endRetrain .fenced .fenced (4 * q + k) s)
    let s := dropQueued (fun _ => .quarry q) dropSpillLost hit s
    let s := modQuarry q (fun v => { v with segs := v.segs.filter (fun g => !g.chans.contains k) }) s
    let s := spillKeyDrain (bump (.quarry q) 0x0130 n s)
    if act = [] && v.enabled then fenceIsland (.quarry q) cause s else rebuildMap q s

/-- What R448 fences for a fault at S3 of a source. -/
def fenceFor (i : Isl) (loc : Nat) (s : Chip) : Chip :=
  match i with
  | .quarry q =>
    if 0x10 ≤ loc && loc < 0x14 then fenceChannel q (loc - 0x10) 1 s
    else if 0x18 ≤ loc && loc < 0x24 then fenceChannel q (loc % 4) 1 s
    else if loc = 0xF3 then fenceIsland i 5 s
    else fenceIsland i 1 s
  | .ci =>
    if 1 ≤ loc && loc < 5 then engineOutOfUse (loc - 1) s
    else if 5 ≤ loc && loc < 9 then engineOutOfUse (loc - 5) s
    else if loc = 0xF3 then fenceIsland i 5 s
    else fenceIsland i 1 s
  | .platform k =>
    if loc = 0x30 || loc = 0x60 then fenceTile (k / 4) 1 s
    else if loc = 0xF3 then fenceIsland i 5 s
    else fenceIsland i 1 s
  | .sb => if loc < 0x60 then fenceSm (loc % 16) s else s
  | _ =>
    if unfenceable i then s
    else if loc = 0xF0 then fenceIsland i 3 s
    else if loc = 0xF3 then fenceIsland i 5 s
    else fenceIsland i 1 s

/-! Chip hold (R449) -/

/-- Frames inside the device are dropped with `FENCED`, in every Line, Junction half, Yard and Quarry. -/
def dropAllFrames (s : Chip) : Chip :=
  let s := (span 0 36).foldl (fun s n => clearEline dropFenced n (clearIline dropFenced n s)) s
  let s := clearJn 1 (clearJn 0 s)
  let s := dropQueued (fun c => if c.spilledNow then .quarry c.yard else .yard c.yard) dropFenced (fun _ => true) s
  let s := spillKeyDrain (modPkt (fun k => { k with
    discards := []
    shares := []
    quarries := k.quarries.map (fun x => (x.1, { x.2 with segs := [], noSlot := [] }))
    chans := k.chans.map (fun x => (x.1, { x.2 with queue := [] })) }) s)
  (span 0 8).foldl (fun s y => if yardOf s y = {} then s else modYard y (fun v =>
    { v with held := [], hused := [], sharedUsed := 0, hpoolUsed := 0, free := 131072 - v.retired.length }) s) s

/-- A fault at S4, of severity `own` before escalation, starts chip hold; a later one joins it (R449). -/
def startHold (src own : Nat) (s : Chip) : Chip :=
  if chipHold s then
    { s with faults := { s.faults with
      hold := if s.faults.hold.contains (src, own) then s.faults.hold else s.faults.hold ++ [(src, own)] } }
  else
    dropAllFrames { s with faults := { s.faults with hold := [(src, own)], holdSrc := src } }

/-! Recording (R437 to R439) -/

/-- SUB of the unit that a fault at S3 of an island fences: a channel, an engine, or the whole island (R448). -/
def faultSub (i : Isl) (loc : Nat) : Nat :=
  match i with
  | .quarry _ => if (0x10 ≤ loc && loc < 0x14) || (0x18 ≤ loc && loc < 0x24) then loc % 4 else 0xFF
  | .ci => if 1 ≤ loc && loc < 9 then (loc - 1) % 4 else 0xFF
  | _ => 0xFF

/-- The record of a Cabin with one more fault, of severity `own` before escalation, that names unit `sub`. -/
def CabSt.record (c : CabSt) (sub loc cls own sev ts : Nat) : CabSt :=
  let c := if c.valid then { c with overflow := true, count := satAdd 0xFFFF c.count 1 }
    else { c with valid := true, sev := sev, cls := cls, loc := loc, ts := ts }
  { c with maxSev := max c.maxSev sev, raised := nadd c.raised cls, unacked := nadd c.unacked cls,
           causes := if c.causes.contains ⟨loc, sev, own⟩ then c.causes else c.causes ++ [⟨loc, sev, own⟩],
           again := c.again || (c.repair && decide (3 ≤ sev) && (sub = 0xFF || sub = c.repairSub)) }

/-- The Keystone's record of a fault (R437). -/
def ksRecord (src cls sev ts : Nat) (f : FaultSt) : FaultSt :=
  let f := if f.firstValid then { f with firstOverflow := true, count := satAdd 0xFFFF f.count 1 }
    else { f with firstValid := true, firstAcked := false, firstSev := sev, firstCls := cls, firstSrc := src, firstTs := ts }
  { f with maxSev := max f.maxSev sev,
           classes := smod {} f.classes cls (fun k =>
             { k with unack := true, maxSev := max k.maxSev sev, lastSev := sev, lastSrc := src }) }

/-- Severity after escalation (R439). -/
def escalated (s : Chip) (cls sev : Nat) : Nat :=
  if (sget {} s.faults.classes cls).unack && bit (liveW s (caddr .ks 0x0114)).toNat cls then min 4 (sev + 1) else sev

/-- Raises a fault: it is escalated, recorded in its Cabin (unless the Cabin does not take it) and in the Keystone, signalled,
and met with the reaction of its severity, whose effects on the accounts follow at once. In reset, and until the boot sequence comes to
its step 3 (R82), only the always-on Timetable Cabin records. -/
def raiseIn (cabin : Bool) (i : Isl) (loc cls sev : Nat) (s : Chip) : Chip :=
  if inReset s || s.boot.pending then
    if i = .tt then modCab .tt (fun c => c.record 0xFF loc cls sev sev (nowTs s)) s else s
  else
    let own := sev
    let sev := escalated s cls own
    let ts := nowTs s
    let s := if cabin then modCab i (fun c => c.record (faultSub i loc) loc cls own sev ts) s else s
    let s := { s with faults := ksRecord (srcId i loc) cls sev ts s.faults }
    let s := bumpField .ks (0x0200 + 8 * cls) 0 16 1 s
    let ctl := (liveW s (caddr .ks 0x0110)).toNat
    let s := if bit ctl 31 && decide (bits ctl 8 3 ≤ sev) then msix (bits ctl 16 8) s else s
    let s := if sev = 3 then account (fenceFor i loc s) else if 4 ≤ sev then account (startHold (srcId i loc) own s) else s
    errUpdate s

/-- Raises a fault recorded in its Cabin. -/
def raise (i : Isl) (loc cls sev : Nat) (s : Chip) : Chip := raiseIn true i loc cls sev s

/-- A Yard whose retired cells have passed 1,024 raises its S3 fault and is fenced (R287). -/
def retireLimit (s : Chip) : Chip :=
  (span 0 8).foldl (fun s y =>
    if 1024 < (yardOf s y).retired.length && !isFenced s (.yard y) then raise (.yard y) 0x05 clsBuffer 3 s else s) s

/-- Brings everything that follows from the packet path's accounts up to date: retirement limits and what `account` covers. -/
def settle (s : Chip) : Chip := account (retireLimit s)

/-! Causes (R444) -/

/-- The cause of a fault's own kind is present. -/
def causeOwn (s : Chip) (i : Isl) (loc : Nat) : Bool :=
  match i with
  | .platform k =>
    let p := 16 * k + loc % 16
    if loc < 0x10 then (match portOfLane s p with | none => false | some p => !portUp s p)
    else if loc < 0x20 then (portOf s p).isSome && !portUp s p
    else if loc < 0x30 then (match portOf s p with | none => false | some v => v.standbyLost)
    else if loc = 0x30 then s.power.tileLost.contains (k / 4)
    else if loc = 0x70 then !(tileCopy s (k / 4)).locked
    else false
  | .eline n => decide (loc = 0x90) && !(egressCopy s n).locked
  | .tt => if loc = 0x01 then s.time.refLost else if loc = 0x02 then s.time.holdover else false
  | .ks =>
    if 0x10 ≤ loc && loc < 0x1A then s.power.railsOut.contains (loc - 0x10)
    else if loc = 0x1A then s.power.fuseHigh
    else if loc = 0x20 then decide (8 * (fieldOf s .ks 0x0400 8 8 : Int) ≤ s.power.temp)
    else if loc = 0x21 then decide (8 * (fieldOf s .ks 0x0400 16 8 : Int) ≤ s.power.temp)
    else if loc = 0x22 then s.power.tripped
    else if loc = 0x30 then s.power.sysLost
    else false
  | .quarry q => decide (loc = 0x29) && (span 0 4).any (fun k => (chanOf s (4 * q + k)).mr4High ≠ [])
  | .ci => decide (5 ≤ loc) && decide (loc < 9) && s.cipher.engineOut.contains (loc - 5)
  | _ => false

/-- The unit a fault at S3 fenced is still fenced (R444, R448). -/
def causeFence (s : Chip) (i : Isl) (loc : Nat) : Bool :=
  match i with
  | .quarry q =>
    if (0x10 ≤ loc && loc < 0x14) || (0x18 ≤ loc && loc < 0x24) then (quarryOf s q).fenced.contains (loc % 4)
    else isFenced s i
  | .ci =>
    if 1 ≤ loc && loc < 5 then s.cipher.engineOut.contains (loc - 1)
    else if 5 ≤ loc && loc < 9 then s.cipher.engineOut.contains (loc - 5)
    else isFenced s i
  | .sb => decide (loc < 0x60) && (smOf s (loc % 16)).fenced
  | _ => isFenced s i

/-- The cause of one recorded fault is present: that of its own kind, which is Fence for one at S3 before escalation, and that of its
severity after escalation. -/
def causePresent1 (s : Chip) (i : Isl) (c : CauseRec) : Bool :=
  causeOwn s i c.loc || ((c.sev = 3 || c.own = 3) && causeFence s i c.loc) || (4 ≤ c.sev && chipHold s)

/-- The cause of some fault recorded in the Cabin since its last clear is present. -/
def causePresent (s : Chip) (i : Isl) : Bool := (cabOf s i).causes.any (causePresent1 s i)

end Sys2Proof.Machine
end

