-- ==== Sys2Proof/Machine/Domains.lean ====
section
/-!
DEFINITION. Island resets, power domains and resets of system scope as shared operations (R46, R49 to R52, R60, R63, R68,
R79, R113). The commands of file 02 stand in `Machine/Power.lean`, those of file 03 in `Machine/Start.lean`.
-/

namespace Sys2Proof.Machine

/-- The device runs nothing outside the always-on domain: it is held in reset, or a thermal trip has switched every domain
off (R45, R60, R63). -/
def dead (s : Chip) : Bool := inReset s || s.power.tripped

/-- Nothing that happens now reaches the Keystone: the device is dead, or the boot sequence has not come to its step 3 (R82). What
raises a fault then is seen when its command comes again (DESIGN CHOICE, log 150). -/
def unrecorded (s : Chip) : Bool := dead s || s.boot.pending

/-- What a pin shows (R56): driven low, or high impedance. -/
inductive PinLevel where
  | low | highZ
deriving DecidableEq, Repr

/-- VDD_IO18 or VDD_AON is absent, so the open-drain outputs of R56 are high impedance. -/
def pinsOff (s : Chip) : Bool := s.power.railsLost.contains 9 || aonLost s

/-- ERR_N (R56, R82, R446). -/
def errPin (s : Chip) : PinLevel := if !pinsOff s && s.faults.errLow then .low else .highZ

/-- THERMTRIP_N (R56, R60). -/
def thermtripPin (s : Chip) : PinLevel := if !pinsOff s && s.power.tripped then .low else .highZ

/-- Tiles that a Platform pair's domain holds the Causeway end of (R48). -/
def domainTile (n : Nat) : Option Nat := if 52 ≤ n && n < 68 && n % 2 = 0 then some ((n - 52) / 2) else none

/-- The SecYs and SAs of a Platform's ports are removed (R454). -/
def clearSecys (k : Nat) (s : Chip) : Chip :=
  { s with cipher := { s.cipher with secy := s.cipher.secy.filter (fun x => ¬ platformOf x.1 = k) } }

/-- The island a monitor belongs to (R419), `none` for the always-on domain. -/
def monOwner (s : Chip) (key : Nat) : Option Isl :=
  let i := key % 65536
  match key / 65536 with
  | 0 => (queueLine s i).map .eline
  | 1 => (servingLine s (platformOf i)).map .eline
  | 2 => some (.yard (queueYard s i))
  | 3 => some (.platform (platformOf i))
  | _ => none

/-- The monitors of an island return to their reset values with it. -/
def clearMons (i : Isl) (s : Chip) : Chip :=
  { s with tm := { s.tm with mons := s.tm.mons.filter (fun x => monOwner s x.1 ≠ some i) } }

/-- What a reset leaves of a fenced Line, which is not live after it (R210): the copies of its banks, which the Signal Box keeps
(R454). -/
def LineSt.copies (l : LineSt) : LineSt :=
  { curProg := l.curProg, drnProg := l.drnProg, stgProg := l.stgProg, curGraph := l.curGraph,
    drnGraph := l.drnGraph, stgGraph := l.stgGraph }

/-- A Line after a reset of its island: not live, with no program (R50, R210). The Signal Box keeps the copies of its banks, in the banks of a
fenced Line, which its repair loads, and else beside it (R454). -/
def resetLine (egress : Bool) (n : Nat) (s : Chip) : Chip :=
  let c := (lineOf s egress n).copies
  let keep (m : Sparse LineSt) : Sparse LineSt := if c = {} then m else sins m n c
  if isFenced s (lineIsl egress n) then modLine egress n (fun l => l.copies) s
  else modLine egress n (fun _ => {}) (modPkt (fun k =>
    if egress then { k with eBanks := keep k.eBanks } else { k with iBanks := keep k.iBanks }) s)

/-- Resets one island, but for the fence words and the record of its Cabin (R113, R440, R461). -/
def resetIsland (i : Isl) (s : Chip) : Chip :=
  let s := clearMons i (resetWords i s)
  match i with
  | .platform k =>
    let s := clearSecys k (lanesDown k s)
    (span (16 * k) 16).foldl (fun s l => modLane l (fun _ => {}) s) s
  | .iline n =>
    modPkt (fun k => { k with sidingWait := sdel k.sidingWait n }) (resetLine false n s)
  | .eline n =>
    let s := modPkt (fun k => { k with sidingSlots := sdel k.sidingSlots n })
      (resetLine true n s)
    { s with time := { s.time with egress := sdel s.time.egress n } }
  | .yard y => modPkt (fun k => { k with yards := sput {} k.yards y {} }) s
  | .quarry q =>
    let s := (span (4 * q) 4).foldl (fun s c => endRetrain .fenced .fenced c s) s
    let s := modPkt (fun k => { k with quarries := sput {} k.quarries q {} }) s
    (span (4 * q) 4).foldl (fun s c => modChan c (fun _ => {}) s) s
  | .ci => { s with cipher := { s.cipher with engines := [], engineOut := [], parity := s.cipher.parity } }
  | .tm => { s with tm := { mons := s.tm.mons } }
  | _ => s

/-! Causeway training (R17, R18, R79) -/

/-- The copy of the time in a Tile is lost with the power of its domain (R390). -/
def dropCopyOf (t : Nat) (s : Chip) : Chip := { s with time := { s.time with tile := sdel s.time.tile t } }

/-- The copy of a Tile unlocks: a locked one raises its fault (R390, R406). -/
def unlockTile (t : Nat) (s : Chip) : Chip :=
  if (tileCopy s t).locked then raise (.platform (4 * t)) 0x70 clsTime 2 (dropCopyOf t s) else dropCopyOf t s

/-- The Causeway link of a Tile trains: its latency stands in the four Platform Cabins. The loop of the Tile's copy of the time
is measured anew (R390). -/
def causewayUp (t : Nat) (w : Word) (s : Chip) : Chip :=
  unlockTile t { s with ports := { s.ports with causeway := sput none s.ports.causeway t (some w) } }

/-- The link of a Tile is untrained: its Platforms read latency 0 (R17). -/
def causewayOff (t : Nat) (s : Chip) : Chip :=
  { s with ports := { s.ports with causeway := sput none s.ports.causeway t none } }

/-- The 64 lanes of a Tile and their ports go down (R18, R55, R138). -/
def tileDown (t : Nat) (s : Chip) : Chip := (span (4 * t) 4).foldl (fun s k => lanesDown k (portsDown k s)) s

/-- A link that failed three attempts, or lost its framing, takes down its Tile, whatever severity its fault escalates to (R18, R79). -/
def causewayFail (t : Nat) (s : Chip) : Chip :=
  raise (.platform (4 * t)) 0x60 clsCauseway 3 (tileDown t (causewayOff t s))

/-- Trains the link of a Tile with what training finds (R79). -/
def trainCauseway (t : Nat) (env : List (Nat × Word)) (s : Chip) : Chip :=
  match sfind env t with | some w => causewayUp t w s | none => causewayFail t (unlockTile t s)

/-! Domains (R49 to R52) -/

/-- Link keys of a Tile are lost with the power of its domain (R461). -/
def loseLinkKeys (t : Nat) (s : Chip) : Chip :=
  { s with cipher := { s.cipher with link := s.cipher.link.filter (fun x => ¬ x.1 / 1024 = t) } }

/-- Switches a domain off. Its islands' fields will start at their reset values; the fence words stay (R50, R52). What the
shadow holds of fenced islands stays for their repair. A test of one of its islands is cut short (R489). -/
def domainOff (n : Nat) (s : Chip) : Chip :=
  let s := modDomain n (fun d => { d with on := false }) s
  let codes := (islandsOf n).map Isl.code
  let open' := ((islandsOf n).filter (fun i => !isFenced s i)).map Isl.code
  let s := { s with
    shadow := s.shadow.filter (fun x => !open'.contains (x.1 / 2 ^ 32))
    bist := { s.bist with runs := s.bist.runs.map (fun r =>
      if codes.contains r.island && !bit r.cut 3 then { r with cut := r.cut + 8 } else r) } }
  let s := (islandsOf n).foldl (fun s i => modCab i (fun c =>
    { fenced := c.fenced, gen := c.gen, cause := c.cause }) (resetIsland i s)) s
  let s := match domainTile n with | none => s | some t => loseLinkKeys t (dropCopyOf t (causewayOff t s))
  errUpdate (classUpdate s)

/-- Switches a domain on, its islands at their reset values, and trains what it holds (R50, R79). -/
def domainOn (n : Nat) (env : TrainEnv) (s : Chip) : Chip :=
  if (domainSt s n).on then s
  else
    let s := modDomain n (fun d => { d with on := true, ups := satAdd 0xFFFF d.ups 1 }) s
    let s := { s with power := { s.power with wanted := s.power.wanted.filter (fun x => x ≠ n) } }
    let s := (islandsOf n).foldl (fun s i => restartClock i s) s
    match domainTile n with
    | none => s
    | some t =>
      let s := trainCauseway t env.causeway s
      if s.power.tileLost.contains t then raise (.platform (4 * t)) 0x30 clsLane 3 s else s

/-- Domains to switch on, in order, so that domain `n` can come on (R50). -/
def domainChain (s : Chip) (n : Nat) : List Nat :=
  ((if 52 ≤ n && n < 68 && n % 2 = 1 then [n - 1, n] else [n]).filter (fun k => !(domainSt s k).on))

/-- An Order needs domains that are off: they will be powered up in this order (R50). -/
def wantDomains (ns : List Nat) (s : Chip) : Chip :=
  let add (w : List Nat) (n : Nat) : List Nat := if w.contains n then w else w ++ [n]
  { s with power := { s.power with wanted := ns.foldl add s.power.wanted } }

/-- The off domains that unfenced islands of an Order lie in (R50, R111). -/
def offDomains (s : Chip) (is : List Isl) : List Nat :=
  ((is.filter (fun i => !isFenced s i && !isOn s i)).map (fun i => match domainOf i with
    | none => []
    | some n => domainChain s n)).flatten.eraseDups

/-! Resets of system scope (R63, R68) -/

/-- The state after a reset of system scope (R68): everything outside the always-on domain is as after power-on; the
Timetable, its words and its Cabin, the reset causes, the pins and the sensors with their monitors are kept (R46, R63, R67,
R419). A reference that is still lost announces its loss again. -/
def systemReset (s : Chip) : Chip :=
  let tt (m : Sparse Word) : Sparse Word := m.filter (fun x => x.1 / 2 ^ 32 = Isl.tt.code)
  { out := s.out, hostMem := s.hostMem, free := s.free, lastWrite := s.lastWrite,
    power := { s.power with domains := if s.power.tripped then s.power.domains else [], wanted := [], railsOut := [],
                            fuseHigh := false, sysLost := false, tileLost := [], chipReset := false, linkUp := false,
                            warned := false, level := 0, rstCount := satAdd 0xFF s.power.rstCount 1 },
    live := tt s.live, staged := tt s.staged,
    faults := { cabs := s.faults.cabs.filter (fun x => x.1 = Isl.tt.code) },
    pmc := { clocks := s.pmc.clocks.filter (fun x => x.1 = 1), starts := s.pmc.starts.filter (fun x => x.1 = Isl.tt.code),
             last := s.pmc.last.filter (fun x => x.1 / 2 ^ 32 = Isl.tt.code) },
    time := { s.time with tile := [], egress := [] },
    ports := { recclkLow := recclkFrom s (fun _ => true) },
    tm := { mons := s.tm.mons.filter (fun x => 4 * 65536 ≤ x.1) } }

/-- Records a reset source in `PC_RST_CAUSE` (R67). -/
def rstCause (k : Nat) (s : Chip) : Chip :=
  { s with power := { s.power with rstCause := if bit s.power.rstCause k then s.power.rstCause else s.power.rstCause + 2 ^ k } }

/-- The last source of system scope is released: the boot sequence starts from its first step (R64, R69). -/
def bootRelease (s : Chip) : Chip :=
  if inReset s then s else { s with boot := { pending := true } }

/-- A thermal trip (R60), its fault raised: `THERMTRIP_N` is latched and all 72 switched domains go off. The fault has started
chip hold, and the record stays as it was. -/
def tripOff (s : Chip) : Chip :=
  let t := systemReset s
  { t with power := { t.power with tripped := true, rstCount := s.power.rstCount, linkUp := false,
                                   domains := (span 0 72).map (fun n => (n, { (domainSt s n) with on := false })) },
           faults := s.faults }

/-! Temperature (R59) -/

/-- Throttle level for a temperature in 1/8 °C, given the level in force: levels are entered at their thresholds and left 3 °C
below. Where a write moves the thresholds while a level is in force, the levels follow the new ones (DESIGN CHOICE, log 144). -/
def throttleLevel (th : Int) (t : Int) (cur : Nat) : Nat :=
  (span 1 4).foldl (fun l (k : Nat) =>
    let at' := th + 16 * ((k : Int) - 1)
    if at' ≤ t then k else if k ≤ cur && at' - 24 < t then k else l) 0

/-- Applies the thresholds of `KS_TJ_CTRL` to T: warning, throttle levels and trip (R59, R60), faults of one sample in the order
of R438. -/
def thermal (s : Chip) : Chip :=
  let t := s.power.temp
  let warn := 8 * (fieldOf s .ks 0x0400 8 8 : Int)
  let th := 8 * (fieldOf s .ks 0x0400 16 8 : Int)
  let level := throttleLevel th t s.power.level
  if unrecorded s then (if decide (960 ≤ t) && !s.power.tripped then tripOff s else s) else
  let warned := decide (warn ≤ t) || (s.power.warned && decide (warn - 24 < t))
  let s' := { s with power := { s.power with level := level, warned := warned } }
  let trip := decide (960 ≤ t) && !s.power.tripped
  let s' := if trip then raise .ks 0x22 clsPower 4 s' else s'
  let s' := if 0 < level && s.power.level = 0 then raise .ks 0x21 clsPower 2 s' else s'
  let s' := if warned && !s.power.warned then raise .ks 0x20 clsPower 0 s' else s'
  if trip then tripOff s' else s'

end Sys2Proof.Machine
end

