-- ==== Sys2Proof/Machine/BistBase.lean ====
section
/-!
DEFINITION. Targets and result records of built-in self-test (R484, R489, R490), which quick BIST and `BIST_RUN` share.
-/

namespace Sys2Proof.Machine

/-- The island that stands for a target: a Line pair may be named by either Line (R484). -/
def bistIsland : Isl → Isl
  | .eline n => .iline n
  | i => i

/-- The islands a unit's name stands for: both Lines of a pair. -/
def bistGroup : Isl → List Isl
  | .iline n => [.iline n, .eline n]
  | .eline n => [.iline n, .eline n]
  | i => [i]

/-- A test of one of some islands runs (R491, R492). -/
def bistRuns (s : Chip) (is : List Isl) : Bool := s.bist.runs.any (fun r => is.any (fun i => (bistIsland i).code = r.island))

/-- The key of a target's kept result: SUB 0xFF for a whole island, else the channel. -/
def bistKey (i : Isl) (sub : Nat) : Nat := 8 * (bistIsland i).code + (if sub = 0xFF then 0 else sub + 1)

/-- The 48 bytes of a result record (R490). -/
def bistRecord (type sub : Nat) (st : Status) (sig exp dur applied expected firstFail cut time : Nat) : List Byte :=
  leBytes 1 type ++ leBytes 1 sub ++ leBytes 2 st.code ++ leBytes 4 sig ++ leBytes 4 exp ++ leBytes 4 dur ++
  leBytes 8 (applied % 2 ^ 48) ++ leBytes 8 (expected % 2 ^ 48) ++ leBytes 4 firstFail ++ leBytes 4 cut ++ leBytes 8 time

/-- Keeps the last result of a target (R489). -/
def bistKeep (i : Isl) (sub : Nat) (r : List Byte) (s : Chip) : Chip :=
  { s with bist := { s.bist with results := sput [] s.bist.results (bistKey i sub) r } }

/-- The signature a test of a target expects (R488): 0 for lanes; the others are not stated. -/
def bistExpected (i : Isl) (type : Nat) : Nat :=
  if type = 3 then 0 else (Config.bistSignature (bistIsland i).code type).toNat

/-- Fences a target for its test (R486): a Tile's four Platforms for TYPE 0x04, one channel for TYPE 0x05, else the island. What
is fenced already keeps its cause. -/
def bistFence (i : Isl) (sub type : Nat) (s : Chip) : Chip :=
  match i with
  | .platform k => if type = 4 then fenceTile (k / 4) 3 s else fenceIsland i 3 s
  | .quarry q => if type = 5 then fenceChannel q sub 3 s else fenceIsland i 3 s
  | _ => fenceIsland i 3 s

end Sys2Proof.Machine
end

