-- ==== Sys2Proof/Machine/Buckets.lean ====
section
/-!
DEFINITION. The shaper buckets of a queue (R299, R301): contents in 1/8000 byte, so that a rate in Mbit/s is the filling per ns.
-/

namespace Sys2Proof.Machine

/-- RATE in Mbit/s and BURST in 1/8000 byte of a scheduling word (R301). -/
def bucketRate (w : Nat) : Nat := bits w 10 22
def bucketDepth (w : Nat) : Nat := bits w 0 10 * 1024 * 8000

/-- A bucket under its word after `ns` nanoseconds: none with RATE 0, else filled at RATE and held to BURST. What a bucket holds when
it comes to exist is not stated: a free value (log 30). -/
def fillBucket (w ns free : Nat) (b : Option Int) : Option Int :=
  if bucketRate w = 0 then none
  else match b with
    | none => some ((free % (bucketDepth w + 1) : Nat) : Int)
    | some v => some (min (v + bucketRate w * ns) (bucketDepth w))

/-- The scheduling words of a queue at the Line that serves it (R301, R34): CFG, MIN and MAX. -/
def queueWord (s : Chip) (q o : Nat) : Nat :=
  match queueLine s q with
  | none => 0
  | some n => (liveW s (schedWordAt n q o)).toNat

/-- Brings the buckets of a queue up to the present run count and to its words. -/
def fillBuckets (q : Nat) (s : Chip) : Chip :=
  let lo := queueWord s q 4
  let hi := queueWord s q 8
  let v := queueSt s q
  let fresh := (bucketRate lo ≠ 0 && v.minBucket.isNone) || (bucketRate hi ≠ 0 && v.maxBucket.isNone)
  if bucketRate lo = 0 && bucketRate hi = 0 && v.minBucket.isNone && v.maxBucket.isNone then s
  else
    let ns := elapsed s v.filled
    let x := (freeNext s).toNat
    let s := if fresh then freeTake s else s
    modQueueSt q (fun v => { v with
      minBucket := fillBucket lo ns (x % 2 ^ 32) v.minBucket
      maxBucket := fillBucket hi ns (x / 2 ^ 32) v.maxBucket
      filled := runNs s }) s

/-- Charges a queue for a copy of `len` bytes that has been sent (R298). -/
def chargeQueue (q len : Nat) (s : Chip) : Chip :=
  modQueueSt q (fun v => { v with
    deficit := v.deficit - (len + 24)
    minBucket := v.minBucket.map (· - (len + 24) * 8000)
    maxBucket := v.maxBucket.map (· - (len + 24) * 8000) }) (fillBuckets q s)

/-- The queue a scheduling word of egress Line `n` belongs to (R301, R34). -/
def schedQueue (s : Chip) (n off : Nat) : Option Nat :=
  if 0x4000 ≤ off && off < 0x400C then some (10240 + n)
  else if 0x2000 ≤ off && off < 0x4000 then
    (servedBy s n).map (fun k => queueId (16 * k + (off - 0x2000) / 0x200) ((off - 0x2000) % 0x200 / 0x10))
  else none

/-- The same before or after a write of one of its words: the bucket has filled under the old word, and the new one cuts it
(R302). -/
def fillBefore (i : Isl) (off : Nat) (s : Chip) : Chip :=
  match i with
  | .eline n => match schedQueue s n off with | none => s | some q => fillBuckets q s
  | _ => s

end Sys2Proof.Machine
end

