-- ==== Sys2Proof/Machine/Fields.lean ====
section
/-!
DEFINITION. Access to one word by its control address (R8, R33, R117, R118): reads, writes under their bounds, the words whose
write acts at once, and commits (R113 to R115, R119).
-/

namespace Sys2Proof.Machine

/-! Bounds of written values -/

/-- The nearer limit of a range. -/
def limit (lo hi v : Nat) : Nat := if v < lo then lo else if hi < v then hi else v

/-- Replaces the field [lo + w - 1 : lo] of a word. -/
def putField (x lo w v : Nat) : Nat := x - bits x lo w * 2 ^ lo + v % 2 ^ w * 2 ^ lo

/-- A scheduling word of R301: `o` is its offset in the queue's block, `siding` says it is a Siding queue's. -/
def clampSched (siding : Bool) (o n : Nat) : Nat :=
  if o = 0 then
    let pri := bits n 24 4
    let n := if (siding && pri ≠ 0xF) || (8 ≤ pri && pri < 0xF) then putField n 24 4 0xF else n
    if bits n 8 8 = 0 then putField n 8 8 1 else n
  else
    let n := if 3200000 < bits n 10 22 then putField n 10 22 3200000 else n
    if bits n 10 22 ≠ 0 && bits n 0 10 = 0 then putField n 0 10 1 else n

/-- A word of a Yard (R290): `r` is the requester of a quota word, if it is one. -/
def clampYard (r : Option Nat) (n : Nat) : Nat :=
  let n := if 131072 < bits n 0 18 then putField n 0 18 131072 else n
  match r with
  | some r => if 4096 ≤ r && bit n 31 then n - 2 ^ 31 else n
  | none => n

/-- Cells in a queue's word of a Quarry, rounded up to a multiple of 32 (R346). The largest multiple the field holds stands for
a value above it (DESIGN CHOICE, log 20). -/
def clampSpill (n : Nat) : Nat := min ((n + 31) / 32 * 32) (2 ^ 28 - 32)

/-- `KS_TJ_CTRL` (R59). -/
def clampTj (n : Nat) : Nat :=
  let th := limit 95 108 (bits n 16 8)
  let n := putField n 16 8 th
  if th < bits n 8 8 then putField n 8 8 th else n

/-- `KS_ERR_CTRL` (R442). -/
def clampErr (n : Nat) : Nat :=
  let n := if 4 < bits n 8 3 then putField n 8 3 4 else n
  if 4 < bits n 0 3 then putField n 0 3 4 else n

/-- `TT_RECCLK_CTRL` (R146): the smallest divider that gives at most 161.1 MHz at the symbol rate of the source lane's port. A
lane without a port has no symbol rate (log 21). -/
def clampRecclk (s : Chip) (n : Nat) : Nat :=
  match portOfLane s (n % 512) with
  | none => n
  | some p => match portOf s p with
    | none => n
    | some v => match modeSpec v.inForce with
      | none => n
      | some m =>
        let least := (m.kbd + 161099) / 161100
        if bits n 20 11 < least then putField n 20 11 least else n

/-- The value a write applies after the bounds of the word's description (R15, R118). -/
def clampWrite (s : Chip) (i : Isl) (off n : Nat) : Nat :=
  match i with
  | .platform _ =>
    if 0x4000 ≤ off && off < 0x4400 && off % 0x40 = 0 then putField n 16 8 (limit 30 150 (bits n 16 8)) else n
  | .eline _ =>
    if 0x2000 ≤ off && off < 0x4000 then clampSched false (off % 0x10) n
    else if 0x4000 ≤ off && off < 0x400C then clampSched true (off % 0x10) n
    else n
  | .yard _ =>
    if off = 0x0100 || off = 0x0104 then clampYard none n
    else if 0x10000 ≤ off && off < 0x10000 + 16 * 4100 then
      clampYard (if off % 16 = 4 then some ((off - 0x10000) / 16) else none) n
    else n
  | .quarry _ =>
    if off = 0x0100 then putField n 8 4 (limit 8 14 (bits n 8 4))
    else if off = 0x0108 then
      let n := if bits n 8 12 < 20 then putField n 8 12 20 else n
      if bits n 0 8 = 0 then putField n 0 8 1 else n
    else if 0x40000 ≤ off then clampSpill n
    else n
  | .tt =>
    if off = 0x0200 || off = 0x0210 then putField n 20 10 (limit 1 1000 (bits n 20 10))
    else if off = 0x0204 || off = 0x0214 then min n 999999999
    else if off = 0x0800 || off = 0x0804 then clampRecclk s n
    else n
  | .ks => if off = 0x0400 then clampTj n else if off = 0x0110 then clampErr n else n
  | _ => n

/-! Effects of a write -/

/-- TT_HOLDOVER is set by the watchdog: HOLDOVER_ENTERED and its fault follow (R388, R406). -/
def wdogEnter (s : Chip) : Chip :=
  if s.time.holdover then s
  else raise .tt 0x02 clsTime 0 (ttEvent 2 (ppsHold { s with time := { s.time with holdover := true } }))

/-- TT_HOLD_WDOG in ms. -/
def holdWdog (s : Chip) : Nat := fieldOf s .tt 0x0104 0 16

/-- The time since the watchdog's starting point has passed TT_HOLD_WDOG on the run count (R388). -/
def wdogDue (s : Chip) : Bool :=
  holdWdog s ≠ 0 && decide (holdWdog s * 1000000 * 65536 ≤ (s.time.run + 2 ^ 64 - s.time.wdogStart) % 2 ^ 64)

/-- A tick of the Timetable, with the holdover watchdog (R388). -/
def clockTick (s : Chip) : Chip :=
  let s := idleTick s
  if !aonLost s && wdogDue s then wdogEnter s else s

/-- What a write of a word makes happen at once: thresholds of R59, `ERR_N` (R446), the watchdog (R388), a seed (R493), a queue's
buckets (R302). -/
def afterWrite (i : Isl) (off : Nat) (s : Chip) : Chip :=
  match i with
  | .ks => if off = 0x0400 then thermal s else if off = 0x0110 then errUpdate s else s
  | .tt => if off = 0x0104 && wdogDue s then wdogEnter s else s
  | .iline n => if off = 0x0908 || off = 0x090C then modLine false n (fun l => { l with seedDirty := true }) s else s
  | .eline n => if off = 0x0908 || off = 0x090C then modLine true n (fun l => { l with seedDirty := true }) s else fillBefore i off s
  | _ => s

/-- Clears the W1C bits written with 1 (R8): `TT_EVENT`, and NEW of a PPS input, with which OVERRUN goes (R404). -/
def clearW1c (i : Isl) (off ones : Nat) (s : Chip) : Chip :=
  match i with
  | .tt =>
    if off = 0x0300 then
      { s with time := { s.time with events := maskOf ((span 0 4).filter (fun k => bit s.time.events k && !bit ones k)) } }
    else if bit ones 31 then
      { s with time := { s.time with pps := smod {} s.time.pps ((off - 0x0120) / 16) (fun p =>
          { p with new := false, overrun := false }) } }
    else s
  | _ => s

/-! Domain modes (R51, R52) -/

/-- Writes SB_PD_MODE of domain `n`, the domains it needs being on. Domain 52 + 2t in FORCE_OFF that domain 53 + 2t keeps on goes off at
the next write of FORCE_OFF after that one is off, not by itself (DESIGN CHOICE, log 152). -/
def writeMode (n mode : Nat) (s : Chip) : Status × Chip :=
  if mode = 3 then (.badOperand, s)
  else if mode = 0 then (.ok, modDomain n (fun d => { d with mode := .auto }) s)
  else if mode = 1 then (.ok, modDomain n (fun d => { d with mode := .forceOn }) s)
  else if 68 ≤ n then (.governed, modDomain n (fun d => { d with mode := .auto }) s)
  else if (islandsOf n).any (fun i => !isFenced s i) then (.busy, s)
  else if (domainTile n).isSome && (domainSt s (n + 1)).on then (.busy, s)
  else (.ok, modDomain n (fun d => { d with mode := .forceOff }) (domainOff n s))

/-- The domains a write of a word needs on before it can be carried out (R50, R52): those of its island, and those that
FORCE_ON switches on. -/
def writeDomains (s : Chip) (ca : Nat) (value mask : Word) : List Nat :=
  match islOf (ca / 2 ^ 32) with
  | none => []
  | some i =>
    let off := ca % 2 ^ 32
    if i = .sb && inBlock off 0x2000 72 4 0 then
      let n := (off - 0x2000) / 4
      let mode := bits (mergeW (BitVec.ofNat 32 ((domainSt s n).mode.code * 2 ^ 29)) value mask).toNat 29 2
      if bits mask.toNat 29 2 ≠ 0 && mode = 1 then domainChain s n else []
    else offDomains s [i]

/-! Performance counters of levels (R424 to R426) -/

/-- The port whose lowest lane has index `j` in Platform `k`. -/
def portAtLane (s : Chip) (k j : Nat) : Option Port := portOf s (16 * k + j)

/-- An event that is a level is true now: `some` where the State shows it, `none` where nothing of it is in the State (log 118). An event that
happens at a command is none of these. -/
def eventLevel (s : Chip) (i : Isl) (event sub : Nat) : Option Bool :=
  match event, i with
  | 0x01, _ => some true
  | 0x03, _ => none
  | 0x14, .iline n => some (decide (4096 ≤ (lineOf s false n).learnQ.length))
  | 0x15, _ => none
  | 0x16, _ =>
    if isFenced s (.jn 0) || isFenced s (.jn 1) then some true
    else if fieldOf s .ks 0x0400 0 1 = 1 && s.power.level ≠ 0 then none else some false
  | 0x23, .platform k => some (match portAtLane s k sub with | none => false | some v => v.paused.any (fun x => 0 < remaining s x.2))
  | 0x25, .platform k => fecLevel s (16 * k + sub)
  | 0x26, .platform k => fecLevel s (16 * k + sub)
  | 0x34, .yard y => some ((quarryOf s y).segs.any (fun g => g.stage = 3))
  | 0x41, .jn h => some (decide (49152 ≤ ((s.pkt.staged.filter (fun g => g.half = h)).map (fun g => g.bytes.length)).sum))
  | 0x53, .quarry q => some (quarryOf s q).selfRefresh
  | 0x61, _ => none
  | 0x62, _ => none
  | 0x63, _ => some (decide ((sget {} s.cipher.engines sub).jobs ≠ []))
  | _, _ => some false
where
  /-- FEC codewords come on a locked lane of a port that runs with FEC; which of them are corrected is not shown. -/
  fecLevel (s : Chip) (l : Nat) : Option Bool :=
    match portOfLane s l with
    | none => some false
    | some p => match portOf s p with
      | none => some false
      | some v => if (laneOf s l).lock && hasFec v then none else some false

/-- Cycles that a clock runs in one tick of the Timetable, of 0.8 ns: one or two of the 1.6 GHz, one tick, a free number of a clock whose
frequency the spec does not give. -/
def clockStep (s : Chip) (c : Nat) : Nat :=
  if c = 1 then 1 else if c = 0 then 1 + (Config.clockStep c s.free).toNat % 2 else (Config.clockStep c s.free).toNat

/-- The clocks run for one tick; in reset only the Timetable's does. -/
def tickClocks (s : Chip) : Chip :=
  let cs := if inReset s then [1] else [0, 1] ++ (allIslands.filter (fun i => 1 < clockOf i)).map clockOf
  freeTake { s with pmc := { s.pmc with clocks := cs.foldl (fun m c => smod 0 m c (· + clockStep s c)) s.pmc.clocks } }

/-- One counter over a tick of `d` cycles of its island: a level that is true counts every cycle in LEVEL mode, and its rise in edge mode. -/
def levelTick (i : Isl) (k d : Nat) (s : Chip) : Chip :=
  let ctl := pmcCtl s i k
  let now := clockNow s i + 1
  match eventLevel s i (ctl % 2 ^ 16) (bits ctl 16 4) with
  | some false => s
  | some true =>
    let rose := decide (sget 0 s.pmc.last (caddr i (0x48 + 4 * k)) + d < now)
    pmcMark i k now (if bit ctl 30 then pmcAdd i k d s else if rose then pmcAdd i k 1 s else s)
  | none =>
    let x := (freeNext s).toNat
    pmcAdd i k (if bit ctl 30 then x % (d + 1) else x % (d / 2 + 1)) (freeTake s)

/-- Every enabled counter over one tick. A counter counts while its island runs, fenced or not (R425). -/
def pmcTick (s0 : Chip) : Chip :=
  let s := tickClocks s0
  s.live.foldl (fun s x =>
    match islOf (x.1 / 2 ^ 32) with
    | none => s
    | some i =>
      let off := x.1 % 2 ^ 32
      if inBlock off 0x48 8 4 0 && bit x.2.toNat 31 && isOn s i then
        levelTick i ((off - 0x48) / 4) (clockNow s i - clockNow s0 i) s
      else s) s

/-- A counter is set to another event: a level that is true already has no rise before it. -/
def pmcSelect (i : Isl) (k : Nat) (s : Chip) : Chip :=
  let ctl := pmcCtl s i k
  let high := eventLevel s i (ctl % 2 ^ 16) (bits ctl 16 4) = some true
  pmcMark i k (if high then clockNow s i + 1 else 0) s

/-! Reads and writes of one word -/

/-- Where a control address points: an island and an offset, or the status it earns (R33). Bits [63:44] are reserved. An address that is
both outside a Cabin's span and no multiple of 4 earns RANGE (DESIGN CHOICE, log 151). -/
def wordAt (ca : Nat) : Status ⊕ (Isl × Nat) :=
  if 2 ^ 44 ≤ ca then .inl .badOperand
  else match islOf (ca / 2 ^ 32) with
    | none => .inl .range
    | some i =>
      let off := ca % 2 ^ 32
      if 0x00100000 ≤ off then .inl .range else if off % 4 ≠ 0 then .inl .badOperand else .inr (i, off)

/-- The Line of a word is in the scope of a waiting EPOCH_COMMIT (R229). -/
def lineWaits (s : Chip) : Isl → Bool
  | .iline n => commitWaits s n
  | .eline n => commitWaits s n
  | _ => false

/-- One write of R118: status, the word after it, the state. -/
def writeWord (ca : Nat) (value mask : Word) (s : Chip) : Status × Word × Chip :=
  match wordAt ca with
  | .inl e => (e, 0, s)
  | .inr (i, off) =>
    if isFenced s i then (.fenced, 0, countFencedReq i s)
    else let s := pmcCount i 0x02 0 s
    match wordSpec i off with
      | none => (.badOperand, 0, s)
      | some w =>
        if notHeld s i off then (.range, 0, s)
        else if linkCipherWord i off && !Config.linkCipher then (.badOperand, 0, s)
        else if mask &&& BitVec.ofNat 32 (w.ro ||| w.rc) ≠ 0 then (.badOperand, 0, s)
        else if i = .sb && off = 0x0100 then
          if value = 0xA5A5#32 && mask &&& 0xFFFF#32 = 0xFFFF#32 then
            (.ok, 0, { s with power := { s.power with chipReset := true } })
          else if mask = 0 then (.ok, 0, s)
          else (.badOperand, 0, s)
        else if i = .sb && inBlock off 0x2000 72 4 0 then
          let n := (off - 0x2000) / 4
          if bits mask.toNat 29 2 = 0 then (.ok, readWord s false i off, s)
          else
            let old := BitVec.ofNat 32 ((domainSt s n).mode.code * 2 ^ 29)
            let r := writeMode n (bits (mergeW old value mask).toNat 29 2) s
            (r.1, readWord r.2 false i off, r.2)
        else
          let m := mask &&& BitVec.ofNat 32 (w.rw ||| w.rws)
          if w.rws ≠ 0 && m ≠ 0 && lineWaits s i then (.busy, 0, s) else
          let s := clearW1c i off (value &&& mask &&& BitVec.ofNat 32 w.w1c).toNat s
          if m = 0 then (.ok, readWord s false i off, s)
          else
            let new := (mergeW (if w.rws ≠ 0 then stagedW s ca else liveW s ca) value m).toNat
            if inBlock off 0x48 8 4 0 && !pmcEventOk i (new % 2 ^ 16) then (.range, 0, s)
            else
              let v := clampWrite s i off new
              let x := BitVec.ofNat 32 v
              let s :=
                if w.rws ≠ 0 then setStaged ca x s
                else
                  let s := setLive ca x (fillBefore i off s)
                  if inBlock off 0x80 8 8 0 then setLive (ca + 4) 0 s
                  else if inBlock off 0x84 8 8 0 then s
                  else setShadow ca x s
              let s := afterWrite i off (if inBlock off 0x48 8 4 0 then pmcSelect i ((off - 0x48) / 4) s else s)
              (if v = new then .ok else .governed, readWord s false i off, s)

/-- The RC bits of a word after it was read (R8). `YD_WM_USED` starts again from the cells in use (R290). -/
def clearRc (i : Isl) (off : Nat) (s : Chip) : Chip :=
  match wordSpec i off with
  | none => s
  | some w =>
    if w.rc = 0 then s
    else
      let used := match i with
        | .yard y => if off = 0x0114 then 131072 - (yardOf s y).free - (yardOf s y).retired.length else 0
        | _ => 0
      let ca := caddr i off
      setLive ca ((liveW s ca &&& ~~~(BitVec.ofNat 32 w.rc)) ||| BitVec.ofNat 32 used) s

/-- One read: the word, and the state after the clear of its RC bits. -/
def readOnce (live : Bool) (i : Isl) (off : Nat) (s : Chip) : Word × Chip := (readWord s live i off, clearRc i off s)

/-- `count` words of one Cabin from an offset (R117). No clock passes between them, so a low word and the high word after it are one count
(R425). -/
def readWords (live : Bool) (i : Isl) : Nat → Nat → Chip → List Word × Chip
  | _, 0, s => ([], s)
  | off, n + 1, s =>
    let r := readOnce live i off s
    let rest := readWords live i (off + 4) n r.2
    (r.1 :: rest.1, rest.2)

/-- A read of R117: the status, and on `OK` the words. -/
def readRange (live : Bool) (ca count : Nat) (s : Chip) : Status × List Word × Chip :=
  match wordAt ca with
  | .inl e => (e, [], s)
  | .inr (i, off) =>
    if 0x00100000 < off + 4 * count then (.range, [], s)
    else if isFenced s i && 0xCC < off + 4 * count then (.fenced, [], countFencedReq i s)
    else
      let r := readWords live i off count (pmcCount i 0x02 0 s)
      (.ok, r.1, r.2)

/-! Commits -/

/-- The value a commit makes live, and the number of fields a bound replaced (R154, R256, R315). -/
def clampCommit (i : Isl) (off n : Nat) : Nat × Nat :=
  match i with
  | .platform _ =>
    if 0x1000 ≤ off && off < 0x1400 && off % 0x40 = 0 then
      let q := bits n 16 16
      if q ≤ bits n 0 16 then (putField n 0 16 (q / 2), 1) else (n, 0)
    else if 0x1000 ≤ off && off < 0x1400 && off % 0x40 = 4 then
      if bits n 30 2 = 3 then (putField n 30 2 2, 1) else (n, 0)
    else (n, 0)
  | .iline _ =>
    if off = 0x0840 then
      let a := if bits n 16 16 = 0 then (putField n 16 16 1, 1) else (n, 0)
      if bits n 0 8 < 2 then (putField a.1 0 8 2, a.2 + 1) else a
    else (n, 0)
  | _ => (n, 0)

/-- The outputs of recovered clocks that run: their source lane is locked and its port is in UP (R147). -/
def recclkUpdate (s : Chip) : Chip :=
  let down (l : Nat) : Bool := !(laneOf s l).lock || (match portOfLane s l with | none => true | some p => !portUp s p)
  recclkHold down (recclkResume (fun l => !down l) s)

/-- What a commit of an island changes besides its words: a new map of an enabled Quarry (R346), recovered clocks. -/
def afterCommit (i : Isl) (s : Chip) : Chip :=
  match i with
  | .quarry q =>
    let c := (liveW s (caddr i 0x0100)).toNat
    let v := quarryOf s q
    if v.enabled && (bits c 8 4 ≠ v.grain || bit c 7 ≠ v.bankXor) then rebuildMap q (modQuarry q (fun v => { v with remap := true }) s)
    else s
  | .tt => ppsHold (recclkUpdate s)
  | _ => s

/-- Commits the staged words of an island (R114): the number of fields a bound replaced, and the state. -/
def commitIsl (i : Isl) (s : Chip) : Nat × Chip :=
  let mine := s.staged.filter (fun p => p.1 / 2 ^ 32 = i.code)
  let s := { s with staged := s.staged.filter (fun p => ¬ p.1 / 2 ^ 32 = i.code) }
  let r := mine.foldl (fun r p =>
    let c := clampCommit i (p.1 % 2 ^ 32) p.2.toNat
    let w := BitVec.ofNat 32 c.1
    (r.1 + c.2, setShadow p.1 w (setLive p.1 w r.2))) (0, s)
  (r.1, afterCommit i r.2)

/-- An island holds a staged value that differs from its live one. -/
def hasStaged (s : Chip) (i : Isl) : Bool := s.staged.any (fun p => p.1 / 2 ^ 32 = i.code)

/-- Commits several islands (R115). -/
def commitAll (is : List Isl) (s : Chip) : Nat × Chip :=
  is.foldl (fun r i => let c := commitIsl i r.2; (r.1 + c.1, c.2)) (0, s)

/-- An access to a word that no Order carries: its outcome stands in `lastWrite`. A word of a domain that is off is reached once
the domain is on (R50). -/
def directWrite (ca : Nat) (value mask : Word) (s : Chip) : Chip :=
  if dead s then s
  else match writeDomains s ca value mask with
    | [] => let r := writeWord ca value mask s; { r.2.2 with lastWrite := some (r.1, r.2.1) }
    | ns => wantDomains ns s

end Sys2Proof.Machine
end

