-- ==== Sys2Proof/Machine/Orders.lean ====
section
/-!
DEFINITION. Orders at work (R91, R94 to R111): when one may start, the checks of its start, the running of its effect, and its
completions.
-/

namespace Sys2Proof.Machine

/-- An Order ring. -/
def ringOf (s : Chip) (r : Nat) : RingSt := sget {} s.host.rings r

/-- Changes a ring. -/
def modRing (r : Nat) (f : RingSt → RingSt) (s : Chip) : Chip :=
  { s with host := { s.host with rings := smod {} s.host.rings r f } }

/-- Entries of a ring (R92). -/
def RingSt.size (v : RingSt) : Nat := 2 ^ v.log2

/-- `a - b` modulo the ring size (R95). -/
def RingSt.dist (v : RingSt) (a b : Nat) : Nat := (a % v.size + v.size - b % v.size) % v.size

/-- Completion slots the device may still write (R95). -/
def RingSt.freeSlots (v : RingSt) : Nat := v.size - 1 - v.dist v.cplTail v.cplHead

/-- A 64-bit address from its two words, its bits [11:0] ignored (R92). -/
def pageAddr (hi lo : Word) : Nat := hi.toNat * 2 ^ 32 + lo.toNat / 4096 * 4096

/-- The host interface answers: the device runs and PERST_N is high (R63, R66). -/
def hostUp (s : Chip) : Bool := !dead s && !s.power.perst

/-- A bit of `PC_HOST_EVENT` becomes 1 and signals MSI-X vector 0 (R88, R89). -/
def ringEvent (s : Chip) : Chip :=
  if s.host.evRing then s else msix 0 { s with host := { s.host with evRing := true } }
def bootEvent (s : Chip) : Chip :=
  if s.host.evBoot then s else msix 0 { s with host := { s.host with evBoot := true } }

/-! Starting an Order -/

/-- The host region that holds [addr, addr + len) whole, if one lets a user through (R90, R91). `ok` tests the entry's ring
mask and attributes. -/
def inRegion (s : Chip) (addr len : Nat) (ok : Nat → Nat → Bool) : Bool :=
  (span 0 64).any (fun k =>
    let w (i : Nat) : Nat := (sget 0 s.host.regions (8 * k + i)).toNat
    let base := w 1 * 2 ^ 32 + w 0 / 4096 * 4096
    let size := w 3 * 2 ^ 32 + w 2 / 4096 * 4096
    let attr := w 6
    bit attr 0 && size ≠ 0 && base ≤ addr && decide (addr + len ≤ base + size) && ok (w 5 * 2 ^ 32 + w 4) attr)

/-- An Order of a ring may use a payload (R91). -/
def payloadOk (s : Chip) (ring addr len : Nat) (write : Bool) : Bool :=
  inRegion s addr len (fun rings attr => bit rings ring && (!write || bit attr 1))

/-- Sequence numbers of every Order issued that has no final completion (R109). -/
def outstanding (s : Chip) : List Nat :=
  (s.host.rings.map (fun x => x.2.issued ++ (match x.2.running with | none => [] | some o => [o.seq]))).flatten

/-- An Order may start as far as FENCE goes (R109). -/
def fenceAllows (s : Chip) (seq : Nat) (fence : Bool) : Bool :=
  s.host.fences.all (fun f => seq ≤ f) && (!fence || (outstanding s).all (fun n => seq ≤ n))

/-- A ring has an Order ready: one that could start as its ring (R104, R107) and FENCE, as the doorbells named it, stand (R109). -/
def ringReady (s : Chip) (r : Nat) : Bool :=
  let v := ringOf s r
  v.enable && !v.stopped && v.running.isNone && 2 ≤ v.freeSlots &&
  (match v.issued with | [] => false | seq :: _ => fenceAllows s seq (s.host.fences.contains seq))

/-- The ring whose turn it is (R108): the first one ready after the ring that had the last turn. -/
def ringTurn (s : Chip) : Option Nat :=
  let next := (span 1 64).map (fun k => (s.host.lastRing + k) % 64)
  next.find? (ringReady s)

/-- The checks of an Order's start (R99): the command that carries it out, or the status it completes with. An Order that needs a lapsed
duty completes with `FENCED` (R476). -/
def startChecks (s : Chip) (ring : Nat) (o : OrderFetch) : Status ⊕ Instr :=
  let p := bit (byteAt o.bytes 2) 0
  let len := leAt o.bytes 0x10 4
  let outside (write : Bool) : Bool := p && !payloadOk s ring (leAt o.bytes 0x08 8) len write
  match parseOrder ring (ringOf s ring).level o.bytes (if p then o.payload.take len else []) with
  | .fails e => .inl e
  | .late w => .inl (if outside w then .range else .badOperand)
  | .cmd c =>
    if outside (orderWrites c) then .inl .range
    else if p && orderReads c && (o.payloadErr || decide (o.payload.length < len)) then .inl .badOperand
    else if (orderDuties c).any s.sb.lapsed.contains then .inl .fenced
    else .inr c

/-- The read of an Order's payload ended in a PCI Express error: the Order has passed every check before that read (R92, R96, R99). -/
def payloadLost (s : Chip) (ring : Nat) (o : OrderFetch) : Bool :=
  let len := leAt o.bytes 0x10 4
  (o.payloadErr || decide (o.payload.length < len)) &&
  (match startChecks s ring { o with payloadErr := false, payload := padTo len 0 o.payload } with
   | .inl _ => false
   | .inr c => bit (byteAt o.bytes 2) 0 && orderReads c)

/-- A fetch ended in a PCI Express error: the ring stops (R96). -/
def stopRing (ring : Nat) (s : Chip) : Chip :=
  ringEvent (modRing ring (fun v => { v with stopped := true, fetchErr := true }) s)

/-- The device knows from the Order it has fetched whether it has FENCE (R109). -/
def noteFence (seq : Nat) (fence : Bool) (s : Chip) : Chip :=
  let others := s.host.fences.filter (fun f => f ≠ seq)
  { s with host := { s.host with fences := if fence then others ++ [seq] else others } }

/-- Starts the next Order of a ring (R99). A Signalman 0 that the debug port has halted starts none (R480). -/
def startOrder (ring : Nat) (o : OrderFetch) (s : Chip) : Chip :=
  let v := ringOf s ring
  match v.issued with
  | [] => s
  | seq :: rest =>
    if !hostUp s || !s.boot.done || (smOf s 0).halted || ringTurn s ≠ some ring then s
    else
      let turn (s : Chip) : Chip := { s with host := { s.host with lastRing := ring } }
      if o.fetchErr then turn (stopRing ring s)
      else
        let flags := byteAt o.bytes 2
        let s := noteFence seq (bit flags 1) s
        if !fenceAllows s seq (bit flags 1) then turn s
        else
          let chk := startChecks s ring o
          let s := if payloadLost s ring o then ringEvent (modRing ring (fun v => { v with fetchErr := true }) s) else s
          let run : Running :=
            { cmd := match chk with | .inl _ => none | .inr c => some c
              tag := leAt o.bytes 4 2, index := v.head, notify := bit flags 2, progress := bit flags 3
              payload := if bit flags 0 then some { addr := leAt o.bytes 0x08 8, len := leAt o.bytes 0x10 4 } else none
              seq := seq, start := runNs s
              outcome := match chk with | .inl e => some (e, 0) | .inr _ => none }
          let s := pmcCount .sb 0x60 0 s
          turn (modRing ring (fun v => { v with issued := rest, head := (v.head + 1) % v.size, running := some run }) s)

/-! Running an Order -/

/-- What an Order's effect leaves: its end, or that it is still at work. -/
inductive Ran where
  | done (st : Status) (res : DWord) (s : Chip)
  | going (s : Chip)

/-- A value the governor clamped in an operation of Signalman `n`: counted, a fault (R474, R475). -/
def countClamp (n : Nat) (s : Chip) : Chip := raise .sb (0x20 + n) clsFirmware 0 (bump .sb 0x0384 1 s)

/-- A Signalman that an Order's routine runs on is halted: the Order waits (R463, R480). -/
def orderHalted (s : Chip) (c : Instr) : Bool := (orderSms s c).any (fun n => (smOf s n).halted)

/-- The effect of the Order a ring has at work. The command must be the one the Order asks for; the Order waits while a domain it
needs is off (R50, R111), or a Signalman it runs on is halted. `again` lets an effect that has begun be taken up once more. -/
def runWith (again : Bool) (ring : Nat) (c : Instr) (needs : Chip → List Nat) (eff : Chip → Ran) (s : Chip) : Chip :=
  match (ringOf s ring).running with
  | none => s
  | some o =>
    if dead s || o.outcome.isSome || o.cmd ≠ some c || (o.begun && !again) || orderHalted s c then s
    else match needs s with
      | [] =>
        match eff s with
        | .done st res s => finishOrder ring st res s
        | .going s => modRing ring (fun v => { v with running := v.running.map (fun o => { o with begun := true }) }) s
      | ns => wantDomains ns s

/-- The effect of an Order that is taken up once. -/
def runOrder (ring : Nat) (c : Instr) (needs : Chip → List Nat) (eff : Chip → Ran) (s : Chip) : Chip :=
  runWith false ring c needs eff s

/-- An Order that ends at once. -/
def endOrder (ring : Nat) (c : Instr) (needs : Chip → List Nat) (eff : Chip → Status × DWord × Chip) (s : Chip) : Chip :=
  runOrder ring c needs (fun s => let r := eff s; .done r.1 r.2.1 r.2.2) s

/-- An Order that needs no domain. -/
def noNeeds (_ : Chip) : List Nat := []

/-- Writes result bytes to an Order's payload (R98). -/
def writePayload (p : Option Payload) (bs : List Byte) (s : Chip) : Chip :=
  match p with | none => s | some p => hostWrite p.addr bs s

/-! Completions -/

/-- The 16 bytes of a completion (R100). -/
def completionBytes (tag : Nat) (st : Status) (index : Nat) (phase : Bool) (res : DWord) : List Byte :=
  leBytes 2 tag ++ leBytes 2 st.code ++ leBytes 2 index ++ [BitVec.ofNat 8 (b2n phase), 0#8] ++ leBytes 8 res.toNat

/-- Writes one completion into the next slot of a ring and moves the tail, with an interrupt under NOTIFY (R101, R102). -/
def writeCompletion (ring : Nat) (o : Running) (st : Status) (res : DWord) (s : Chip) : Chip :=
  let v := ringOf s ring
  let s := hostWrite (pageAddr v.cplHi v.cplLo + 16 * v.cplTail) (completionBytes o.tag st o.index v.phase res) s
  let next := (v.cplTail + 1) % v.size
  let s := modRing ring (fun v => { v with cplTail := next, phase := if next = 0 then !v.phase else v.phase }) s
  if o.notify then msix v.vector s else s

/-- One `PENDING` completion of an Order with PROGRESS that has no final completion 1 ms after its start (R103), whatever its Signalman
does. -/
def pendOrder (ring : Nat) (s : Chip) : Chip :=
  match (ringOf s ring).running with
  | none => s
  | some o =>
    if !hostUp s || o.orphan || !o.progress || o.pendingWritten || elapsed s o.start < 1000000 then s
    else
      let s := writeCompletion ring o .pending 0 s
      modRing ring (fun v => { v with running := some { o with pendingWritten := true } }) s

/-- The Signalmen let an Order complete: Signalman 0, which writes completions, is not halted, and one of a District duty has yielded
(R463). -/
def orderYielded (s : Chip) (o : Running) : Bool :=
  !(smOf s 0).halted && (match o.cmd with
    | none => true
    | some c => (orderDuties c).all (fun d => let m := smOf s (executor s d); !m.running && !m.halted))

/-- The final completion of an Order whose effect is in place (R102). An Order that PERST_N or FLR met completes unseen (R66). -/
def completeOrder (ring : Nat) (s : Chip) : Chip :=
  match (ringOf s ring).running with
  | none => s
  | some o =>
    match o.outcome with
    | none => s
    | some (st, res) =>
      if dead s || (s.power.perst && !o.orphan) || !orderYielded s o then s
      else
        let s := if o.orphan then s else writeCompletion ring o st res s
        let s := modRing ring (fun v => { v with running := none }) s
        { s with host := { s.host with fences := s.host.fences.filter (fun f => f ≠ o.seq) } }

end Sys2Proof.Machine
end

