-- ==== Sys2Proof/Machine/Crc.lean ====
section
/-!
DEFINITION. The check and hash functions of the spec: the CRC-16 of a cell (R286), the three CRC-32 functions of
R171, and SipHash-2-4 (R171; its rounds are taken from the published function, log entry 12).
-/

namespace Sys2Proof.Machine

/-- One bit of a reflected CRC-32. -/
def crc32Bit (poly : Word) (c : Word) : Word :=
  if c.getLsbD 0 then (c >>> 1) ^^^ poly else c >>> 1

/-- One byte of a reflected CRC-32. -/
def crc32Byte (poly : Word) (c : Word) (b : Byte) : Word :=
  let c0 := c ^^^ b.setWidth 32
  crc32Bit poly (crc32Bit poly (crc32Bit poly (crc32Bit poly
    (crc32Bit poly (crc32Bit poly (crc32Bit poly (crc32Bit poly c0)))))))

/-- A reflected CRC-32 with initial value and final XOR 0xFFFFFFFF; `poly` is the polynomial with its bits reversed. -/
def crc32With (poly : Word) (bs : List Byte) : Word :=
  bs.foldl (crc32Byte poly) 0xFFFFFFFF#32 ^^^ 0xFFFFFFFF#32

/-- HASH_FN 0x1: polynomial 0x04C11DB7 (R171). Also the image CRC of R189 and the Ethernet FCS. -/
def crc32 : List Byte → Word := crc32With 0xEDB88320#32
/-- HASH_FN 0x2: CRC-32C, polynomial 0x1EDC6F41 (R171). -/
def crc32c : List Byte → Word := crc32With 0x82F63B78#32
/-- HASH_FN 0x3: CRC-32K, polynomial 0x741B8CD7 (R171). -/
def crc32k : List Byte → Word := crc32With 0xEB31D82E#32

/-- One bit of the CRC-16 of R286. -/
def crc16Bit (c : BitVec 16) : BitVec 16 :=
  if c.getLsbD 15 then (c <<< 1) ^^^ 0x1021#16 else c <<< 1

/-- One byte of the CRC-16 of R286. -/
def crc16Byte (c : BitVec 16) (b : Byte) : BitVec 16 :=
  let c0 := c ^^^ (b.setWidth 16 <<< 8)
  crc16Bit (crc16Bit (crc16Bit (crc16Bit (crc16Bit (crc16Bit (crc16Bit (crc16Bit c0)))))))

/-- CRC-16: polynomial 0x1021, initial value 0xFFFF, no reflection, no final XOR (R286). -/
def crc16 (bs : List Byte) : BitVec 16 := bs.foldl crc16Byte 0xFFFF#16

/-- The four state words of SipHash. -/
structure Sip where
  v0 : BitVec 64
  v1 : BitVec 64
  v2 : BitVec 64
  v3 : BitVec 64
deriving DecidableEq, Repr

/-- One SipRound. -/
def sipRound (s : Sip) : Sip :=
  let a := s.v0 + s.v1
  let b := s.v1.rotateLeft 13 ^^^ a
  let a' := a.rotateLeft 32
  let c := s.v2 + s.v3
  let d := s.v3.rotateLeft 16 ^^^ c
  let e := a' + d
  let f := d.rotateLeft 21 ^^^ e
  let g := c + b
  let h := b.rotateLeft 17 ^^^ g
  { v0 := e, v1 := h, v2 := g.rotateLeft 32, v3 := f }

/-- One message word of SipHash-2-4. -/
def sipWord (s : Sip) (m : BitVec 64) : Sip :=
  let t := sipRound (sipRound { s with v3 := s.v3 ^^^ m })
  { t with v0 := t.v0 ^^^ m }

/-- The full eight-byte words of a message, `n` of them. -/
def sipWords : Nat → List Byte → Sip → Sip
  | 0, _, s => s
  | n + 1, bs, s => sipWords n (bs.drop 8) (sipWord s (BitVec.ofNat 64 (leNat (bs.take 8))))

/-- SipHash-2-4 of a byte string under a 128-bit key whose low half is k0. -/
def sipHash (key : BitVec 128) (bs : List Byte) : BitVec 64 :=
  let k0 : BitVec 64 := key.setWidth 64
  let k1 : BitVec 64 := (key >>> 64).setWidth 64
  let s0 : Sip := { v0 := k0 ^^^ 0x736f6d6570736575#64, v1 := k1 ^^^ 0x646f72616e646f6d#64,
                    v2 := k0 ^^^ 0x6c7967656e657261#64, v3 := k1 ^^^ 0x7465646279746573#64 }
  let s1 := sipWords (bs.length / 8) bs s0
  let last := BitVec.ofNat 64 (leNat (bs.drop (bs.length / 8 * 8)) + bs.length % 256 * 2 ^ 56)
  let s2 := sipWord s1 last
  let t := sipRound (sipRound (sipRound (sipRound { s2 with v2 := s2.v2 ^^^ 0xff#64 })))
  t.v0 ^^^ t.v1 ^^^ t.v2 ^^^ t.v3

end Sys2Proof.Machine
end

