-- ==== Sys2Proof/Machine/Tables.lean ====
section
/-!
DEFINITION. Table memory as pure functions: sizes and room (R239), visibility (R241), the EXACT ways, lookup and
mover (R244 to R247), the TCAM bands (R248, R249), DIRECT and ADATA entries (R250).
-/

namespace Sys2Proof.Machine

/-- Least of the listed sizes that holds `n`, the last if none does. -/
def fitSize : List Nat → Nat → Nat
  | [], n => n
  | [s], _ => s
  | s :: t :: m, n => if n ≤ s then s else fitSize (t :: m) n

/-- Bytes of a key: ceil(KEY_BITS ÷ 8) (R239). -/
def keyBytes (d : TableDecl) : Nat := (d.keyBits + 7) / 8

/-- Bytes of an EXACT entry before rounding (R239). -/
def exactBytes (d : TableDecl) : Nat :=
  4 + keyBytes d + (if d.adMode = 1 then 4 else 4 * d.adWords)

/-- Units u of 16 bytes of one EXACT entry (R239). -/
def exactUnits (d : TableDecl) : Nat := fitSize [16, 32, 64, 128] (exactBytes d) / 16

/-- Slices w of one LPM or PRIORITY entry (R239). -/
def tcamSlices (d : TableDecl) : Nat := fitSize [1, 2, 4, 8] ((d.keyBits + 63) / 64)

/-- Bytes of one DIRECT or ADATA entry (R239). -/
def directBytes (d : TableDecl) : Nat :=
  if d.tkind = 4 then fitSize [4, 8, 16, 32, 64] (4 + 4 * d.adWords) else fitSize [4, 8, 16, 32] (4 * d.adWords)

/-- Entries an instance has room for (R239). -/
def roomOf (d : TableDecl) : Nat :=
  match d.tkind with
  | 1 => d.blocks * 8192 / exactUnits d
  | 2 => d.blocks * 2048 / tcamSlices d
  | 3 => d.blocks * 2048 / tcamSlices d
  | _ => d.entries

/-- SRAM blocks a declaration takes (R239). -/
def sramNeed (d : TableDecl) : Nat :=
  match d.tkind with
  | 1 => d.blocks
  | 4 => (d.entries * directBytes d + 131071) / 131072
  | 5 => (d.entries * directBytes d + 131071) / 131072
  | _ => 0

/-- TCAM blocks a declaration takes (R237). -/
def tcamNeed (d : TableDecl) : Nat := if d.tkind = 2 ∨ d.tkind = 3 then d.blocks else 0

/-- SRAM blocks a Ledger declaration takes (R239). -/
def ledgerNeed (d : LedgerDecl) : Nat := (d.entries * (if d.wide then 8 else 4) + 131071) / 131072

/-- Whether an entry with visibility `vis` can match a frame; `cur` says the frame is of the current epoch or a later
one, not of an epoch before it (R241). -/
def visible (vis : Nat) (cur : Bool) : Bool :=
  match vis with
  | 0 => true
  | 2 => true
  | 3 => cur
  | 4 => !cur
  | _ => false

/-- Seed S_w of way w (R244). -/
def waySeed (d : TableDecl) (w : Nat) : Nat :=
  Nat.xor d.hseed ((w + 1) * 0x9E3779B9 % 2 ^ 32) % 2 ^ 32

/-- Locations in each way (R244). -/
def wayLen (d : TableDecl) : Nat := roomOf d / 4

/-- The candidate location of a key in way w (R244). -/
def candidate (d : TableDecl) (key w : Nat) : Nat :=
  let n := wayLen d
  let h := (crc32c (beBytes 4 (waySeed d w) ++ beBytes (keyBytes d) key)).toNat
  w * n + h * n / 2 ^ 32

/-- The four candidates of a key, ways 0 to 3 (R244). -/
def candidates (d : TableDecl) (key : Nat) : List Nat :=
  [candidate d key 0, candidate d key 1, candidate d key 2, candidate d key 3]

/-- The first candidate location whose entry satisfies `p`. -/
def findAt (ents : Sparse Entry) (p : Entry → Bool) : List Nat → Option (Nat × Entry)
  | [] => none
  | l :: ls =>
    match sfind ents l with
    | some e => if p e then some (l, e) else findAt ents p ls
    | none => findAt ents p ls

/-- EXACT lookup: location and entry of a visible candidate that holds the key (R245). -/
def exactFind (t : Inst) (key : Nat) (cur : Bool) : Option (Nat × Entry) :=
  findAt t.ents (fun e => decide (e.key = key) && visible e.vis cur) (candidates t.decl key)

/-- The first free location of a list. -/
def firstFree (ents : Sparse Entry) : List Nat → Option Nat
  | [] => none
  | l :: ls => if (sfind ents l).isNone then some l else firstFree ents ls

/-- The breadth-first displacement search of R246. Each queue element is a path: the location to empty first, then the
locations its displacement chain passes, most recent first. Answers the chain that ends in a free location, and the locations read. -/
def moverSearch (t : Inst) (maxMoves maxSeen : Nat) : Nat → List (List Nat) → List Nat → Nat → Option (List Nat) × List Nat
  | 0, _, seen, _ => (none, seen)
  | _ + 1, [], seen, _ => (none, seen)
  | fuel + 1, path :: queue, seen, n =>
    match path with
    | [] => moverSearch t maxMoves maxSeen fuel queue seen n
    | loc :: _ =>
      match sfind t.ents loc with
      | none => (some path, seen)
      | some e =>
        if path.length > maxMoves then moverSearch t maxMoves maxSeen fuel queue seen n
        else
          let nexts := ((candidates t.decl e.key).filter (fun l => !seen.contains l)).eraseDups.take (maxSeen - n)
          match firstFree t.ents nexts with
          | some l => (some (l :: path), seen ++ nexts)
          | none => moverSearch t maxMoves maxSeen fuel (queue ++ nexts.map (· :: path)) (seen ++ nexts) (n + nexts.length)

/-- Carries out a displacement chain from its free end: each entry of the path moves into the location in front of it
(R247). The last location of the path is left free. -/
def moveChain : Sparse Entry → List Nat → Sparse Entry
  | m, [] => m
  | m, [_] => m
  | m, free :: loc :: rest =>
    match sfind m loc with
    | some e => moveChain (sdel (sins m free e) loc) (loc :: rest)
    | none => moveChain m (loc :: rest)

/-- The mover's search for a key none of whose candidates is free (R246). -/
def searchFor (t : Inst) (deep : Bool) (key : Nat) : Option (List Nat) × List Nat :=
  let cs := candidates t.decl key
  let maxSeen := if deep then 1024 else 64
  moverSearch t (if deep then 8 else 3) maxSeen (maxSeen + 8) (cs.eraseDups.map (fun l => [l])) cs 0

/-- The locations of an EXACT instance that the update engine reads for a key: its candidates, and with `insert` those that the mover
examines where none of them is free (R246, R260). -/
def engineReads (t : Inst) (insert deep : Bool) (key : Nat) : List Nat :=
  let cs := candidates t.decl key
  if insert && (firstFree t.ents cs).isNone then (searchFor t deep key).2 else cs

/-- Inserts an entry in an EXACT instance: the instance, the location and the entries moved (R246, R247). -/
def exactInsert (t : Inst) (deep : Bool) (e : Entry) : Option (Inst × Nat × Nat) :=
  match firstFree t.ents (candidates t.decl e.key) with
  | some l => some ({ t with ents := sins t.ents l e }, l, 0)
  | none =>
    match (searchFor t deep e.key).1 with
    | some path =>
      let l := path.getLastD 0
      some ({ t with ents := sins (moveChain t.ents path) l e }, l, path.length - 1)
    | none => none

/-- The entries of a TCAM instance in match order. -/
def tcamList (t : Inst) : List Entry := (t.ents.filter (fun p => p.2.valid)).map (·.2)

/-- Lays a list of entries back into the highest positions, behind the free region (R248). -/
def tcamLay (t : Inst) (es : List Entry) : Inst :=
  { t with ents := (span (roomOf t.decl - es.length) es.length).zip es }

/-- The entries of bands ahead of band `b`, those of band `b`, and those behind it; a higher band stands ahead. -/
def bandSplit (b : Nat) (es : List Entry) : List Entry × List Entry × List Entry :=
  (es.filter (fun e => b < e.band), es.filter (fun e => e.band = b), es.filter (fun e => e.band < b))

/-- The distinct bands of entries in match order. -/
def bandsOf (es : List Entry) : List Nat := (es.map (·.band)).eraseDups

/-- Moves the last element to the front. -/
def rotLast {α : Type} (l : List α) : List α :=
  match l.reverse with
  | [] => []
  | x :: m => x :: m.reverse

/-- Moves the first element to the end. -/
def rotFirst {α : Type} : List α → List α
  | [] => []
  | x :: m => m ++ [x]

/-- TCAM insertion by R249: the entries in their new order and the number moved. -/
def tcamInsert (e : Entry) (es : List Entry) : List Entry × Nat :=
  let (ahead, own, behind) := bandSplit e.band es
  let bs := bandsOf ahead
  ((bs.map (fun b => rotLast (ahead.filter (fun x => x.band = b)))).flatten ++ (e :: own) ++ behind, bs.length)

/-- Removes the entry at place `i` of its band: the first entry of the band fills the hole (R249). -/
def bandDelete (i : Nat) (own : List Entry) : List Entry :=
  match i, own with
  | 0, _ :: m => m
  | i + 1, f :: m => m.take i ++ [f] ++ m.drop (i + 1)
  | _, [] => []

/-- TCAM deletion of the entry at place `i` of the match order (R249): the new order and the number moved. -/
def tcamDelete (i : Nat) (es : List Entry) : List Entry × Nat :=
  match es[i]? with
  | none => (es, 0)
  | some e =>
    let (ahead, own, behind) := bandSplit e.band es
    let j := i - ahead.length
    let bs := bandsOf ahead
    ((bs.map (fun b => rotFirst (ahead.filter (fun x => x.band = b)))).flatten ++ bandDelete j own ++ behind,
      bs.length + (if j = 0 then 0 else 1))

/-- Whether a TCAM entry matches a key (R248). -/
def tcamMatch (e : Entry) (key : Nat) : Bool := e.valid && Nat.land (Nat.xor e.key key) e.mask = 0

/-- TCAM lookup: the first visible match in position order (R248). A corrupted slice decides for its entry (R261): `odd` lists the
positions and whether they match. -/
def tcamFind (t : Inst) (key : Nat) (cur : Bool) (odd : List (Nat × Bool)) : Option (Nat × Entry) :=
  t.ents.find? (fun p => visible p.2.vis cur && p.2.valid && (match odd.find? (fun x => x.1 = p.1) with
    | some x => x.2
    | none => tcamMatch p.2 key))

/-- The compare mask of an LPM entry with prefix length `plen` (R248). -/
def lpmMask (d : TableDecl) (plen : Nat) : Nat :=
  let all := 2 ^ d.keyBits - 1
  let field := (2 ^ d.pfxWidth - 1) * 2 ^ d.pfxLsb
  let top := (2 ^ plen - 1) * 2 ^ (d.pfxWidth - plen) * 2 ^ d.pfxLsb
  Nat.xor all field + top

/-- The DIRECT or ADATA entry at an index: action and action data (R250); an index beyond ENTRIES reads zeros. -/
def directAt (t : Inst) (i : Nat) : Nat × List Nat :=
  if i < t.decl.entries then
    match sfind t.direct i with
    | some v => v
    | none => (0, if t.decl.tkind = 4 then t.initAd else [])
  else (0, [])

/-- What a Course's lookup yields (R168): hit, action ID and the action data words. -/
structure LookupRes where
  hit : Bool
  action : Nat
  ad : List Nat
deriving DecidableEq, Repr

/-- Instance of a table ID among the instances, through a bank's bindings. -/
def boundInst (insts : List Inst) (binds : Sparse Nat) (id : Nat) : Option Inst :=
  match sfind binds id with
  | some iid => insts.find? (fun t => t.iid = iid)
  | none => none

/-- The action data of an entry, through its ADATA table when the table is indirect (R237, R250) and its result word does not say
otherwise (log 59). -/
def entryAd (insts : List Inst) (binds : Sparse Nat) (d : TableDecl) (e : Entry) : List Nat :=
  if d.adMode = 1 && e.indirect ≠ some false then
    match boundInst insts binds d.adTable with
    | some t => (directAt t e.index).2.take t.decl.adWords
    | none => []
  else if d.adMode = 1 then e.ad
  else e.ad.take d.adWords

/-- The ADATA entry that an indirect entry's action data is read from, as instance and index. -/
def adRead (insts : List Inst) (binds : Sparse Nat) (d : TableDecl) (e : Entry) : List (Nat × Nat) :=
  if d.adMode = 1 && e.indirect ≠ some false then
    match boundInst insts binds d.adTable with
    | some t => if e.index < t.decl.entries then [(t.iid, e.index)] else []
    | none => []
  else []

/-- A Course's lookup: the result, for a hit of an EXACT entry its instance and location, whose H bit the hit sets (R258), and the SRAM
entries read, as instance and location (R260). -/
structure LookupOut where
  res : LookupRes := { hit := false, action := 0, ad := [] }
  hit : Option (Nat × Nat) := none
  reads : List (Nat × Nat) := []

/-- A Course's lookup in its bound table (R167, R168). `idx` is selector 0 for a DIRECT lookup; `odd` lists corrupted TCAM slices. -/
def courseLookup (insts : List Inst) (binds : Sparse Nat) (odd : List (Nat × Nat × Bool)) (decl : Option TableDecl)
    (kind id key idx : Nat) (cur : Bool) : LookupOut :=
  match boundInst insts binds id with
  | none => {}
  | some t =>
    let miss : LookupRes := { hit := false, action := 0, ad := (match decl with | some d => d.missAd | none => t.decl.missAd) }
    let found (e : Entry) : LookupRes := { hit := true, action := e.action, ad := entryAd insts binds t.decl e }
    if kind = 1 then
      let reads := (candidates t.decl key).map (fun l => (t.iid, l))
      match exactFind t key cur with
      | some (l, e) => { res := found e, hit := some (t.iid, l), reads := reads ++ adRead insts binds t.decl e }
      | none => { res := miss, reads := reads }
    else if kind = 2 then
      match tcamFind t key cur ((odd.filter (fun x => x.1 = id)).map (fun x => x.2)) with
      | some (_, e) => { res := found e, reads := adRead insts binds t.decl e }
      | none => { res := miss }
    else
      let i := idx % t.decl.entries
      let v := directAt t i
      { res := { hit := true, action := v.1, ad := v.2.take t.decl.adWords }, reads := [(t.iid, i)] }

/-- A hit of an EXACT entry sets H on the version that the current epoch sees (R242, R258). -/
def markHit (insts : List Inst) (iid loc : Nat) : List Inst :=
  let set (t : Inst) (l : Nat) (e : Entry) : Inst := { t with ents := sins t.ents l { e with hbit := true } }
  insts.map (fun t =>
    if t.iid = iid then
      match sfind t.ents loc with
      | some e =>
        if visible e.vis true then set t loc e
        else match exactFind t e.key true with
          | some (l, x) => set t l x
          | none => t
      | none => t
    else t)

/-- Instances without the entries at the locations given, as instance and location: a DIRECT or ADATA entry has its initial value
there (R260). -/
def withoutAt (insts : List Inst) (at' : List (Nat × Nat)) : List Inst :=
  at'.foldl (fun ts x => ts.map (fun t =>
    if t.iid = x.1 then { t with ents := if t.decl.tkind = 1 then sdel t.ents x.2 else t.ents, direct := sdel t.direct x.2 } else t)) insts

end Sys2Proof.Machine
end

