-- ==== Sys2Proof/Machine/Nolral.lean ====
section
/-!
DEFINITION. The Nolral machine (file 06): operand access (R160, R163), keys, hashes, Ledgers (R166 to R172),
micro-operations (R174 to R178) and the run of one frame through the Courses of a Line.
-/

namespace Sys2Proof.Machine

/-- What a Course has computed for the frame at work: its action data, hashes and Ledger results. -/
structure CourseRes where
  ad : List Nat := []
  hash0 : Nat := 0
  hash1 : Nat := 0
  lg0 : Nat := 0
  lg1 : Nat := 0
deriving DecidableEq, Repr

/-- Width in bits of an operand (R160, R163). -/
def opWidth (code : Nat) : Nat :=
  if code < 0x40 then 8
  else if code < 0xA0 then 16
  else if code < 0x120 then 32
  else if code < 0x160 then 16
  else match code with
    | 0x180 => 16 | 0x181 => 2 | 0x182 => 9 | 0x183 => 1 | 0x184 => 32 | 0x185 => 32 | 0x186 => 16 | 0x187 => 32
    | 0x188 => 4 | 0x189 => 2 | 0x18A => 32 | 0x18B => 16 | 0x18C => 16 | 0x18D => 32 | 0x18E => 16 | 0x18F => 9
    | 0x190 => 14 | 0x191 => 32 | 0x192 => 4 | 0x194 => 14
    | _ => if 0x1A0 ≤ code ∧ code < 0x1B0 then 32 else if 0x1C0 ≤ code ∧ code ≤ 0x1CA then 32
           else if code = 0x1CC ∨ code = 0x1CD then 32 else 0

/-- Whether an operand code is defined (R160, R163). -/
def opDefined (code : Nat) : Bool := opWidth code != 0

/-- The system field `disp` (R180). -/
def dispWord (m : Manifest) : Nat := m.dispKind * 2 ^ 28 + m.dispTarget % 2 ^ 16

/-- The value of an operand (R158: the caller passes the Manifest at the entry of the Course). -/
def readOp (m : Manifest) (r : CourseRes) (code : Nat) : Nat :=
  if code < 0x40 then sget 0 m.c8 code
  else if code < 0xA0 then sget 0 m.c16 (code - 0x40)
  else if code < 0x100 then sget 0 m.c32 (code - 0xA0)
  else if code < 0x120 then sget 0 m.w (code - 0x100)
  else if code < 0x160 then bits (sget 0 m.w ((code - 0x120) / 2)) (16 * ((code - 0x120) % 2)) 16
  else match code with
    | 0x180 => m.epoch | 0x181 => m.pass | 0x182 => m.inPort | 0x183 => m.origin
    | 0x184 => m.inTs % 2 ^ 32 | 0x185 => m.inTs / 2 ^ 32 % 2 ^ 32
    | 0x186 => m.parse | 0x187 => m.hv | 0x188 => m.tc | 0x189 => m.mcClass | 0x18A => m.fhash
    | 0x18B => m.dropReason | 0x18C => m.trapReason | 0x18D => dispWord m | 0x18E => m.waybill
    | 0x18F => m.egPort | 0x190 => m.qId | 0x191 => m.qDepth | 0x192 => m.eflags | 0x194 => m.pktLen
    | 0x1C8 => r.hash0 | 0x1C9 => r.hash1 % 2 ^ 32 | 0x1CA => r.hash1 / 2 ^ 32 % 2 ^ 32
    | 0x1CC => r.lg0 | 0x1CD => r.lg1
    | _ => if 0x1A0 ≤ code ∧ code < 0x1B0 then sget 0 m.cons (code - 0x1A0)
           else if 0x1C0 ≤ code ∧ code < 0x1C8 then nth 0 r.ad (code - 0x1C0) else 0

/-- Whether a program of the Line kind may write the operand (R163). -/
def opWritable (egress : Bool) (code : Nat) : Bool :=
  decide (code < 0x160) || decide (0x1A0 ≤ code ∧ code < 0x1B0)
    || (!egress && (decide (code = 0x188) || decide (code = 0x189) || decide (code = 0x18A)))

/-- Writes a whole operand. -/
def writeOp (m : Manifest) (code v : Nat) : Manifest :=
  let v := v % 2 ^ opWidth code
  if code < 0x40 then { m with c8 := sput 0 m.c8 code v }
  else if code < 0xA0 then { m with c16 := sput 0 m.c16 (code - 0x40) v }
  else if code < 0x100 then { m with c32 := sput 0 m.c32 (code - 0xA0) v }
  else if code < 0x120 then { m with w := sput 0 m.w (code - 0x100) v }
  else if code < 0x160 then
    let k := (code - 0x120) / 2
    let old := sget 0 m.w k
    let new := if (code - 0x120) % 2 = 0 then old / 2 ^ 16 * 2 ^ 16 + v else v * 2 ^ 16 + old % 2 ^ 16
    { m with w := sput 0 m.w k new }
  else if code = 0x188 then { m with tc := v }
  else if code = 0x189 then { m with mcClass := v }
  else if code = 0x18A then { m with fhash := v }
  else if 0x1A0 ≤ code ∧ code < 0x1B0 then { m with cons := sput 0 m.cons (code - 0x1A0) v }
  else m

/-- The fields of a micro-operation (R174). -/
structure UOp where
  opc : Nat
  dst : Nat
  srca : Nat
  cond : Nat
  lsb : Nat
  width : Nat
  imm : Bool
  srcb : Nat
  imm16 : Nat
deriving DecidableEq, Repr

/-- Takes a micro-operation word apart (R174). -/
def uop (x : Nat) : UOp :=
  { opc := bits x 58 6, dst := bits x 49 9, srca := bits x 40 9, cond := bits x 36 4, lsb := bits x 31 5,
    width := bits x 26 5, imm := bit x 25, srcb := bits x 16 9, imm16 := bits x 0 16 }

/-- A condition code over the predicates (R162, R174). -/
def condHolds (preds cond : Nat) : Bool := (bit preds (cond % 8)) != (bit cond 3)

/-- Width of the destination field of a micro-operation (R174). -/
def fieldWidth (u : UOp) : Nat := if u.width = 0 then opWidth u.dst else u.width

/-- One's complement sum of two 16-bit numbers. -/
def onesAdd (a b : Nat) : Nat := let s := a + b; if s > 0xFFFF then s - 0xFFFF else s

/-- Number of one bits among the low `n`. -/
def popcount : Nat → Nat → Nat
  | 0, _ => 0
  | n + 1, x => x % 2 + popcount n (x / 2)

/-- Leading zeros of a number of `n` bits. -/
def clz : Nat → Nat → Nat
  | 0, _ => 0
  | n + 1, x => if bit x n then 0 else 1 + clz n x

/-- The 32-bit complement. -/
def not32 (x : Nat) : Nat := 0xFFFFFFFF - x % 2 ^ 32

/-- The field of its destination that a micro-operation writes, as its lowest bit and its width: MOVH writes the upper half (R178). -/
def destField (u : UOp) : Nat × Nat := if u.opc = 0x02 then (16, 16) else (u.lsb, fieldWidth u)

/-- The result of a value opcode (R176, R178): `a` and `b` zero-extended sources of widths `aw` and `bw`, `d` the destination field,
`fw` its width; `rnd` the word drawn for RND, `time` the four time words of TSREAD. `none` where the opcode writes no field. -/
def aluResult (u : UOp) (c : Course) (aw bw a b d fw rnd : Nat) (time : List Nat) : Option Nat :=
  match u.opc with
  | 0x01 => some a
  | 0x02 => some u.imm16
  | 0x03 => some (a / 2 ^ (u.imm16 % 32))
  | 0x04 => some 0
  | 0x05 => some (nth 0 c.consts u.imm16)
  | 0x06 => some (a % 256 * 256 + a / 256 % 256)
  | 0x07 => some (beNat (leBytes 4 a))
  | 0x08 => some ((a + b) % 2 ^ 32)
  | 0x09 => some ((a + 2 ^ 32 - b) % 2 ^ 32)
  | 0x0A => some (if a + b ≥ 2 ^ fw then 2 ^ fw - 1 else a + b)
  | 0x0B => some (if b > a then 0 else a - b)
  | 0x0C => some (if a ≤ b then a else b)
  | 0x0D => some (if a ≤ b then b else a)
  | 0x0E => some (a % 2 ^ 16 * (b % 2 ^ 16))
  | 0x0F => some (if a ≤ b then b - a else a - b)
  | 0x10 => some (Nat.land a b)
  | 0x11 => some (Nat.lor a b)
  | 0x12 => some (Nat.xor a b)
  | 0x13 => some (not32 a)
  | 0x14 => some (Nat.land a (not32 b))
  | 0x15 => some (popcount 32 a)
  | 0x16 => some (clz 32 a)
  | 0x17 =>
    let k := unsignedOf 32 (signed bw b) % 32 + 1
    some (unsignedOf 32 (signed k (unsignedOf 32 (signed aw a) % 2 ^ k)))
  | 0x18 => some (if b % 64 ≥ 32 then 0 else a * 2 ^ (b % 64) % 2 ^ 32)
  | 0x19 => some (if b % 64 ≥ 32 then 0 else a / 2 ^ (b % 64))
  | 0x1A => some (unsignedOf 32 (signed 32 a / (2 ^ (if b % 64 ≥ 32 then 32 else b % 64) : Int)))
  | 0x1B => some ((BitVec.ofNat 32 a).rotateLeft (b % 32)).toNat
  | 0x1C => some ((BitVec.ofNat 32 a).rotateRight (b % 32)).toNat
  | 0x1D => some rnd
  | 0x2C => some (0xFFFF - onesAdd (onesAdd (0xFFFF - d % 2 ^ 16) (0xFFFF - a % 2 ^ 16)) (b % 2 ^ 16))
  | 0x2E => if d = a then some b else none
  | 0x32 => some (nth 0 time (u.imm16 % 4))
  | _ => none

/-- The result of a predicate opcode (R178). -/
def predResult (u : UOp) (preds aw bw a b : Nat) : Option Bool :=
  match u.opc with
  | 0x20 => some (a = b)
  | 0x21 => some (a != b)
  | 0x22 => some (decide (a < b))
  | 0x23 => some (decide (a ≤ b))
  | 0x24 => some (decide (a > b))
  | 0x25 => some (decide (a ≥ b))
  | 0x26 => some (decide (signed aw a < signed bw b))
  | 0x27 => some (decide (signed aw a > signed bw b))
  | 0x28 => some (Nat.land a b != 0)
  | 0x29 => some (bit a u.lsb)
  | 0x2A => some (bit preds (u.srca % 8) && bit preds (u.srcb % 8))
  | 0x2B => some (bit preds (u.srca % 8) || bit preds (u.srcb % 8))
  | _ => none

/-- Sets or clears bit `i`. -/
def setBit (x i : Nat) (v : Bool) : Nat := if bit x i = v then x else if v then x + 2 ^ i else x - 2 ^ i

/-- Writes the field [lsb + w - 1 : lsb] of a number. -/
def setField (x lsb w v : Nat) : Nat := x - bits x lsb w * 2 ^ lsb + v % 2 ^ w * 2 ^ lsb

/-- The Manifest and the asks as a Line's run leaves them. -/
structure LineRun where
  m : Manifest
  ask : LineAsk := {}
  ledgers : List LedgerInst := []
  /-- State of the Line's generator, and the counter of free values from which its draws are told apart (R182). -/
  rnd : BitVec 64 := 0
  free : Nat := 0
deriving DecidableEq, Repr

/-- Adds a commit-point request, at most two in all (R178, R493). -/
def addReq (k : LineAsk) (r : CommitReq) : LineAsk :=
  if k.reqs.length < 2 then { k with reqs := k.reqs ++ [r] } else { k with overflow := k.overflow + 1 }

/-- Names a mirror session: the first two distinct ones are kept (R181). -/
def addMirror (k : LineAsk) (sess : Nat) : LineAsk :=
  if k.mirrors.contains sess then k
  else if k.mirrors.length < 2 then { k with mirrors := k.mirrors ++ [sess] }
  else { k with overflow := k.overflow + 1 }

/-- A primary action: once DROP has taken effect nothing replaces it (R180). -/
def setDisp (m : Manifest) (kind target : Nat) : Manifest :=
  if m.dispKind = 5 then m else { m with dispKind := kind, dispTarget := target % 2 ^ 16 }

/-- One micro-operation of a bundle (R175 to R181): sources from the Manifest `m0` at the Course's entry, effects added
to the run. `key` is the Course's key for LEARN. -/
def runUop (c : Course) (res : CourseRes) (time : List Nat) (key keyBits : Nat) (m0 : Manifest) (u : UOp) (r : LineRun) :
    LineRun :=
  if !condHolds m0.preds u.cond then r
  else
    let aw := opWidth u.srca
    let a := readOp m0 res u.srca
    let signedCmp := u.opc = 0x26 ∨ u.opc = 0x27
    let bw := if u.imm then (if signedCmp then 16 else 32) else opWidth u.srcb
    let b := if u.imm then u.imm16 else readOp m0 res u.srcb
    match predResult u m0.preds aw bw a b with
    | some p => { r with m := { r.m with preds := setBit r.m.preds (u.dst % 8) p } }
    | none =>
      let (lsb, fw) := destField u
      let d := bits (readOp m0 res u.dst) lsb fw
      let rnd := Config.rndStep r.rnd r.free
      match aluResult u c aw bw a b d fw (Config.rndWord rnd).toNat time with
      | some v =>
        let r := if u.opc = 0x1D then { r with rnd := rnd, free := r.free + 1 } else r
        { r with m := writeOp r.m u.dst (setField (readOp r.m res u.dst) lsb fw v) }
      | none =>
        match u.opc with
        | 0x2D => { r with ask := { r.ask with csums := r.ask.csums ++ [(u.imm16 % 32, u.imm16 / 32 % 8)] } }
        | 0x30 => { r with m := { r.m with hv := setBit r.m.hv (b % 32) true } }
        | 0x31 => { r with m := { r.m with hv := setBit r.m.hv (b % 32) false } }
        | 0x33 => { r with ask := addReq r.ask { kind := u.imm16 / 2 ^ 12, offset := u.imm16 % 2 ^ 12 } }
        | 0x34 => { r with ask := addReq r.ask { kind := 0, offset := u.imm16 % 2 ^ 12 } }
        | 0x35 => { r with ask := { r.ask with learns := r.ask.learns ++ [{ table := c.table, key := key, keyBits := keyBits, value := a }] } }
        | 0x38 => { r with m := setDisp r.m (u.lsb + 1) b }
        | 0x39 => { r with m := setDisp r.m 4 b }
        | 0x3A =>
          if r.m.dispKind = 5 then r
          else { r with m := { r.m with dispKind := 5, dispTarget := 0, dropReason := 0x8000 + b % 2 ^ 15 } }
        | 0x3B => { r with m := setDisp r.m 6 b }
        | 0x3C => { r with m := { r.m with trapReason := 0x8000 + b % 2 ^ 15 },
                           ask := { r.ask with hostCopy := some (u.lsb, 0x8000 + b % 2 ^ 15) } }
        | 0x3D => { r with ask := addMirror r.ask b }
        | _ => r

/-- The micro-operations of a bundle in order. -/
def runUops (c : Course) (res : CourseRes) (time : List Nat) (key keyBits : Nat) (m0 : Manifest) :
    List Nat → LineRun → LineRun
  | [], r => r
  | x :: xs, r => runUops c res time key keyBits m0 xs (runUop c res time key keyBits m0 (uop x) r)

/-- The key of a list of selectors: its value and its width, selector 0 most significant (R166). -/
def keyOf (m : Manifest) : List Nat → Nat × Nat
  | [] => (0, 0)
  | c :: cs => let k := keyOf m cs; (readOp m {} c * 2 ^ k.2 + k.1, opWidth c + k.2)

/-- The selectors a hash mask names (R171). -/
def maskedSels : List Nat → Nat → Nat → List Nat
  | [], _, _ => []
  | c :: cs, mask, i => if bit mask i then c :: maskedSels cs mask (i + 1) else maskedSels cs mask (i + 1)

/-- The output of a hash unit (R171). `keys` are the hash key slots, `none` where a slot holds no key. -/
def hashUnit (keys : List (Option (BitVec 128))) (m : Manifest) (fn mask : Nat) (sels : List Nat) : Nat :=
  let k := keyOf m (maskedSels sels mask 0)
  let bs := beBytes ((k.2 + 7) / 8) k.1
  match fn with
  | 0 => 0
  | 1 => (crc32 bs).toNat
  | 2 => (crc32c bs).toNat
  | 3 => (crc32k bs).toNat
  | _ => match nth none keys (fn - 4) with
    | some key => (sipHash key bs).toNat
    | none => 0

/-- A Ledger entry after an operation, and the operation's result (R172). -/
def ledgerOp (op w entry value compare : Nat) : Nat × Nat :=
  let new := match op with
    | 0x2 => value % 2 ^ w
    | 0x3 => (entry + value) % 2 ^ w
    | 0x4 => if entry + value ≥ 2 ^ w then 2 ^ w - 1 else entry + value
    | 0x5 => if entry ≤ value then entry else value
    | 0x6 => if entry ≤ value then value else entry
    | 0x7 => if entry = compare then value else entry
    | 0x8 => Nat.lor entry value
    | _ => entry
  match op with
  | 0 => (entry, 0)
  | 0x7 => (new, entry % 2 ^ 32)
  | _ => (new, new % 2 ^ 32)

/-- The Ledger and index that a descriptor of a Course reads, if its operation is carried out (R172). -/
def ledgerTarget (binds : Sparse Nat) (m : Manifest) (res : CourseRes) (d : LedgerDesc) (ls : List LedgerInst) :
    Option (LedgerInst × Nat) :=
  if d.op = 0 ∨ !condHolds m.preds d.cond then none
  else
    match sfind binds d.ledger with
    | none => none
    | some iid =>
      match ls.find? (fun l => l.iid = iid) with
      | none => none
      | some l => some (l, readOp m res d.index % l.decl.entries)

/-- Runs one Ledger descriptor of a Course (R172): the Ledgers afterwards and the result. `bad` says the word read was
still bad on repeat, so the operation is applied to an entry of 0 (R262). -/
def runLedger (binds : Sparse Nat) (m : Manifest) (res : CourseRes) (d : LedgerDesc) (bad : Bool) (ls : List LedgerInst) :
    List LedgerInst × Nat :=
  match ledgerTarget binds m res d ls with
  | none => (ls, 0)
  | some (l, i) =>
    let value := if d.value = 0x1FF then d.imm else readOp m res d.value
    let old := if bad then 0 else sget 0 l.vals i
    let r := ledgerOp d.op (if l.decl.wide then 64 else 32) old value (readOp m res d.compare)
    (ls.map (fun x => if x.iid = l.iid then { x with vals := sput 0 x.vals i r.1 } else x), r.2)

/-- What a Ledger unit of a Course notes of its operation. -/
def ledgerNote (binds : Sparse Nat) (m : Manifest) (res : CourseRes) (d : LedgerDesc) (n unit : Nat) (ls : List LedgerInst) :
    List (Nat × Nat × Nat × Nat) :=
  match ledgerTarget binds m res d ls with
  | none => []
  | some (l, i) => [(n, unit, l.iid, i)]

/-- The micro-operations of an action ID, none where the bundle directory gives it no bundle (R169, R175). -/
def bundleOps (c : Course) (action : Nat) : List Nat :=
  match c.bundles[action]? with
  | some (start, len) => slice c.actions start len
  | none => []

/-- What a Line gives a run: its bindings, tables, hash keys, times and the parity met in each Course. -/
structure LineEnv where
  insts : List Inst
  binds : Sparse Nat
  lbinds : Sparse Nat
  /-- The frame is of the current epoch (R241). -/
  cur : Bool
  hashKeys : List (Option (BitVec 128))
  /-- Nanoseconds, seconds low and high, fraction (TSREAD). -/
  time : List Nat
  /-- Ledger operations, as (Course, unit), whose word is bad on repeat (R262). -/
  badLedgers : List (Nat × Nat) := []
  /-- Corrupted TCAM slices (R261). -/
  odd : List (Nat × Nat × Bool) := []
deriving DecidableEq, Repr

/-- A Course after its lookup, hashes and Ledgers, before its bundle (R157). -/
structure CourseMid where
  m : Manifest
  hit : Bool
  action : Nat
  res : CourseRes
  key : Nat × Nat
  ledgers : List LedgerInst
  hits : List (Nat × Nat)
  reads : List (Nat × Nat)
  notes : List (Nat × Nat × Nat × Nat)

/-- Lookup, hash units and Ledger units of a Course (R165 to R173). -/
def courseMid (env : LineEnv) (tables : List TableDecl) (n : Nat) (c : Course) (r : LineRun) : CourseMid :=
  let m0 := { r.m with preds := setBit (setBit r.m.preds 0 true) 1 false }
  let k := keyOf m0 c.sels
  let lk : LookupOut :=
    if c.lookup = 0 then {}
    else courseLookup env.insts env.binds env.odd (tables.find? (fun d => d.id = c.table)) c.lookup c.table k.1
      (match c.sels with | s :: _ => readOp m0 {} s | [] => 0) env.cur
  let m1 := { m0 with preds := setBit m0.preds 1 lk.res.hit }
  let res0 : CourseRes := { ad := lk.res.ad, hash0 := hashUnit env.hashKeys m0 c.hash0 c.mask0 c.sels % 2 ^ 32,
                            hash1 := hashUnit env.hashKeys m0 c.hash1 c.mask1 c.sels }
  let l0 := runLedger env.lbinds m1 res0 c.ledger0 (env.badLedgers.contains (n, 0)) r.ledgers
  let l1 := runLedger env.lbinds m1 res0 c.ledger1 (env.badLedgers.contains (n, 1)) l0.1
  { m := m1, hit := lk.res.hit, action := lk.res.action, res := { res0 with lg0 := l0.2, lg1 := l1.2 }, key := k, ledgers := l1.1
    hits := (match lk.hit with | some h => [h] | none => []), reads := lk.reads
    notes := ledgerNote env.lbinds m1 res0 c.ledger0 n 0 r.ledgers ++ ledgerNote env.lbinds m1 res0 c.ledger1 n 1 l0.1 }

/-- The tails of the instances that a Course has set invalid are lost (R196). -/
def loseTails (hv : Nat) (r : LineRun) : LineRun :=
  { r with ask := { r.ask with lost := Nat.lor r.ask.lost (hv - Nat.land hv r.m.hv) } }

/-- The bundle of a Course (R169, R175). -/
def courseEnd (env : LineEnv) (n : Nat) (c : Course) (d : CourseMid) (r : LineRun) : LineRun :=
  let ops := if d.hit then bundleOps c d.action else if c.missBundle = 0xFF then [] else bundleOps c c.missBundle
  let r1 : LineRun := { r with m := d.m, ledgers := d.ledgers,
                               ask := { r.ask with hits := r.ask.hits ++ d.hits,
                                                   hitCourses := if d.hit then r.ask.hitCourses ++ [n] else r.ask.hitCourses,
                                                   lreads := r.ask.lreads ++ d.notes, reads := r.ask.reads ++ d.reads } }
  loseTails d.m.hv (runUops c d.res env.time d.key.1 d.key.2 d.m ops r1)

/-- One Course on one frame (R157, R165 to R175). -/
def runCourse (env : LineEnv) (tables : List TableDecl) (n : Nat) (c : Course) (r : LineRun) : LineRun :=
  courseEnd env n c (courseMid env tables n c r) r

/-- The Courses of a Line in numerical order (R155). -/
def runCourses (env : LineEnv) (tables : List TableDecl) : Nat → List Course → LineRun → LineRun
  | _, [], r => r
  | n, c :: cs, r => runCourses env tables (n + 1) cs (runCourse env tables n c r)

end Sys2Proof.Machine
end

