-- ==== Sys2Proof/Machine/Image.lean ====
section
/-!
DEFINITION. Program images: the decoding of the payload of PROGRAM_LOAD (R189) and the checks of R190, in the order of
its card. A check answers the first error found: error code, Course number (0xFF for none), word index or byte offset.
-/

namespace Sys2Proof.Machine

/-- An image error: code, Course, word index or byte offset (R190). -/
abbrev ImgErr := Nat × Nat × Nat

/-- The first error of a list of checks. -/
def firstErr : List (Option ImgErr) → Option ImgErr
  | [] => none
  | some e :: _ => some e
  | none :: m => firstErr m

/-- An error unless the condition holds. -/
def need (c : Bool) (e : ImgErr) : Option ImgErr := if c then none else some e

/-- One section table entry (R189). -/
structure Sect where
  type : Nat
  index : Nat
  off : Nat
  len : Nat
  rsv : Nat
deriving DecidableEq, Repr

/-- The section table of an image (R189). -/
def sections (img : List Byte) : List Sect :=
  (span 0 (leAt img 0x0C 2)).map (fun i =>
    let e := slice img (0x40 + 16 * i) 16
    { type := leAt e 0 2, index := leAt e 2 2, off := leAt e 4 4, len := leAt e 8 4, rsv := leAt e 12 4 })

/-- The bytes of a section, empty where the image has none. -/
def sectBytes (img : List Byte) (ss : List Sect) (type index : Nat) : List Byte :=
  match ss.find? (fun s => s.type = type && s.index = index) with
  | some s => slice img s.off s.len
  | none => []

/-- Little-endian words of `w` bytes. -/
def leWords (w : Nat) : Nat → List Byte → List Nat
  | 0, _ => []
  | n + 1, bs => leNat (bs.take w) :: leWords w n (bs.drop w)

/-- All the words of `w` bytes of a byte string. -/
def wordsOf (w : Nat) (bs : List Byte) : List Nat := leWords w (bs.length / w) bs

/-- Records of `w` bytes. -/
def records (w : Nat) : Nat → List Byte → List (List Byte)
  | 0, _ => []
  | n + 1, bs => bs.take w :: records w n (bs.drop w)

/-- A Ledger descriptor (R189). -/
def ledgerDesc (b : List Byte) : LedgerDesc :=
  { op := leAt b 0 1, ledger := leAt b 1 1, index := leAt b 2 2, value := leAt b 4 2, compare := leAt b 6 2,
    wide := leAt b 8 1 != 0, cond := leAt b 9 1 % 16, imm := leAt b 10 2 }

/-- One Course from its sections (R189). -/
def courseOf (img : List Byte) (ss : List Sect) (n : Nat) : Course :=
  let c := sectBytes img ss 1 n
  { lookup := leAt c 0 1, table := leAt c 1 1,
    sels := (wordsOf 2 (slice c 8 48)).take (leAt c 2 1), missBundle := leAt c 3 1,
    hash0 := leAt c 4 1, hash1 := leAt c 5 1, mask0 := leAt c 0x38 4, mask1 := leAt c 0x3C 4,
    ledger0 := ledgerDesc (slice c 0x40 16), ledger1 := ledgerDesc (slice c 0x50 16),
    bundles := (wordsOf 4 (sectBytes img ss 2 n)).map (fun w => (w % 2 ^ 16, bits w 16 8)),
    actions := wordsOf 8 (sectBytes img ss 3 n), consts := wordsOf 4 (sectBytes img ss 4 n) }

/-- A table declaration (R237). -/
def tableDeclOf (b : List Byte) : TableDecl :=
  { id := leAt b 0 1, tkind := leAt b 1 1, keyBits := leAt b 2 2, adWords := leAt b 4 1, adMode := leAt b 5 1,
    adTable := leAt b 6 1, tflags := leAt b 7 1, blocks := leAt b 8 1, learnAction := leAt b 9 1, evq := leAt b 10 1,
    pfxWidth := leAt b 11 1, pfxLsb := leAt b 12 2, agePeriod := leAt b 14 2, hseed := leAt b 16 4,
    entries := leAt b 20 4, missAd := wordsOf 4 (slice b 0x20 32) }

/-- A Ledger declaration (R238). -/
def ledgerDeclOf (b : List Byte) : LedgerDecl :=
  { id := leAt b 0 1, wide := leAt b 1 1 != 0, evq := leAt b 2 1, entries := leAt b 4 4 }

/-- The table declarations of an image. -/
def tableDecls (img : List Byte) (ss : List Sect) : List TableDecl :=
  let b := sectBytes img ss 7 0
  (records 64 (b.length / 64) b).map tableDeclOf

/-- The Ledger declarations of an image. -/
def ledgerDecls (img : List Byte) (ss : List Sect) : List LedgerDecl :=
  let b := sectBytes img ss 8 0
  (records 16 (b.length / 16) b).map ledgerDeclOf

/-- The operand lists of the header instance map (R189). -/
def headersOf (img : List Byte) (ss : List Sect) : List (List Nat) :=
  let b := sectBytes img ss 5 0
  (span 0 32).map (fun i => (wordsOf 2 (slice b (leAt b (4 * i) 2) (2 * leAt b (4 * i + 2) 1))))

/-- The program a checked image holds (R189). -/
def progOf (img : List Byte) : Prog :=
  let ss := sections img
  { egress := leAt img 6 1 != 0, progId := BitVec.ofNat 32 (leAt img 0x10 4), crc := BitVec.ofNat 32 (leAt img 0x18 4),
    courses := (span 0 (leAt img 0x0E 1)).map (courseOf img ss), headers := headersOf img ss,
    deparse := (sectBytes img ss 6 0).map (·.toNat), tables := tableDecls img ss, ledgers := ledgerDecls img ss }

/-- Header, length, CRC and section table (R189; errors 0x01 to 0x03). -/
def checkHeader (img : List Byte) (payloadLen : Nat) : Option ImgErr :=
  let ss := sections img
  let ixs := (span 0 ss.length).zip ss
  let tableEnd := 0x40 + 16 * leAt img 0x0C 2
  let maxCourses := if leAt img 6 1 = 0 then 20 else 16
  let zeroCrc := img.take 0x18 ++ repl 4 0 ++ img.drop 0x1C
  firstErr [
    need (img.length ≥ 64) (1, 0xFF, 0),
    need (leAt img 0 4 = 0x4E4C524E) (1, 0xFF, 0),
    need (leAt img 4 2 = 1) (1, 0xFF, 4),
    need (leAt img 6 1 ≤ 1) (1, 0xFF, 6),
    need (leAt img 7 1 = 0) (1, 0xFF, 7),
    need (leAt img 8 4 = payloadLen) (2, 0xFF, 8),
    need (leAt img 0x0F 1 = 0) (1, 0xFF, 0x0F),
    need (allZero (slice img 0x1C 36)) (1, 0xFF, 0x1C),
    need ((crc32 zeroCrc).toNat = leAt img 0x18 4) (2, 0xFF, 0x18),
    need (1 ≤ leAt img 0x0C 2 && leAt img 0x0C 2 ≤ 256 && tableEnd ≤ img.length) (1, 0xFF, 0x0C),
    firstErr (ixs.map (fun (i, s) => need (s.off % 8 = 0 && tableEnd ≤ s.off && s.off + s.len ≤ img.length && s.rsv = 0
        && 1 ≤ s.type && s.type ≤ 9 && (s.type ≤ 4 || s.index = 0)) (1, 0xFF, 0x40 + 16 * i))),
    firstErr (ixs.map (fun (i, s) => need ((ss.take i).all (fun a => !(a.type = s.type && a.index = s.index) &&
        (decide (a.off + a.len ≤ s.off) || decide (s.off + s.len ≤ a.off)))) (1, 0xFF, 0x40 + 16 * i))),
    need (1 ≤ leAt img 0x0E 1 && leAt img 0x0E 1 ≤ maxCourses) (3, 0xFF, 0x0E),
    firstErr (ixs.map (fun (i, s) => need (s.type > 4 || s.index < leAt img 0x0E 1) (3, 0xFF, 0x40 + 16 * i))),
    firstErr ((span 0 (leAt img 0x0E 1)).map (fun n => need ((sectBytes img ss 1 n).length = 128) (3, n, 0)))]

/-- The limits of R188 (error 0x04). -/
def checkLimits (img : List Byte) (p : Prog) : Option ImgErr :=
  let ss := sections img
  firstErr [
    need (img.length ≤ 1048576) (4, 0xFF, 0),
    firstErr (ss.map (fun s => firstErr [
      need (s.type ≠ 2 || (s.len % 4 = 0 && s.len ≤ 256)) (4, s.index, 0),
      need (s.type ≠ 3 || (s.len % 8 = 0 && s.len ≤ 4096)) (4, s.index, 0),
      need (s.type ≠ 4 || (s.len % 4 = 0 && s.len ≤ 256)) (4, s.index, 0)])),
    firstErr ((span 0 p.courses.length).map (fun n =>
      match p.courses[n]? with
      | some c => firstErr [need (leAt (sectBytes img ss 1 n) 2 1 ≤ 24) (4, n, 2), need ((keyOf {} c.sels).2 ≤ 512) (4, n, 8)]
      | none => none)),
    need (p.tables.length ≤ 64) (4, 0xFF, 0),
    need (p.ledgers.length ≤ 16) (4, 0xFF, 0),
    need (((p.headers.flatten).map (fun c => opWidth c / 8)).sum ≤ 640) (4, 0xFF, 0)]

/-- The opcodes of R178 allowed in a Line kind. -/
def opcodeAllowed (egress : Bool) (opc : Nat) : Bool :=
  decide (opc ≤ 0x1D) || decide (0x20 ≤ opc ∧ opc ≤ 0x2E) || decide (0x30 ≤ opc ∧ opc ≤ 0x32)
    || (egress && decide (opc = 0x33 ∨ opc = 0x34)) || (!egress && decide (opc = 0x35 ∨ opc = 0x38 ∨ opc = 0x39))
    || decide (0x3A ≤ opc ∧ opc ≤ 0x3D)

/-- The destination field is used, and fits (R174, R176, R178). -/
def destOk (egress : Bool) (u : UOp) : Bool :=
  opWritable egress u.dst && opDefined u.dst &&
    (if u.width = 0 then decide (u.lsb = 0) else decide (u.lsb + u.width ≤ opWidth u.dst))

/-- The destination is unused. -/
def noDest (u : UOp) : Bool := u.dst = 0 && u.width = 0

/-- A predicate destination (R174, R178). -/
def predDest (u : UOp) : Bool := decide (2 ≤ u.dst ∧ u.dst ≤ 7) && u.width = 0

/-- Source A is used. -/
def srcAOk (u : UOp) : Bool := opDefined u.srca

/-- Source B is used (R174). -/
def srcBOk (u : UOp) : Bool := if u.imm then u.srcb = 0 else opDefined u.srcb && u.imm16 = 0

/-- Source B is unused, and AUX lies inside `mask`'s bits. -/
def auxOnly (u : UOp) (mask : Nat) : Bool := !u.imm && u.srcb = 0 && Nat.land u.imm16 mask = u.imm16

/-- The operand rules of one micro-operation (R174, R178; error 0x06). `learnOk` says that the Course may LEARN. -/
def uopOk (egress learnOk : Bool) (u : UOp) : Bool :=
  let da := destOk egress u
  match u.opc with
  | 0x00 => u.dst = 0 && u.srca = 0 && u.lsb = 0 && u.width = 0 && auxOnly u 0
  | 0x02 => da && opWidth u.dst = 32 && u.lsb = 0 && u.width = 0 && u.srca = 0 && u.imm && u.srcb = 0
  | 0x03 => da && decide (0x1C0 ≤ u.srca ∧ u.srca ≤ 0x1C7) && auxOnly u 0x1F
  | 0x04 => da && u.srca = 0 && auxOnly u 0
  | 0x05 => da && u.srca = 0 && u.imm && u.srcb = 0 && u.imm16 ≤ 63
  | 0x1D => da && u.srca = 0 && auxOnly u 0
  | 0x29 => predDest u && srcAOk u && auxOnly u 0
  | 0x2A => predDest u && u.lsb = 0 && u.srca < 8 && u.srcb < 8 && !u.imm && u.imm16 = 0
  | 0x2B => predDest u && u.lsb = 0 && u.srca < 8 && u.srcb < 8 && !u.imm && u.imm16 = 0
  | 0x2D => noDest u && u.lsb = 0 && u.srca = 0 && auxOnly u 0xFF && u.imm16 / 32 ≤ 2
  | 0x30 => noDest u && u.lsb = 0 && u.srca = 0 && srcBOk u
  | 0x31 => noDest u && u.lsb = 0 && u.srca = 0 && srcBOk u
  | 0x32 => da && u.srca = 0 && auxOnly u 3
  | 0x33 => noDest u && u.lsb = 0 && u.srca = 0 && auxOnly u 0xFFFF && decide (1 ≤ u.imm16 / 4096 ∧ u.imm16 / 4096 ≤ 3)
  | 0x34 => noDest u && u.lsb = 0 && u.srca = 0 && auxOnly u 0xFFF
  | 0x35 => noDest u && u.lsb = 0 && srcAOk u && auxOnly u 0 && learnOk
  | 0x38 => noDest u && u.lsb ≤ 2 && u.srca = 0 && srcBOk u
  | 0x3C => noDest u && u.lsb ≤ 15 && u.srca = 0 && srcBOk u
  | _ =>
    if u.opc = 0x39 ∨ 0x3A ≤ u.opc then noDest u && u.lsb = 0 && u.srca = 0 && srcBOk u
    else if 0x20 ≤ u.opc ∧ u.opc ≤ 0x28 then predDest u && u.lsb = 0 && srcAOk u && srcBOk u
    else if u.opc = 0x01 ∨ u.opc = 0x06 ∨ u.opc = 0x07 ∨ u.opc = 0x13 ∨ u.opc = 0x15 ∨ u.opc = 0x16 then
      da && srcAOk u && auxOnly u 0
    else da && srcAOk u && srcBOk u

/-- An operand names `lg0` or `lg1`. -/
def ledgerResult (c : Nat) : Bool := c = 0x1CC || c = 0x1CD

/-- The first field of a Ledger descriptor that breaks R172, by its offset in the descriptor: `lg0` or `lg1` in an operand, used or not,
then what a descriptor with an operation needs. -/
def ledgerDescErr (p : Prog) (raw : List Byte) (d : LedgerDesc) : Option Nat :=
  let decl := p.ledgers.find? (fun l => l.id = d.ledger)
  let names := [(!ledgerResult d.index, 2), (!ledgerResult d.value, 4), (!ledgerResult d.compare, 6)]
  let used := if d.op = 0 then [] else
    [(decide (d.op ≤ 8), 0), (decl.isSome, 1), (opDefined d.index, 2), (d.value = 0x1FF || opDefined d.value, 4),
     (d.op ≠ 7 || opDefined d.compare, 6),
     (leAt raw 8 1 ≤ 1 && (match decl with | some l => l.wide = d.wide | none => false), 8),
     (decide (leAt raw 9 1 ≤ 15), 9), (leAt raw 12 4 = 0, 12)]
  (names ++ used).findSome? (fun (ok, at') => if ok then none else some at')

/-- The Course may run LEARN: its bound table is an EXACT table with LEARN set (R178, R252). -/
def courseLearns (p : Prog) (c : Course) : Bool :=
  c.lookup = 1 && (match p.tables.find? (fun t => t.id = c.table) with | some t => bit t.tflags 1 | none => false)

/-- Micro-operations, selectors and descriptors of one Course (errors 0x05, 0x06). -/
def checkCourse (img : List Byte) (p : Prog) (n : Nat) (c : Course) : Option ImgErr :=
  let raw := sectBytes img (sections img) 1 n
  let selsAll := wordsOf 2 (slice raw 8 48)
  let count := leAt raw 2 1
  let kindOk := match p.tables.find? (fun t => t.id = c.table) with
    | some t => (c.lookup = 1 && t.tkind = 1) || (c.lookup = 2 && (t.tkind = 2 || t.tkind = 3)) || (c.lookup = 3 && t.tkind = 4)
    | none => false
  firstErr (
    [need (c.lookup ≤ 3 && (c.lookup ≠ 0 || c.table = 0)) (6, n, 0),
     need (c.missBundle ≤ 63 || c.missBundle = 0xFF) (6, n, 3),
     need (c.hash0 ≤ 7 && c.hash1 ≤ 7 && leAt raw 6 2 = 0) (6, n, 4),
     need (c.lookup ≠ 3 || 1 ≤ count) (6, n, 2),
     need (c.sels.all (fun s => opDefined s && s < 0x1C0)) (6, n, 8),
     need ((selsAll.drop count).all (· = 0)) (6, n, 8),
     need (c.mask0 < 2 ^ count && c.mask1 < 2 ^ count) (6, n, 0x38),
     (ledgerDescErr p (slice raw 0x40 16) c.ledger0).map (fun k => (6, n, 0x40 + k)),
     (ledgerDescErr p (slice raw 0x50 16) c.ledger1).map (fun k => (6, n, 0x50 + k)),
     need (c.ledger0.op = 0 || c.ledger1.op = 0 || c.ledger0.ledger ≠ c.ledger1.ledger) (6, n, 0x51),
     need (allZero (slice raw 0x60 32)) (6, n, 0x60),
     need (c.lookup = 0 || kindOk) (6, n, 1)] ++
    (span 0 c.actions.length).map (fun i =>
      let u := uop (nth 0 c.actions i)
      firstErr [need (opcodeAllowed p.egress u.opc) (5, n, i), need (uopOk p.egress (courseLearns p c) u) (6, n, i)]))

/-- Bundle directories (R189; error 0x07). -/
def checkBundles (img : List Byte) (n : Nat) (c : Course) : Option ImgErr :=
  let dir := wordsOf 4 (sectBytes img (sections img) 2 n)
  firstErr ((span 0 dir.length).map (fun i =>
    let w := nth 0 dir i
    let start := w % 2 ^ 16
    let len := bits w 16 8
    need (w = 0 || (bits w 24 8 = 0 && 1 ≤ len && len ≤ 16 && start + len ≤ c.actions.length)) (7, n, i)))

/-- Header map and DEPARSE, where the image has them (R189; error 0x08). -/
def checkHeaderMap (img : List Byte) (p : Prog) : Option ImgErr :=
  let ss := sections img
  let has (t : Nat) : Bool := ss.any (fun s => s.type = t)
  let b := sectBytes img ss 5 0
  let d := sectBytes img ss 6 0
  firstErr [
    need (!has 5 || b.length ≥ 128) (8, 0xFF, 0),
    firstErr ((span 0 32).map (fun i =>
      let cs := nth [] p.headers i
      need (!has 5 || (leAt b (4 * i + 2) 1 ≤ 64 && cs.length = leAt b (4 * i + 2) 1
        && cs.all (fun c => c < 0x100) && (cs.map (fun c => opWidth c / 8)).sum = leAt b (4 * i + 3) 1)) (8, 0xFF, 4 * i))),
    need ((!has 6 || 1 ≤ d.length) && d.length ≤ 32 && p.deparse.all (· ≤ 31) && decide (p.deparse.Nodup)) (8, 0xFF, 0)]

/-- The first field of a table declaration that breaks R237 or R239, by its offset in the record. -/
def tableDeclErr (p : Prog) (raw : List Byte) (d : TableDecl) : Option Nat :=
  let keyed := d.tkind = 1 || d.tkind = 2 || d.tkind = 3
  let adw := if d.tkind = 5 then 0 else if d.adMode = 1 then
      (match p.tables.find? (fun t => t.id = d.adTable) with | some t => t.adWords | none => 0) else d.adWords
  let learns := bit d.tflags 1
  [(decide (d.id ≤ 63), 0), (decide (1 ≤ d.tkind ∧ d.tkind ≤ 5), 1),
   ((if keyed then decide (1 ≤ d.keyBits ∧ d.keyBits ≤ 512) else d.keyBits = 0) &&
     p.courses.all (fun c => c.lookup = 0 || c.lookup = 3 || c.table ≠ d.id || (keyOf {} c.sels).2 = d.keyBits) &&
     (d.tkind ≠ 1 || exactBytes d ≤ 128), 2),
   ((match d.tkind with
      | 1 => d.adWords ≤ 8 | 2 => d.adWords ≤ 1 | 3 => d.adWords ≤ 1 | 4 => d.adWords ≤ 8
      | _ => decide (1 ≤ d.adWords ∧ d.adWords ≤ 8)), 4),
   (d.adMode ≤ 1 && (d.adMode = 0 || (keyed && d.adWords = 0)), 5),
   ((if d.adMode = 1 then (match p.tables.find? (fun t => t.id = d.adTable) with | some t => t.tkind = 5 | none => false)
      else d.adTable = 0), 6),
   (d.tflags < 8 && (!bit d.tflags 0 || d.tkind = 1) &&
     (!learns || (d.tkind = 1 && !p.egress && d.adMode = 0 && 1 ≤ d.adWords)) && (!bit d.tflags 2 || learns), 7),
   ((match d.tkind with
      | 1 => d.blocks % 4 = 0 && decide (4 ≤ d.blocks ∧ d.blocks ≤ 40)
      | 2 => decide (1 ≤ d.blocks ∧ d.blocks ≤ 48) | 3 => decide (1 ≤ d.blocks ∧ d.blocks ≤ 48) | _ => d.blocks = 0), 8),
   (d.learnAction ≤ 63 && (learns || d.learnAction = 0), 9), (d.evq ≤ 15 || d.evq = 0xFF, 10),
   ((if d.tkind = 2 then decide (1 ≤ d.pfxWidth ∧ d.pfxWidth ≤ 128) else d.pfxWidth = 0), 11),
   ((if d.tkind = 2 then decide (d.pfxLsb + d.pfxWidth ≤ d.keyBits) else d.pfxLsb = 0), 12),
   ((if bit d.tflags 0 then decide (1 ≤ d.agePeriod) else d.agePeriod = 0), 14), (d.tkind = 1 || d.hseed = 0, 16),
   ((match d.tkind with
      | 4 => decide (2 ≤ d.entries ∧ d.entries ≤ 1048576) && popcount 21 d.entries = 1
      | 5 => decide (1 ≤ d.entries ∧ d.entries ≤ 1048576)
      | _ => d.entries = 0), 20),
   (allZero (slice raw 0x18 8), 0x18),
   ((d.missAd.drop adw).all (· = 0), 0x20 + 4 * adw)].findSome? (fun (ok, at') => if ok then none else some at')

/-- The same of a Ledger declaration (R238). -/
def ledgerDeclErr (raw : List Byte) (d : LedgerDecl) : Option Nat :=
  [(decide (d.id ≤ 15), 0), (decide (leAt raw 1 1 ≤ 1), 1), (d.evq ≤ 15 || d.evq = 0xFF, 2), (leAt raw 3 1 = 0, 3),
   (decide (2 ≤ d.entries ∧ d.entries ≤ 1048576) && popcount 21 d.entries = 1, 4),
   (allZero (slice raw 8 8), 8)].findSome? (fun (ok, at') => if ok then none else some at')

/-- The first record of a list that repeats the ID of an earlier one. -/
def repeated (ids : List Nat) : Option Nat :=
  (span 0 ids.length).find? (fun i => (ids.take i).contains (nth 0 ids i))

/-- Table and Ledger declarations (R237, R238; error 0x09). -/
def checkDecls (img : List Byte) (p : Prog) : Option ImgErr :=
  let ss := sections img
  let tb := sectBytes img ss 7 0
  let lb := sectBytes img ss 8 0
  let each (len : Nat) (err : Nat → Option Nat) (n : Nat) : Option ImgErr :=
    firstErr ((span 0 n).map (fun i => (err i).map (fun k => (9, 0xFF, len * i + k))))
  firstErr [
    need (tb.length % 64 = 0 && lb.length % 16 = 0) (9, 0xFF, 0),
    (repeated (p.tables.map (·.id))).map (fun i => (9, 0xFF, 64 * i)),
    (repeated (p.ledgers.map (·.id))).map (fun i => (9, 0xFF, 16 * i)),
    each 64 (fun i => (p.tables[i]?).bind (tableDeclErr p (slice tb (64 * i) 64))) p.tables.length,
    each 16 (fun i => (p.ledgers[i]?).bind (ledgerDeclErr (slice lb (16 * i) 16))) p.ledgers.length]

/-- The checks of R190 on an image, in the order of its card. -/
def checkImage (img : List Byte) (payloadLen : Nat) : Option ImgErr :=
  match checkHeader img payloadLen with
  | some e => some e
  | none =>
    let p := progOf img
    let cs := (span 0 p.courses.length).zip p.courses
    firstErr [checkLimits img p, firstErr (cs.map (fun x => checkCourse img p x.1 x.2)),
      firstErr (cs.map (fun x => checkBundles img x.1 x.2)), checkHeaderMap img p, checkDecls img p]

end Sys2Proof.Machine
end

