-- ==== Sys2Proof/Machine/Parser.lean ====
section
/-!
DEFINITION. The parser (R191 to R202), the graph image and its checks (R205, R206), and the deparser (R184, R185,
R196) with its checksum fixes (R178 CSUM_MARK).
-/

namespace Sys2Proof.Machine

/-- A state record of a graph image (R205). -/
def gstateOf (b : List Byte) : GState :=
  { inst := leAt b 0 1, fragKind := leAt b 1 1, accept := leAt b 2 1 = 1, lenVar := bit (leAt b 3 1) 0,
    totCheck := bit (leAt b 3 1) 1, fixedLen := leAt b 4 2, minLen := leAt b 6 2, maxLen := leAt b 8 2,
    lenOff := leAt b 0x0A 1, lenShift := leAt b 0x0B 1, lenMask := leAt b 0x0C 2, lenMul := leAt b 0x0E 1,
    totOff := leAt b 0x10 1, totAdd := leAt b 0x12 2, sel0 := leAt b 0x14 2, sel1 := leAt b 0x16 2,
    setDst := leAt b 0x18 2, setVal := leAt b 0x1A 2 }

/-- A transition entry of a graph image (R205). -/
def gtransOf (b : List Byte) : GTrans :=
  { state := leAt b 0 1, next := leAt b 1 1, tact := leAt b 2 1, value := leAt b 4 4, mask := leAt b 8 4 }

/-- The graph an image holds (R205). -/
def graphOf (img : List Byte) : Graph :=
  let n := leAt img 0x0C 2
  let k := leAt img 0x0E 2
  { egress := leAt img 6 1 != 0, graphId := BitVec.ofNat 32 (leAt img 0x10 4), crc := BitVec.ofNat 32 (leAt img 0x18 4),
    states := (records 32 n (img.drop 0x40)).map gstateOf,
    trans := (records 16 k (img.drop (0x40 + 32 * n))).map gtransOf }

/-- A select descriptor is well formed (R197). -/
def selectOk (d : Nat) : Bool :=
  bits d 9 5 = 0 && (match d / 2 ^ 14 with
    | 0 => d = 0
    | 3 => decide (0x181 ≤ d % 512 ∧ d % 512 ≤ 0x183)
    | _ => true)

/-- The largest header length a state allows for its TOT_OFF (R205 states the least L that must hold it). -/
def leastLen (s : GState) : Nat := if s.lenVar then s.minLen else s.fixedLen

/-- One state record (R205; error 0x03). -/
def gstateOk (raw : List Byte) (s : GState) : Bool :=
  (s.inst ≤ 31 || s.inst = 0xFF) && s.fragKind ≤ 2 && leAt raw 2 1 ≤ 1 && leAt raw 3 1 ≤ 3
  && (s.inst ≠ 0xFF || (s.fragKind = 0 && leAt raw 3 1 = 0 && s.fixedLen = 0))
  && (if s.inst = 0xFF then true else if s.lenVar then s.fixedLen ≤ 512 else decide (1 ≤ s.fixedLen ∧ s.fixedLen ≤ 512))
  && (if s.lenVar then decide (2 ≤ s.minLen ∧ s.minLen ≤ 512 ∧ s.minLen ≤ s.maxLen ∧ s.maxLen ≤ 512) && s.lenOff + 2 ≤ s.minLen
      else s.minLen = 0 && s.maxLen = 0 && s.lenOff = 0)
  && s.lenShift ≤ 15 && s.lenMul ≤ 4 && leAt raw 0x0F 1 = 0 && leAt raw 0x11 1 = 0
  && (if s.totCheck then s.totOff + 2 ≤ leastLen s else s.totOff = 0)
  && selectOk s.sel0 && selectOk s.sel1
  && (s.setDst ≤ 0xFF || s.setDst = 0x1FF)
  && (if s.setDst = 0x1FF then s.setVal = 0 else s.setVal < 2 ^ opWidth s.setDst)
  && leAt raw 0x1C 4 = 0

/-- One transition entry (R205; error 0x04). -/
def gtransOk (count : Nat) (raw : List Byte) (t : GTrans) : Bool :=
  t.state < count && t.tact ≤ 2 && (if t.tact = 0 then t.next < count else t.next = 0) && leAt raw 3 1 = 0
  && Nat.land t.value t.mask = t.value && leAt raw 0x0C 4 = 0

/-- The checks of PARSER_LOAD on an image (R206): error code and index. -/
def checkGraph (img : List Byte) (payloadLen : Nat) : Option (Nat × Nat) :=
  let n := leAt img 0x0C 2
  let k := leAt img 0x0E 2
  let zeroCrc := img.take 0x18 ++ repl 4 0 ++ img.drop 0x1C
  let toPair : Option ImgErr → Option (Nat × Nat) := fun e => e.map (fun x => (x.1, x.2.2))
  let g := graphOf img
  toPair (firstErr [
    need (img.length ≥ 64) (1, 0, 0),
    need (leAt img 0 4 = 0x4750524E && leAt img 4 2 = 1 && leAt img 6 1 ≤ 1 && leAt img 7 1 = 0
      && allZero (slice img 0x1C 36)) (1, 0, 0),
    need (decide (1 ≤ n ∧ n ≤ 256) && k ≤ 1024) (1, 0, 0),
    need (leAt img 8 4 = payloadLen && payloadLen = 64 + 32 * n + 16 * k && img.length = payloadLen) (2, 0, 0),
    need ((crc32 zeroCrc).toNat = leAt img 0x18 4) (2, 0, 0),
    firstErr ((span 0 n).map (fun i =>
      match g.states[i]? with
      | some s => firstErr [need (gstateOk (slice img (0x40 + 32 * i) 32) s) (3, 0, i),
          need (!g.egress || s.setDst < 0xF8 || s.setDst = 0x1FF) (5, 0, i)]
      | none => none)),
    firstErr ((span 0 k).map (fun i =>
      match g.trans[i]? with
      | some t => need (gtransOk n (slice img (0x40 + 32 * n + 16 * i) 16) t) (4, 0, i)
      | none => none))])

/-- Parse outcomes: REASON of R200. -/
def parseField (outer : Bool) (frag reason state : Nat) : Nat :=
  pack [(15, 1, b2n outer), (13, 2, frag), (8, 4, reason), (0, 8, state)]

/-- The parser at work on one frame. -/
structure ParseRun where
  m : Manifest
  ptr : Nat := 0
  visits : Nat := 0
  writes : Nat := 0
  /-- Tail of each extracted instance (R196). -/
  tails : List (Nat × List Byte) := []
  /-- Where each instance stood in the frame as it entered: offset and length. -/
  origs : List (Nat × Nat × Nat) := []
  /-- Parity errors met in graph memory whose repeat was clean (R202). -/
  clean : Nat := 0
deriving DecidableEq, Repr

/-- The 16-bit network-order field at a byte offset. -/
def be16At (f : List Byte) (off : Nat) : Nat := beNat (padTo 2 0 (slice f off 2))

/-- A select value (R197): bytes past the frame or past the window of 512 bytes read 0. -/
def selectVal (f : List Byte) (m : Manifest) (s d : Nat) : Nat :=
  let w := f.take 512
  let a := d % 512
  match d / 2 ^ 14 with
  | 0 => 0
  | 1 => beNat (padTo 2 0 (slice w (s + a) 2))
  | 2 => beNat (padTo 1 0 (slice w (s + a) 1))
  | _ => match a with
    | 0x181 => m.pass
    | 0x182 => m.inPort
    | _ => m.origin

/-- Writes header bytes into an instance's containers; in an egress Line the bridge containers keep their value
(R164, R196). -/
def extractTo (egress : Bool) : List Nat → List Byte → Manifest → Manifest
  | [], _, m => m
  | c :: cs, bs, m =>
    let n := opWidth c / 8
    let m' := if egress ∧ 0xF8 ≤ c ∧ c < 0x100 then m else writeOp m c (beNat (bs.take n))
    extractTo egress cs (bs.drop n) m'

/-- Fragment test of R199: 2 for a first fragment, 1 for a later one, 0 for none (bits [14:13] of `parse`). -/
def fragTest (kind : Nat) (h : List Byte) : Nat :=
  match kind with
  | 1 => let v := be16At h 6
         if bit v 13 ∨ v % 2 ^ 13 ≠ 0 then (if v % 2 ^ 13 = 0 then 2 else 1) else 0
  | 2 => if be16At h 2 / 8 = 0 then 2 else 1
  | _ => 0

/-- Ends the parse, writing `parse` (R200). -/
def parseStop (r : ParseRun) (outer : Bool) (frag reason state : Nat) : ParseRun :=
  { r with m := { r.m with parse := parseField outer frag reason state } }

/-- The parity errors met in a state record, or in the transition entries, at the parser's present visit (R202): the run with the clean
ones counted, and whether one was still bad on repeat. -/
def meetGraph (ds : List (Nat × Bool × Repeat)) (transition : Bool) (r : ParseRun) : ParseRun × Bool :=
  let here := ds.filter (fun d => d.1 = r.visits && d.2.1 == transition)
  ({ r with clean := r.clean + (here.filter (fun d => d.2.2 = .clean)).length }, here.any (fun d => d.2.2 = .bad))

/-- The parse of R194 from one state on. -/
def parseFrom (egress : Bool) (g : Graph) (headers : List (List Nat)) (f : List Byte) (ds : List (Nat × Bool × Repeat)) :
    Nat → Nat → ParseRun → ParseRun
  | 0, st, r => parseStop r true 0 1 st
  | fuel + 1, st, r =>
    match g.states[st]? with
    | none => parseStop r true 0 4 st
    | some s =>
      let S := r.ptr
      let F := f.length
      let (r, bad) := meetGraph ds false { r with visits := r.visits + 1 }
      if bad then parseStop r true 0 5 st
      else if r.visits > 24 then parseStop r true 0 1 st
      else
        let sel := s.inst = 0xFF
        let cs := if sel then [] else nth [] headers s.inst
        let instLen := (cs.map (fun c => opWidth c / 8)).sum
        let V := be16At f (S + s.lenOff)
        let L := if sel then 0 else if s.lenVar then
            Nat.land (V / 2 ^ s.lenShift) s.lenMask * 2 ^ s.lenMul + s.fixedLen else s.fixedLen
        let T := be16At f (S + s.totOff) + s.totAdd
        if !sel && bit r.m.hv s.inst then parseStop r true 0 1 st
        else if s.lenVar && decide (S + s.minLen > 512) then parseStop r true 0 1 st
        else if s.lenVar && decide (S + s.minLen > F) then parseStop r true 0 2 st
        else if s.lenVar && decide (L < s.minLen ∨ L > s.maxLen) then parseStop r true 0 3 st
        else if !sel && decide (S + L > 512) then parseStop r true 0 1 st
        else if !sel && decide (S + L > F) then parseStop r true 0 2 st
        else if !sel && s.totCheck && decide (T < L ∨ T > F - S) then parseStop r true 0 3 st
        else if !sel && decide (L < instLen) then parseStop r true 0 3 st
        else
          let w := r.writes + cs.length + (if s.setDst = 0x1FF then 0 else 1)
          if w > 64 then parseStop r true 0 1 st
          else
            let h := slice f S L
            let m1 := if sel then r.m else extractTo egress cs h { r.m with hv := setBit r.m.hv s.inst true }
            let m2 := if s.setDst = 0x1FF then m1 else writeOp m1 s.setDst s.setVal
            let r2 : ParseRun := { r with m := m2, ptr := S + L, writes := w,
                                          tails := if sel then r.tails else r.tails ++ [(s.inst, h.drop instLen)],
                                          origs := if sel then r.origs else r.origs ++ [(s.inst, S, L)] }
            let fr := fragTest s.fragKind h
            if fr ≠ 0 then parseStop r2 false fr 0 st
            else
              let key := selectVal f m2 S s.sel0 * 2 ^ 16 + selectVal f m2 S s.sel1
              let (r2, bad) := meetGraph ds true r2
              if bad then parseStop r2 true 0 5 st
              else
                match g.trans.find? (fun t => t.state = st && Nat.land key t.mask = t.value) with
                | some t =>
                  match t.tact with
                  | 0 => parseFrom egress g headers f ds fuel t.next r2
                  | 1 => parseStop r2 false 0 0 st
                  | _ => parseStop r2 true 0 4 st
                | none => if s.accept then parseStop r2 false 0 0 st else parseStop r2 true 0 4 st

/-- The parse of a frame under a bank's graph and program (R193, R194). -/
def parseFrame (egress : Bool) (g : Option Graph) (p : Option Prog) (f : List Byte) (ds : List (Nat × Bool × Repeat))
    (m : Manifest) : ParseRun :=
  let m0 := { m with parse := 0, hv := 0, pktLen := if egress ∧ bit m.eflags 1 then 0 else f.length % 2 ^ 14 }
  match g with
  | none => { m := m0 }
  | some g => parseFrom egress g (match p with | some p => p.headers | none => []) f ds 26 0 { m := m0 }

/-- The bytes of a header instance from its containers (R184). -/
def headerBytes (m : Manifest) (cs : List Nat) : List Byte :=
  (cs.map (fun c => beBytes (opWidth c / 8) (readOp m {} c))).flatten

/-- The tail of an instance, empty where the parser extracted none (R196). -/
def tailOf (tails : List (Nat × List Byte)) (i : Nat) : List Byte :=
  match tails.find? (fun t => t.1 = i) with
  | some t => t.2
  | none => []

/-- The pieces the deparser emits: instance and bytes, in DEPARSE order (R185). -/
def deparsePieces (p : Prog) (m : Manifest) (tails : List (Nat × List Byte)) : List (Nat × List Byte) :=
  (p.deparse.filter (fun i => bit m.hv i)).map (fun i => (i, headerBytes m (nth [] p.headers i) ++ tailOf tails i))

/-- One's complement sum of bytes taken as 16-bit network-order words. -/
def onesSum : List Byte → Nat
  | [] => 0
  | [b] => b.toNat * 256
  | a :: b :: m => onesAdd (a.toNat * 256 + b.toNat) (onesSum m)

/-- Offset of each piece in the emitted frame. -/
def pieceOffs : Nat → List (Nat × List Byte) → List (Nat × Nat × Nat)
  | _, [] => []
  | o, (i, bs) :: m => (i, o, bs.length) :: pieceOffs (o + bs.length) m

/-- The sum a TCP or UDP checksum covers (pseudo-header, segment) in frame `f`, whose IP header starts at `ip` and
whose segment at `l4`; `len4` is the checksum's offset in its header, left out of the sum. -/
def l4Sum (f : List Byte) (ip l4 ckOff proto : Nat) : Nat :=
  let v := (nth 0 f ip).toNat / 16
  let seg := f.drop l4
  let len := if proto = 17 then be16At seg 4
    else if v = 4 then be16At f (ip + 2) - (l4 - ip) else be16At f (ip + 4) + 40 - (l4 - ip)
  let addrs := if v = 4 then slice f (ip + 12) 8 else slice f (ip + 8) 32
  let body := (seg.take len)
  onesAdd (onesSum addrs) (onesAdd (onesAdd proto len) (onesSum (body.take ckOff ++ [0, 0] ++ body.drop (ckOff + 2))))

/-- The last piece in front of offset `o` whose bytes begin with IP version 4 or 6: its offset. -/
def ipBefore (f : List Byte) (offs : List (Nat × Nat × Nat)) (o : Nat) : Option Nat :=
  match (offs.filter (fun p => p.2.1 < o && decide (p.2.2 ≥ 20)
      && ((nth 0 f p.2.1).toNat / 16 = 4 || (nth 0 f p.2.1).toNat / 16 = 6))).reverse with
  | p :: _ => some p.2.1
  | [] => none

/-- Writes a 16-bit network-order value into a frame. -/
def put16 (f : List Byte) (off v : Nat) : List Byte := if off + 2 ≤ f.length then overlay f off (beBytes 2 v) else f

/-- One checksum fix of CSUM_MARK on the emitted frame `g` (R178); `f` is the frame as it entered the Line. An instance
that the parser did not extract, or with no IP header in front of it, keeps its checksum (log entry 14). -/
def fixChecksum (f : List Byte) (origs offs : List (Nat × Nat × Nat)) (g : List Byte) (mark : Nat × Nat) : List Byte :=
  match offs.find? (fun p => p.1 = mark.1) with
  | none => g
  | some (_, o, len) =>
    if mark.2 = 0 then
      if len < 20 then g else
      let h := slice g o len
      put16 g (o + 10) (0xFFFF - onesSum (h.take 10 ++ [0, 0] ++ h.drop 12))
    else
      let ckOff := if mark.2 = 1 then 6 else 16
      let proto := if mark.2 = 1 then 17 else 6
      let old := be16At g (o + ckOff)
      if mark.2 = 1 ∧ old = 0 then g else
      match origs.find? (fun p => p.1 = mark.1) with
      | none => g
      | some (_, oo, _) =>
        match ipBefore f origs oo, ipBefore g offs o with
        | some ipo, some ipn =>
          let before := l4Sum f ipo oo ckOff proto
          let after := l4Sum g ipn o ckOff proto
          put16 g (o + ckOff) (0xFFFF - onesAdd (onesAdd (0xFFFF - old) (0xFFFF - before)) after)
        | _, _ => g

/-- The marks in the order in which the deparser fixes them: each once, and the last header of the frame first, since the checksum of
an outer header covers what a fix changes in an inner one (R178). -/
def markOrder (offs : List (Nat × Nat × Nat)) (marks : List (Nat × Nat)) : List (Nat × Nat) :=
  (offs.reverse.map (fun p => marks.eraseDups.filter (fun k => k.1 = p.1))).flatten

/-- The checksum fixes of a frame. -/
def fixChecksums (f : List Byte) (origs offs : List (Nat × Nat × Nat)) (marks : List (Nat × Nat)) (g : List Byte) : List Byte :=
  (markOrder offs marks).foldl (fixChecksum f origs offs) g

/-- The deparser's output (R185): the valid instances of DEPARSE with the tails they have not lost (R196), then the rest of the frame.
With no program the frame passes unchanged (R193). -/
def deparse (p : Option Prog) (f : List Byte) (r : ParseRun) (m : Manifest) (ask : LineAsk) : List Byte :=
  match p with
  | none => f
  | some p =>
    let ps := deparsePieces p m (r.tails.filter (fun t => !bit ask.lost t.1))
    fixChecksums f r.origs (pieceOffs 0 ps) ask.csums ((ps.map (·.2)).flatten ++ f.drop r.ptr)

end Sys2Proof.Machine
end

