-- ==== Sys2Proof/Machine/HostIf.lean ====
section
/-!
DEFINITION. The host interface (file 04): BAR0 words, rings and packet DMA queues, doorbells, MSI-X, the field access Orders.
-/

namespace Sys2Proof.Machine

/-! Rings and queues (R92 to R95, R120) -/

/-- A packet DMA queue. -/
def dmaOf (s : Chip) (q : Nat) : RingSt := sget {} s.host.dma q

/-- Changes it. -/
def modDma (q : Nat) (f : RingSt → RingSt) (s : Chip) : Chip :=
  { s with host := { s.host with dma := smod {} s.host.dma q f } }

/-- A ring or, with `dma`, a packet DMA queue. -/
def qOf (dma : Bool) (s : Chip) (n : Nat) : RingSt := if dma then dmaOf s n else ringOf s n
def modQ (dma : Bool) (n : Nat) (f : RingSt → RingSt) (s : Chip) : Chip := if dma then modDma n f s else modRing n f s

/-- PC_RING_CFG, with PC_DMA_WAYBILL of a queue (R92, R120). -/
def RingSt.cfg (v : RingSt) : Word :=
  packW [(31, 1, b2n v.enable), (24, 2, v.level), (16, 8, v.vector), (8, 5, v.log2), (0, 1, b2n v.waybill)]

/-- Something of a ring or queue is left running: an Order at work, or a taken frame whose completion is due (R94, R120). -/
def qBusy (dma : Bool) (s : Chip) (n : Nat) : Bool :=
  (qOf dma s n).running.isSome || (dma && sget [] s.host.hostFrames n ≠ [])

/-- PC_RING_STATUS (R92, R94, R96). An Order that PERST_N or FLR met keeps PC_RING_ACTIVE at 1 until its end, though the ring's words are back
at reset (DESIGN CHOICE, log 154). -/
def RingSt.status (v : RingSt) (busy : Bool) : Word :=
  packW [(31, 1, b2n (if v.enable then !v.stopped else busy)), (1, 1, b2n v.cfgErr), (0, 1, b2n v.fetchErr)]

/-- A word of a ring's configuration (R92). -/
def RingSt.word (v : RingSt) (busy : Bool) (k : Nat) : Word :=
  match k with
  | 0 => v.baseLo | 1 => v.baseHi | 2 => v.cplLo | 3 => v.cplHi | 4 => v.cfg
  | 5 => BitVec.ofNat 32 v.head | 6 => BitVec.ofNat 32 v.cplTail | 7 => v.status busy | _ => 0

/-- The ring comes into service: its indexes at 0, its completion phase at 1 (R94, R95). -/
def RingSt.startUp (v : RingSt) : RingSt :=
  { v with head := 0, cplTail := 0, tail := 0, cplHead := 0, phase := true, stopped := false, issued := [], descs := [] }

/-- A configuration or doorbell write was refused (R93, R95). -/
def cfgErr (dma : Bool) (n : Nat) (s : Chip) : Chip := ringEvent (modQ dma n (fun v => { v with cfgErr := true }) s)

/-- The Orders or descriptors a ring holds and has not started are discarded (R94). -/
def discardIssued (dma : Bool) (n : Nat) (s : Chip) : Chip :=
  let gone := (qOf dma s n).issued
  let s := if dma then s else { s with host := { s.host with fences := s.host.fences.filter (fun f => !gone.contains f) } }
  modQ dma n (fun v => { v with issued := [], descs := [] }) s

/-- A write of configuration word `k` (R93, R94): refused as a whole, or in effect. -/
def writeRingCfg (dma : Bool) (n k : Nat) (value mask : Word) (s : Chip) : Chip :=
  let v := qOf dma s n
  let old := v.word false k
  let new := mergeW old value mask
  if k < 4 then
    if v.enable && new ≠ old then cfgErr dma n s
    else modQ dma n (fun v => match k with
      | 0 => { v with baseLo := new } | 1 => { v with baseHi := new } | 2 => { v with cplLo := new }
      | _ => { v with cplHi := new }) s
  else
    let x := new.toNat
    let c := { v with enable := bit x 31, level := bits x 24 2, vector := bits x 16 8, log2 := bits x 8 5,
                      waybill := dma && bit x 0 }
    if c.level = 3 || c.log2 < 6 || (if dma then 14 else 16) < c.log2 || (v.enable && c.enable && c.cfg ≠ v.cfg) then
      cfgErr dma n s
    else
      let s := if v.enable && !c.enable then discardIssued dma n s else s
      modQ dma n (fun w => let w := { w with enable := c.enable, level := c.level, vector := c.vector, log2 := c.log2,
                                             waybill := c.waybill }
                           if c.enable && !v.enable then w.startUp else w) s

/-- The doorbell answers: the host interface is up and the boot sequence has ended (R72). -/
def bellUp (s : Chip) : Bool := hostUp s && s.boot.done

/-- A tail doorbell is accepted (R95). -/
def tailOk (v : RingSt) (i : Nat) : Bool := v.enable && i < v.size && decide (v.dist v.tail v.head ≤ v.dist i v.head)

/-- A write of PC_RING_TAIL of an Order ring (R95): the Orders in the new slots are issued, in slot order; `fences` names those
slots whose Order has FENCE. -/
def ringTail (n i : Nat) (fences : List Nat) (s : Chip) : Chip :=
  let v := ringOf s n
  if !bellUp s then s
  else if !tailOk v i then cfgErr false n s
  else
    let count := v.dist i v.tail
    let seqs := span s.host.nextSeq count
    let fs := seqs.filter (fun q => fences.contains ((v.tail + (q - s.host.nextSeq)) % v.size))
    let s := { s with host := { s.host with nextSeq := s.host.nextSeq + count, fences := s.host.fences ++ fs } }
    modRing n (fun v => { v with tail := i, issued := v.issued ++ seqs }) s

/-- A write of PC_CPL_HEAD (R95). -/
def cplHead (dma : Bool) (n j : Nat) (s : Chip) : Chip :=
  let v := qOf dma s n
  if !bellUp s then s
  else if v.enable && j < v.size && decide (v.dist j v.cplHead ≤ v.dist v.cplTail v.cplHead) then
    modQ dma n (fun v => { v with cplHead := j }) s
  else cfgErr dma n s

/-- A write of the tail of a packet DMA queue: the descriptors in the new slots are posted (R95, R120). -/
def dmaTail (q i : Nat) (ds : List (Option (List Byte))) (s : Chip) : Chip :=
  let v := dmaOf s q
  if !bellUp s then s
  else if !tailOk v i then cfgErr true q s
  else
    let count := v.dist i v.tail
    let new := (span 0 count).map (fun k => ((v.tail + k) % v.size, (nth none ds k).map (padTo 16 0)))
    modDma q (fun v => { v with tail := i, descs := v.descs ++ new }) s

/-- The fetch of the next descriptor of a queue ends in a PCI Express error: the queue stops (R96, R120). -/
def stopDma (q : Nat) (s : Chip) : Chip := ringEvent (modDma q (fun v => { v with stopped := true, fetchErr := true }) s)

/-- A write of PC_RING_CFG in the host interface (R72, R93). -/
def cfgRow (dma : Bool) (n : Nat) (cfg : Word) (s : Chip) : Chip :=
  if bellUp s then writeRingCfg dma n 4 cfg 0xFFFFFFFF#32 s else s

def execRingEnable (ring : Nat) (cfg : Word) (s : State) : Host.Outcome State Fault Refusal :=
  onUnit (decide (ring < 64)) s fun s => cfgRow false ring (cfg ||| 0x80000000#32) s

def execRingDisable (ring : Nat) (cfg : Word) (s : State) : Host.Outcome State Fault Refusal :=
  onUnit (decide (ring < 64)) s fun s => cfgRow false ring (cfg &&& 0x7FFFFFFF#32) s

def execRingTailDoorbell (ring index : Nat) (fences : List Nat) (s : State) : Host.Outcome State Fault Refusal :=
  onUnit (decide (ring < 64)) s fun s => ringTail ring index fences s

def execCplHeadDoorbell (ring index : Nat) (s : State) : Host.Outcome State Fault Refusal :=
  onUnit (decide (ring < 64)) s fun s => cplHead false ring index s

def execDmaQueueEnable (q : Nat) (cfg : Word) (s : State) : Host.Outcome State Fault Refusal :=
  onUnit (decide (q < 32)) s fun s => cfgRow true q (cfg ||| 0x80000000#32) s

def execDmaQueueDisable (q : Nat) (cfg : Word) (s : State) : Host.Outcome State Fault Refusal :=
  onUnit (decide (q < 32)) s fun s => cfgRow true q (cfg &&& 0x7FFFFFFF#32) s

def execDmaQueueDoorbell (q : Nat) (bell : DmaDoorbell) (s : State) : Host.Outcome State Fault Refusal :=
  onUnit (decide (q < 32)) s fun s => match bell with
    | .tail i ds => dmaTail q i ds s
    | .cplHead j => cplHead true q j s

/-! Orders -/

def execOrderStart (ring : Nat) (o : OrderFetch) (s : State) : Host.Outcome State Fault Refusal :=
  onUnit (decide (ring < 64)) s fun s => startOrder ring o s

def execOrderPending (ring : Nat) (s : State) : Host.Outcome State Fault Refusal :=
  onUnit (decide (ring < 64)) s fun s => pendOrder ring s

def execOrderCompletion (ring : Nat) (s : State) : Host.Outcome State Fault Refusal :=
  onUnit (decide (ring < 64)) s fun s => completeOrder ring s

/-! MSI-X (R89, R120) -/

/-- A word of the MSI-X table: vectors are masked after reset. -/
def msixWord (s : Chip) (k : Nat) : Word :=
  match sfind s.host.msix k with | some w => w | none => if k % 4 = 3 then 1 else 0

/-- Writes a word of the MSI-X table; unmasking a vector whose pending bit is set sends one message (R120). -/
def writeMsix (k : Nat) (w : Word) (s : Chip) : Chip :=
  let w := if k % 4 = 3 then w &&& 1#32 else w
  let v := k / 4
  let s := { s with host := { s.host with
    msix := if w = (if k % 4 = 3 then 1 else 0) then sdel s.host.msix k else sins s.host.msix k w } }
  if k % 4 = 3 && w = 0 && s.host.msixPending.contains v then
    emit (.msix v) { s with host := { s.host with msixPending := ndel s.host.msixPending v } }
  else s

def execMsixUnmask (vector : Nat) (s : State) : Host.Outcome State Fault Refusal :=
  onUnit (decide (vector < 256)) s fun s => if bellUp s then writeMsix (4 * vector + 3) 0 s else s

/-! BAR0 words (R72, R87, R88, R90) -/

/-- `PC_ID` (R4). -/
def pcId : Word := packW [(16, 16, 0x5120), (8, 8, 0xA0), (0, 1, b2n Config.linkCipher)]

/-- `PC_BOOT_STATUS` (R73). -/
def bootStatus (s : Chip) : Word :=
  packW [(24, 8, s.boot.stage), (16, 8, s.boot.error), (8, 8, s.boot.svn), (0, 1, b2n s.boot.done)]

/-- `PC_RST_CAUSE` (R67). -/
def rstCauseWord (s : Chip) : Word := packW [(8, 8, s.power.rstCount), (0, 7, s.power.rstCause)]

/-- BAR0 answers: from step 4 of the boot sequence, while PERST_N is high (R72). A sequence that halted at step 3 never released
the PCIe island (R69, R71). -/
def barUp (s : Chip) : Bool := hostUp s && s.boot.stage ≠ 0 && s.boot.stage ≠ 0x0F

/-- A word of BAR0; until the boot sequence ends only the words of R72 respond. -/
def readBar0 (s : Chip) (off : Nat) : Word :=
  if !barUp s then 0
  else if off = 0x00 then pcId
  else if off = 0x04 then bootStatus s
  else if off = 0x08 then s.boot.mbLo
  else if off = 0x0C then s.boot.mbHi
  else if off = 0x10 then BitVec.ofNat 32 s.boot.mbLen
  else if off = 0x14 then rstCauseWord s
  else if !s.boot.done then 0
  else if off = 0x18 then BitVec.ofNat 32 (b2n s.host.counterUser)
  else if off = 0x1C then packW [(1, 1, b2n s.host.evRing), (0, 1, b2n s.host.evBoot)]
  else if 0x1000 ≤ off && off < 0x2000 then (ringOf s ((off - 0x1000) / 64)).word (qBusy false s ((off - 0x1000) / 64)) ((off - 0x1000) % 64 / 4)
  else if 0x2000 ≤ off && off < 0x2800 then (if off % 32 = 0x1C then 0 else sget 0 s.host.regions ((off - 0x2000) / 4))
  else if 0x3000 ≤ off && off < 0x3400 then (dmaOf s ((off - 0x3000) / 32)).word (qBusy true s ((off - 0x3000) / 32)) ((off - 0x3000) % 32 / 4)
  else if 0x3400 ≤ off && off < 0x3440 then BitVec.ofNat 32 (sget 0 s.host.dmaDrop ((off - 0x3400) / 4))
  else if 0x10000 ≤ off && off < 0x11000 then msixWord s ((off - 0x10000) / 4)
  else if 0x18000 ≤ off && off < 0x18020 then
    BitVec.ofNat 32 (maskOf ((span 0 32).filter (fun k => s.host.msixPending.contains (8 * (off - 0x18000) + k))))
  else 0

/-- Writes 1 to W1C bits of a BAR0 word (R8, R67, R88, R92). -/
def w1cBar0 (off : Nat) (ones : Nat) (s : Chip) : Chip :=
  if !barUp s then s
  else if off = 0x14 then
    { s with power := { s.power with rstCause := maskOf ((span 0 7).filter (fun k => bit s.power.rstCause k && !bit ones k)) } }
  else if !s.boot.done then s
  else if off = 0x1C then
    { s with host := { s.host with evRing := s.host.evRing && !bit ones 1, evBoot := s.host.evBoot && !bit ones 0 } }
  else
    let clear (v : RingSt) : RingSt := { v with cfgErr := v.cfgErr && !bit ones 1, fetchErr := v.fetchErr && !bit ones 0 }
    if 0x1000 ≤ off && off < 0x2000 && off % 64 = 0x1C then modRing ((off - 0x1000) / 64) clear s
    else if 0x3000 ≤ off && off < 0x3400 && off % 32 = 0x1C then modDma ((off - 0x3000) / 32) clear s
    else s

/-- A write of a BAR0 word under its access code (R8, R87). PC_MBOX_GO is the row MAILBOX_GO; offsets not listed ignore
writes. A tail doorbell posts what stands in its slots. -/
def writeBar0 (off : Nat) (value mask : Word) (posted : Posted) (s : Chip) : Chip :=
  if !barUp s || off % 4 ≠ 0 then s
  else if off = 0x08 then { s with boot := { s.boot with mbLo := mergeW s.boot.mbLo value mask } }
  else if off = 0x0C then { s with boot := { s.boot with mbHi := mergeW s.boot.mbHi value mask } }
  else if off = 0x10 then
    { s with boot := { s.boot with mbLen := (mergeW (BitVec.ofNat 32 s.boot.mbLen) value mask).toNat % 2 ^ 20 } }
  else if off = 0x14 then w1cBar0 off (value &&& mask).toNat s
  else if !s.boot.done then s
  else if off = 0x18 then
    { s with host := { s.host with counterUser := bit (mergeW (BitVec.ofNat 32 (b2n s.host.counterUser)) value mask).toNat 0 } }
  else if 0x1000 ≤ off && off < 0x2000 && off % 64 < 0x14 then
    writeRingCfg false ((off - 0x1000) / 64) (off % 64 / 4) value mask s
  else if 0x2000 ≤ off && off < 0x2800 && off % 32 ≠ 0x1C then
    let k := (off - 0x2000) / 4
    let w := mergeW (sget 0 s.host.regions k) value mask
    let w := if off % 32 = 0x18 then w &&& 7#32 else w
    { s with host := { s.host with regions := sput 0 s.host.regions k w } }
  else if 0x3000 ≤ off && off < 0x3400 && off % 32 < 0x14 then
    writeRingCfg true ((off - 0x3000) / 32) (off % 32 / 4) value mask s
  else if 0x10000 ≤ off && off < 0x11000 then
    let k := (off - 0x10000) / 4
    writeMsix k (mergeW (msixWord s k) value mask) s
  else if 0x100000 ≤ off && off < 0x140000 && off % 4096 = 0 then ringTail ((off - 0x100000) / 4096) value.toNat posted.fences s
  else if 0x100000 ≤ off && off < 0x140000 && off % 4096 = 4 then cplHead false ((off - 0x100000) / 4096) value.toNat s
  else if 0x140000 ≤ off && off < 0x160000 && off % 4096 = 0 then dmaTail ((off - 0x140000) / 4096) value.toNat posted.descriptors s
  else if 0x140000 ≤ off && off < 0x160000 && off % 4096 = 4 then cplHead true ((off - 0x140000) / 4096) value.toNat s
  else w1cBar0 off (value &&& mask).toNat s

/-- W1C bits of a Cabin word. -/
def w1cBits (ca : Nat) : Word :=
  match wordAt ca with
  | .inl _ => 0
  | .inr (i, off) => match wordSpec i off with | none => 0 | some w => BitVec.ofNat 32 w.w1c

def execW1cClear (a : RegAddr) (value : Word) (s : State) : Host.Outcome State Fault Refusal :=
  onChip s fun s => match a with
    | .bar0 off => w1cBar0 off value.toNat s
    | .bar2 _ => s
    | .config _ => s
    | .cabin ca => directWrite ca value (value &&& w1cBits ca) s

/-- A read of one word that no Order carries: its value goes out, and its RC bits clear (R8). -/
def directRead (ca : Nat) (s : Chip) : Chip :=
  if dead s then s
  else match writeDomains s ca 0 0 with
    | [] =>
      let r := readRange false ca 1 s
      let v := nth 0 r.2.1 0
      let s := { r.2.2 with lastWrite := some (r.1, v) }
      if r.1 = .ok then emit (.read v.toNat) s else s
    | ns => wantDomains ns s

/-- A read of a BAR0 word: a drop counter of a queue clears (R123). -/
def bar0Read (off : Nat) (s : Chip) : Chip :=
  let t := emit (.read (readBar0 s off).toNat) s
  if bellUp s && 0x3400 ≤ off && off < 0x3440 then
    { t with host := { t.host with dmaDrop := sdel t.host.dmaDrop ((off - 0x3400) / 4) } }
  else t

/-- A write of a register that no Order carries. BAR2 discards writes (R89); the words of the configuration header that R85 and R86 give are
read-only. -/
def execRegisterWrite (a : RegAddr) (value mask : Word) (posted : Posted) (s : State) : Host.Outcome State Fault Refusal :=
  onChip s fun s => match a with
    | .bar0 off => writeBar0 off value mask posted s
    | .bar2 _ => s
    | .config _ => s
    | .cabin ca => directWrite ca value mask s

/-! The field access Orders -/

/-- FIELD_READ (R117). -/
def fieldRead (ops : FieldReadOps) (s : Chip) : Status × DWord × Chip :=
  if ops.count = 0 || 1024 < ops.count || (match ops.payload with | none => false | some p => p.len < 4 * ops.count) then
    (.badOperand, 0, s)
  else
    let r := readRange ops.live ops.caddr ops.count s
    if r.1 ≠ .ok then (r.1, 0, r.2.2)
    else match ops.payload with
      | none => (.ok, (nth 0 r.2.1 0).zeroExtend 64, r.2.2)
      | some p => (.ok, BitVec.ofNat 64 ops.count, hostWrite p.addr ((r.2.1.map (fun w => leBytes 4 w.toNat)).flatten) r.2.2)

/-- The domain of an address's island, if it is off and the island is not fenced (R50). -/
def addrDomains (ca : Nat) (s : Chip) : List Nat := writeDomains s ca 0 0

def execFieldRead (ring : Nat) (ops : FieldReadOps) (s : State) : Host.Outcome State Fault Refusal :=
  onUnit (decide (ring < 64)) s fun s => endOrder ring (.fieldRead ring ops) (addrDomains ops.caddr) (fieldRead ops) s

/-- The entries of a list of FIELD_WRITE in order, up to the first that fails: its status, the number applied, whether a bound
clamped one, and the state (R118). The clamps are Signalman 0's (R474). -/
def writeEntries : List FieldEntry → Nat → Bool → Chip → Status × Nat × Chip
  | [], n, gov, s => (if gov then .governed else .ok, n, s)
  | e :: es, n, gov, s =>
    let r := writeWord e.caddr e.value e.mask s
    if r.1 = .governed then writeEntries es (n + 1) true (countClamp 0 r.2.2)
    else if r.1 = .ok then writeEntries es (n + 1) gov r.2.2
    else (r.1, n, r.2.2)

/-- FIELD_WRITE (R118). -/
def fieldWrite (ops : FieldWriteOps) (s : Chip) : Status × DWord × Chip :=
  if ops.isList then
    if ops.payloadLen % 16 ≠ 0 || 16384 < ops.payloadLen then (.badOperand, 0, s)
    else
      let r := writeEntries ops.entries 0 false s
      (r.1, BitVec.ofNat 64 r.2.1, r.2.2)
  else match ops.entries with
    | [] => (.badOperand, 0, s)
    | e :: _ =>
      let r := writeWord e.caddr e.value e.mask s
      (r.1, r.2.1.zeroExtend 64, if r.1 = .governed then countClamp 0 r.2.2 else r.2.2)

/-- The domains the entries need (R50, R52). -/
def entryDomains (es : List FieldEntry) (s : Chip) : List Nat :=
  ((es.map (fun e => writeDomains s e.caddr e.value e.mask)).flatten).eraseDups

/-- The entries of a list are applied in one step, and so are the words of a FIELD_READ read: no access of another ring comes between them, as
R110 would let it (DESIGN CHOICE, log 156). -/
def execFieldWrite (ring : Nat) (ops : FieldWriteOps) (s : State) : Host.Outcome State Fault Refusal :=
  onUnit (decide (ring < 64)) s fun s => endOrder ring (.fieldWrite ring ops) (entryDomains ops.entries) (fieldWrite ops) s

/-- The islands a mask of BLOCK_COMMIT names (R119), with their bits. -/
def maskIslands (islands : Nat) : List (Nat × Isl) :=
  ((span 0 58).filter (fun b => bit islands b)).filterMap (fun b => (commitIsland b).map (fun i => (b, i)))

/-- BLOCK_COMMIT (R119). -/
def blockCommit (islands : Nat) (s : Chip) : Status × DWord × Chip :=
  let is := maskIslands islands
  let fenced := is.filter (fun x => isFenced s x.2)
  if islands = 0 || 2 ^ 58 ≤ islands then (.badOperand, 0, s)
  else if fenced ≠ [] then
    (.fenced, BitVec.ofNat 64 (maskOf (fenced.map (fun x => x.1))), fenced.foldl (fun s x => countFencedReq x.2 s) s)
  else
    let changed := maskOf ((is.filter (fun x => hasStaged s x.2)).map (fun x => x.1))
    let r := commitAll (is.map (fun x => x.2)) s
    (if r.1 = 0 then .ok else .governed, BitVec.ofNat 64 changed, settle r.2)

def execBlockCommit (ring islands : Nat) (s : State) : Host.Outcome State Fault Refusal :=
  onUnit (decide (ring < 64)) s fun s => endOrder ring (.blockCommit ring islands)
    (fun s => offDomains s ((maskIslands islands).map (fun x => x.2))) (blockCommit islands) s

end Sys2Proof.Machine
end

