-- ==== Sys2Proof/Machine/Deliver.lean ====
section
/-!
DEFINITION. Completions of the packet DMA queues and the delivery of a frame into a posted host buffer (R120, R122, R123).
-/

namespace Sys2Proof.Machine

/-- Writes the next completion of a packet DMA queue and signals its vector (R120). `body` makes the bytes from the phase bit. -/
def dmaComplete (q : Nat) (body : Bool → List Byte) (s : Chip) : Chip :=
  let v := dmaOf s q
  let bs := body v.phase
  let s := hostWrite (pageAddr v.cplHi v.cplLo + bs.length * v.cplTail) bs s
  let next := (v.cplTail + 1) % v.size
  msix v.vector (modDma q (fun v => { v with cplTail := next, phase := if next = 0 then !v.phase else v.phase }) s)

/-- Counts a frame dropped for a queue to the host (R123). -/
def countHostDrop (q : Nat) (s : Chip) : Chip :=
  { s with host := { s.host with dmaDrop := smod 0 s.host.dmaDrop q (satAdd max32 · 1) } }

/-- What the frame's completion and buffer take: ingress port, trap reason, timestamp, bytes and Waybill (R123). -/
structure HostRx where
  /-- A record of the device's own, which no Waybill precedes (R263, R366). -/
  record : Bool := false
  inPort : Nat
  reason : Nat
  ts : Nat
  bytes : List Byte
  waybill : List Byte

/-- The 32 bytes of a completion of a queue to the host (R123). -/
def hostRxCompletion (slot : Nat) (st : Status) (len flags : Nat) (x : Option HostRx) (phase : Bool) : List Byte :=
  leBytes 2 slot ++ leBytes 2 st.code ++ leBytes 2 len ++ leBytes 1 (flags + b2n phase) ++ [0#8] ++
  (match x with
   | none => repl 24 0#8
   | some x => leBytes 2 x.inPort ++ leBytes 2 x.reason ++ repl 4 0#8 ++ leBytes 8 x.ts ++ repl 8 0#8)

/-- The frame goes into the first posted buffer that is well formed; buffers that are not complete with `BAD_OPERAND` on the way.
`false`: no buffer with a completion slot was left (R123). The list is that of the posted descriptors. -/
def deliverInto (q : Nat) (x : HostRx) : List (Nat × Option (List Byte)) → Chip → Bool × Chip
  | [], s => (false, s)
  | (_, none) :: _, s => if (dmaOf s q).freeSlots = 0 then (false, s) else (false, stopDma q s)
  | (slot, some d) :: ds, s =>
    let v := dmaOf s q
    if v.freeSlots = 0 then (false, s)
    else
      let s := modDma q (fun v => { v with descs := ds, head := (v.head + 1) % v.size }) s
      let addr := leAt d 0 8
      let size := leAt d 8 4
      if addr % 64 ≠ 0 || size % 64 ≠ 0 || size < 256 || 65536 < size then
        deliverInto q x ds (dmaComplete q (hostRxCompletion slot .badOperand 0 0 none) s)
      else
        let wb := v.waybill && !x.record
        let room := if wb then size - 64 else size
        let data := x.bytes.take room
        let flags := 2 * b2n (decide (room < x.bytes.length)) + 4 * b2n wb
        let s := hostWrite addr ((if wb then padTo 64 0#8 x.waybill else []) ++ data) s
        (true, dmaComplete q (hostRxCompletion slot .ok data.length flags (some x)) s)

/-- Delivers a frame or record to a queue to the host, if it can take one (R123). -/
def deliverTry (q : Nat) (x : HostRx) (s : Chip) : Bool × Chip :=
  let v := dmaOf s q
  if !hostUp s || !v.enable || v.stopped then (false, s) else deliverInto q x v.descs s

/-- Delivers a frame to a queue to the host, or counts it dropped (R123). -/
def deliver (q : Nat) (x : HostRx) (s : Chip) : Bool × Chip :=
  let r := deliverTry q x s
  if r.1 then r else (false, countHostDrop q r.2)

/-- Delivers a record of the device to queue `q` of R263 and R366; one that finds no queue or no buffer is lost and counted in a
word of island `i`. -/
def postRecord (i : Isl) (lostAt q : Nat) (bs : List Byte) (s : Chip) : Chip :=
  if 16 ≤ q then bump i lostAt 1 s
  else
    let r := deliverTry q { record := true, inPort := 0xFFFF, reason := 0, ts := 0, bytes := bs, waybill := [] } s
    if r.1 then r.2 else bump i lostAt 1 r.2

end Sys2Proof.Machine
end

