-- ==== Sys2Proof/Machine/TableBase.lean ====
section
/-!
DEFINITION. Table memory of a Line as state: its instances, the blocks their words lie in (R494), table events and what a bad word does
(R260 to R263).
-/

namespace Sys2Proof.Machine

/-- A table instance of a Line. -/
def instOf (s : Chip) (egress : Bool) (n iid : Nat) : Option Inst := (lineOf s egress n).insts.find? (fun t => t.iid = iid)

/-- Changes one. -/
def modInst (egress : Bool) (n iid : Nat) (f : Inst → Inst) (s : Chip) : Chip :=
  modLine egress n (fun l => { l with insts := l.insts.map (fun t => if t.iid = iid then f t else t) }) s

/-- Counts at a word of a Line Cabin. -/
def lineCount (egress : Bool) (n off k : Nat) (s : Chip) : Chip := if k = 0 then s else bump (lineIsl egress n) off k s

/-- Program and graph of the current or the draining bank of a Line. -/
def progBank (l : LineSt) (drn : Bool) : Option Bank := if drn then l.drnProg else l.curProg
def graphBank (l : LineSt) (drn : Bool) : Option Graph := if drn then l.drnGraph else l.curGraph

/-- The block that holds an entry: its location, index or position (R234, R494). -/
def entryBlock (t : Inst) (loc : Nat) : Nat :=
  if t.decl.tkind = 1 then nth 0 t.sram (loc * exactUnits t.decl / 8192)
  else if t.decl.tkind ≤ 3 then nth 0 t.tcam (loc * tcamSlices t.decl / 2048)
  else nth 0 t.sram (loc * directBytes t.decl / 131072)

/-- The first TCAM slice, in its Line, of an entry position. -/
def entrySlice (t : Inst) (pos : Nat) : Nat :=
  let x := pos * tcamSlices t.decl
  nth 0 t.tcam (x / 2048) * 2048 + x % 2048

/-- The local source of a table fault in a block (R263). -/
def tableLoc (t : Inst) (loc : Nat) : Nat :=
  (if t.decl.tkind = 2 || t.decl.tkind = 3 then 0x50 else 0x20) + entryBlock t loc

/-- The fields of a table event that its kind gives (R263). -/
structure EventRec where
  kind : Nat
  id : Nat
  tkind : Nat := 0
  band : Nat := 0
  location : Nat := 0
  badWords : Nat := 0
  value : Nat := 0
  count : Nat := 0
  keyBits : Nat := 0
  key : Nat := 0

/-- The 128 bytes of a table event. -/
def eventBytes (egress : Bool) (n time : Nat) (e : EventRec) : List Byte :=
  leBytes 2 e.kind ++ leBytes 1 n ++ leBytes 1 (b2n egress) ++ leBytes 1 e.id ++ leBytes 1 e.tkind ++ leBytes 2 e.band ++
  leBytes 4 e.location ++ leBytes 4 e.badWords ++ leBytes 8 time ++ leBytes 4 e.value ++ leBytes 4 e.count ++
  leBytes 2 e.keyBits ++ repl 30 0#8 ++ beBytes 64 e.key

/-- Posts a table event to queue `evq` (R263). -/
def tableEvent (egress : Bool) (n evq : Nat) (e : EventRec) (s : Chip) : Chip :=
  postRecord (lineIsl egress n) 0x0820 evq (eventBytes egress n (nowTs s) e) s

/-- A free number of `w` words of 64 bits: value `n` counts the free values. -/
def freeWide (n w : Nat) : Nat := ((span 0 w).map (fun k => (Config.freeValue (n + k)).toNat * 2 ^ (64 * k))).sum

/-- The word of an entry that holds byte `j` of its key, the most significant first (log 29): after the control word of an EXACT entry,
among the values of the slices of a TCAM entry. -/
def keyWord (d : TableDecl) (j : Nat) : Nat :=
  if d.tkind = 1 then 1 + j / 4 else 4 * (j / 8) + (1 - j % 8 / 4)

/-- The bits of a key that lie in bad words. -/
def badKeyBits (d : TableDecl) (mask : Nat) : Nat :=
  let b := if d.tkind = 1 then keyBytes d else 8 * tcamSlices d
  ((span 0 b).map (fun j => if bit mask (keyWord d j) then 255 * 256 ^ (b - 1 - j) else 0)).sum

/-- A key as read with bad words, whose bits are free (log 29). -/
def keyAsRead (s : Chip) (d : TableDecl) (mask key : Nat) : Nat :=
  let m := badKeyBits d mask
  Nat.lor (key - Nat.land key m) (Nat.land m (freeWide s.free 8)) % 2 ^ d.keyBits

/-- The band of a TCAM entry as read: that of a bad result word is free. -/
def bandAsRead (s : Chip) (d : TableDecl) (mask band : Nat) : Nat :=
  if bit mask (4 * tcamSlices d + 1) then (Config.freeValue (s.free + 8)).toNat % 65536 else band

/-- The REPAIR event of an entry. -/
def repairEvent (egress : Bool) (n : Nat) (t : Inst) (loc mask : Nat) (e : Option Entry) (s : Chip) : Chip :=
  let tcam := t.decl.tkind = 2 || t.decl.tkind = 3
  let r : EventRec :=
    { kind := 3, id := t.decl.id, tkind := t.decl.tkind, badWords := mask % 2 ^ 32, keyBits := t.decl.keyBits
      band := match e with | none => 0 | some e => if tcam then bandAsRead s t.decl mask e.band else 0
      location := if tcam then entrySlice t loc else loc
      key := match e with | none => 0 | some e => keyAsRead s t.decl mask e.key }
  tableEvent egress n t.decl.evq r { s with free := s.free + 9 }

/-- A word of an EXACT, DIRECT or ADATA entry was read bad (R260). -/
def sramBad (egress : Bool) (n iid : Nat) (d : WordDefect) (s : Chip) : Chip :=
  match instOf s egress n iid with
  | none => s
  | some t =>
    let i := lineIsl egress n
    if roomOf t.decl ≤ d.loc || t.decl.tkind = 2 || t.decl.tkind = 3 then s
    else match d.rep with
    | .clean => raise i (tableLoc t d.loc) clsTable 1 s
    | .bad =>
      let e := if t.decl.tkind = 1 then sfind t.ents d.loc else none
      let learned := match e with | none => false | some e => e.learned
      let s := modInst egress n iid (fun t =>
        if t.decl.tkind = 1 then { t with ents := sdel t.ents d.loc } else { t with direct := sdel t.direct d.loc }) s
      let s := raise i (tableLoc t d.loc) clsTable 2 s
      if learned && d.ctl then s else repairEvent egress n t d.loc d.mask e s

/-- The bad words at the locations an operation reads of an instance are met, the others wait. -/
def meetAt (egress : Bool) (n iid : Nat) (reads : Nat → Bool) (ds : List WordDefect) (s : Chip) : List WordDefect × Chip :=
  (ds.filter (fun d => !reads d.loc), (ds.filter (fun d => reads d.loc)).foldl (fun s d => sramBad egress n iid d s) s)

/-- An instance as the words that stay bad on repeat leave it. -/
def withoutBad (t : Inst) (ds : List WordDefect) : Inst :=
  match withoutAt [t] ((ds.filter (fun d => d.rep = .bad)).map (fun d => (t.iid, d.loc))) with | [] => t | x :: _ => x

/-- The engine of a Line meets the bad words among the locations it reads of an EXACT instance for a key (R260). -/
def meetEngine (egress : Bool) (n iid : Nat) (insert deep : Bool) (key : Nat) (ds : List WordDefect) (s : Chip) : List WordDefect × Chip :=
  match instOf s egress n iid with
  | none => (ds, s)
  | some t =>
    if t.decl.tkind ≠ 1 then (ds, s)
    else let reads := engineReads (withoutBad t ds) insert deep key; meetAt egress n iid reads.contains ds s

/-- A Ledger word was read bad (R262). The frame's operation itself uses 0 when the repeat is bad. -/
def ledgerBad (egress : Bool) (n : Nat) (g : LedgerInst) (index : Nat) (rep : Repeat) (s : Chip) : Chip :=
  let i := lineIsl egress n
  let loc := 0x20 + nth 0 g.sram (index * (if g.decl.wide then 8 else 4) / 131072)
  match rep with
  | .clean => raise i loc clsTable 1 s
  | .bad => tableEvent egress n g.decl.evq { kind := 4, id := g.decl.id, location := index } (raise i loc clsTable 2 s)

/-- Removes instances that no bank binds any longer (R235), with their learn submissions. -/
def freeInsts (l : LineSt) : LineSt :=
  let l' := { l with insts := l.insts.filter (fun t => bankMask l false t.iid ≠ 0)
                     ledgers := l.ledgers.filter (fun g => bankMask l true g.iid ≠ 0) }
  { l' with learnQ := l'.learnQ.filter (fun q => l'.insts.any (fun t => t.iid = q.iid))
            trackers := l'.trackers.filter (fun k => l'.insts.any (fun t => t.iid = k.iid)) }

end Sys2Proof.Machine
end

