-- ==== Sys2Proof/Machine/Epochs.lean ====
section
/-!
DEFINITION. Programs, parse graphs and epochs (R190, R206, R209 to R219, R229 to R233, R235, R236, R241, R242, R494): loads into the
staged bank, the commit, and the retirement of the draining epoch.
-/

namespace Sys2Proof.Machine

/-! Allocation (R235, R236, R494) -/

/-- Blocks of a Line (R234). -/
def sramBlocks (egress : Bool) : Nat := if egress then 8 else 40
def tcamBlocks (egress : Bool) : Nat := if egress then 2 else 48

/-- The free blocks of a Line, lowest first. -/
def freeSram (egress : Bool) (l : LineSt) : List Nat :=
  let used := (l.insts.map (fun t => t.sram)).flatten ++ (l.ledgers.map (fun g => g.sram)).flatten
  (span 0 (sramBlocks egress)).filter (fun b => !used.contains b)
def freeTcam (egress : Bool) (l : LineSt) : List Nat :=
  let used := (l.insts.map (fun t => t.tcam)).flatten
  (span 0 (tcamBlocks egress)).filter (fun b => !used.contains b)

/-- The layout fields of two table declarations are equal (R236). -/
def sameLayout (a b : TableDecl) : Bool :=
  a.tkind = b.tkind && a.keyBits = b.keyBits && a.adWords = b.adWords && a.adMode = b.adMode && a.adTable = b.adTable &&
    a.blocks = b.blocks && a.pfxWidth = b.pfxWidth && a.pfxLsb = b.pfxLsb && a.hseed = b.hseed && a.entries = b.entries

/-- A Line with the bindings formed so far. -/
structure Alloc where
  line : LineSt
  binds : Sparse Nat := []
  lbinds : Sparse Nat := []

/-- Binds one table declaration: to the instance of its ID in the current bank if the layout is equal, else to a new instance; none if
its blocks are not free. -/
def bindTable (egress : Bool) (d : TableDecl) (a : Alloc) : Option Alloc :=
  let old := match a.line.curProg with
    | none => none
    | some b => match boundInst a.line.insts b.binds d.id with
      | none => none
      | some t => if sameLayout t.decl d then some t else none
  match old with
  | some t => some { a with binds := sins a.binds d.id t.iid }
  | none =>
    let fs := freeSram egress a.line
    let ft := freeTcam egress a.line
    if fs.length < sramNeed d || ft.length < tcamNeed d then none
    else
      let t : Inst := { iid := a.line.nextIid, decl := d, initAd := d.missAd, sram := fs.take (sramNeed d), tcam := ft.take (tcamNeed d) }
      some { a with line := { a.line with insts := a.line.insts ++ [t], nextIid := a.line.nextIid + 1 }
                    binds := sins a.binds d.id t.iid }

/-- The same for a Ledger declaration. -/
def bindLedger (egress : Bool) (d : LedgerDecl) (a : Alloc) : Option Alloc :=
  let old := match a.line.curProg with
    | none => none
    | some b => match sfind b.lbinds d.id with
      | none => none
      | some iid => a.line.ledgers.find? (fun (g : LedgerInst) => g.iid = iid && g.decl.wide = d.wide && g.decl.entries = d.entries)
  match old with
  | some g => some { a with lbinds := sins a.lbinds d.id g.iid }
  | none =>
    let fs := freeSram egress a.line
    if fs.length < ledgerNeed d then none
    else
      let g : LedgerInst := { iid := a.line.nextIid, decl := d, sram := fs.take (ledgerNeed d) }
      some { a with line := { a.line with ledgers := a.line.ledgers ++ [g], nextIid := a.line.nextIid + 1 }
                    lbinds := sins a.lbinds d.id g.iid }

/-- Carries out allocations in turn. -/
def allocAll (fs : List (Alloc → Option Alloc)) (a : Alloc) : Option Alloc :=
  fs.foldl (fun r f => match r with | none => none | some a => f a) (some a)

/-- A Line with a program in its staged bank, in place of any program staged before (R190, R235); none if its declarations do not fit. -/
def stageProg (egress : Bool) (p : Prog) (l : LineSt) : Option LineSt :=
  match allocAll (p.tables.map (bindTable egress) ++ p.ledgers.map (bindLedger egress)) { line := l } with
  | none => none
  | some a => some (freeInsts { a.line with stgProg := some { prog := p, binds := a.binds, lbinds := a.lbinds } })

/-! PROGRAM_LOAD and PARSER_LOAD -/

/-- The Line pairs a mask names. -/
def linesOf (mask : Nat) : List Nat := (span 0 36).filter (bit mask)

/-- The result of an image error (R190). -/
def imageResult (e : ImgErr) : DWord := packD [(24, 8, e.1), (16, 8, e.2.1), (0, 16, e.2.2)]

/-- A named Line that is fenced. -/
def fencedLine (s : Chip) (egress : Bool) (ns : List Nat) : Option Nat := ns.find? (fun n => isFenced s (lineIsl egress n))

/-- Domains of Line pairs (R50). -/
def lineNeeds (mask : Nat) (s : Chip) : List Nat := offDomains s ((linesOf mask).map .iline)

/-- PROGRAM_LOAD (R190). -/
def programLoad (o : LoadOps) (s : Chip) : Status × DWord × Chip :=
  let img := o.image.data
  match checkImage img o.image.len with
  | some e => (.badOperand, imageResult e, s)
  | none =>
    let p := progOf img
    let ns := linesOf o.lines
    if ns.any (fun n => (stageProg p.egress p (lineOf s p.egress n)).isNone) then (.noRoom, 0, s)
    else if o.lines = 0 then (.badOperand, 0, s)
    else match fencedLine s p.egress ns with
      | some n => (.fenced, 0, countFencedReq (lineIsl p.egress n) s)
      | none =>
        if ns.any (commitWaits s) then (.busy, 0, s)
        else (.ok, BitVec.ofNat 64 p.crc.toNat, ns.foldl (fun s n => modLine p.egress n (fun l => (stageProg p.egress p l).getD l) s) s)

def execProgramLoad (ring : Nat) (ops : LoadOps) (s : State) : Host.Outcome State Fault Refusal :=
  onUnit (decide (ring < 64)) s fun s => endOrder ring (.programLoad ring ops) (lineNeeds ops.lines) (programLoad ops) s

/-- PARSER_LOAD (R206). -/
def parserLoad (o : LoadOps) (s : Chip) : Status × DWord × Chip :=
  let img := o.image.data
  match checkGraph img o.image.len with
  | some e => (.badOperand, packD [(24, 8, e.1), (0, 16, e.2)], s)
  | none =>
    let g := graphOf img
    let ns := linesOf o.lines
    if o.lines = 0 then (.badOperand, 0, s)
    else match fencedLine s g.egress ns with
      | some n => (.fenced, 0, countFencedReq (lineIsl g.egress n) s)
      | none =>
        if ns.any (commitWaits s) then (.busy, 0, s)
        else (.ok, BitVec.ofNat 64 g.crc.toNat, ns.foldl (fun s n => modLine g.egress n (fun l => { l with stgGraph := some g }) s) s)

def execParserLoad (ring : Nat) (ops : LoadOps) (s : State) : Host.Outcome State Fault Refusal :=
  onUnit (decide (ring < 64)) s fun s => endOrder ring (.parserLoad ring ops) (lineNeeds ops.lines) (parserLoad ops) s

/-! Versions of entries (R241, R242) -/

/-- Two entries of an instance have the same key: with the prefix length in an LPM table, with the mask in a PRIORITY table (R265). -/
def sameKey (d : TableDecl) (a b : Entry) : Bool :=
  a.key = b.key && (if d.tkind = 2 then a.band = b.band else if d.tkind = 3 then a.mask % 2 ^ d.keyBits = b.mask % 2 ^ d.keyBits else true)

/-- The relabelling of an instance at the commit (R241). -/
def commitVersions (t : Inst) : Inst :=
  let new := (t.ents.filter (fun x => x.2.vis = 1)).map (fun x => x.2)
  { t with ents := t.ents.map (fun x =>
      (x.1, { x.2 with vis := match x.2.vis with
        | 0 => if new.any (sameKey t.decl x.2) then 4 else 0
        | 1 => 3
        | 2 => 4
        | v => v })) }

/-- Entries of a TCAM instance without those that a test removes, each by the deletion rule of R249, and the entries moved. -/
def tcamPurge (f : Entry → Bool) : Nat → List Entry → List Entry × Nat
  | 0, es => (es, 0)
  | n + 1, es =>
    match es.findIdx? f with
    | none => (es, 0)
    | some i =>
      let d := tcamDelete i es
      let r := tcamPurge f n d.1
      (r.1, d.2 + r.2)

/-- An instance without its OLD entries, and the entries that this moves (R242, R249). -/
def removeOld (t : Inst) : Inst × Nat :=
  let old (e : Entry) : Bool := e.vis = 4
  if t.ents.all (fun x => !old x.2) then (t, 0)
  else if t.decl.tkind = 1 || t.raw then ({ t with ents := t.ents.filter (fun x => !old x.2) }, 0)
  else let r := tcamPurge old t.ents.length (tcamList t); (tcamLay t r.1, r.2)

/-- The relabelling of an instance at the retirement of the epoch before (R242): CUR_NEW becomes ALL, OLD entries are removed. -/
def retireVersions (t : Inst) : Inst :=
  let t := (removeOld t).1
  { t with ents := t.ents.map (fun x => (x.1, if x.2.vis = 3 then { x.2 with vis := 0 } else x.2)) }

/-- The entries that the retirement moves in a Line, which LN_MOVER_MOVES counts (R264). -/
def retireMoves (l : LineSt) : Nat := (l.insts.map (fun t => (removeOld t).2)).sum

/-! EPOCH_COMMIT -/

/-- Attribute fields of the instances a bank binds take the values of its declarations (R236). -/
def bindAttrs (b : Bank) (l : LineSt) : LineSt :=
  let table (t : Inst) : Inst :=
    match b.prog.tables.find? (fun d => sfind b.binds d.id = some t.iid) with
    | none => t
    | some d => { t with decl := { t.decl with
        tflags := d.tflags
        learnAction := d.learnAction
        evq := d.evq
        agePeriod := d.agePeriod
        missAd := d.missAd } }
  let ledger (g : LedgerInst) : LedgerInst :=
    match b.prog.ledgers.find? (fun d => sfind b.lbinds d.id = some g.iid) with
    | none => g
    | some d => { g with decl := { g.decl with evq := d.evq } }
  { l with insts := l.insts.map table, ledgers := l.ledgers.map ledger }

/-- A Line outside the scope gives the new epoch the view it gave the one before (R209). `drains` says that there was one. -/
def keepView (drains : Bool) (l : LineSt) : LineSt :=
  if drains then { l with drnProg := l.curProg, drnGraph := l.curGraph } else l

/-- A Line of the scope makes what is staged the view of the new epoch (R215). -/
def takeView (drains : Bool) (l : LineSt) : LineSt :=
  let cur := match l.stgProg with | none => l.curProg | some b => some b
  let m : LineSt := { keepView drains l with
    live := true
    curProg := cur
    curGraph := (match l.stgGraph with | none => l.curGraph | some g => some g)
    stgProg := none
    stgGraph := none
    insts := l.insts.map commitVersions
    seedDirty := false }
  let m := match cur with | none => m | some b => bindAttrs b m
  let m := if drains then m else { m with insts := m.insts.map retireVersions }
  freeInsts m

/-- Changes every live Line that is not of the scope, and every Line of the scope. -/
def switchLines (egress drains : Bool) (ns : List Nat) (s : Chip) : Chip :=
  (span 0 36).foldl (fun s n =>
    if ns.contains n then
      let moves := if drains then 0 else retireMoves { lineOf s egress n with insts := (lineOf s egress n).insts.map commitVersions }
      lineCount egress n 0x0818 moves (modLine egress n (takeView drains) s)
    else if (lineOf s egress n).live then modLine egress n (keepView drains) s
    else s) s

/-- The live seed of a Line's generator (R493). -/
def liveSeed (s : Chip) (i : Isl) : BitVec 64 := liveW s (caddr i 0x090C) ++ liveW s (caddr i 0x0908)

/-- The generator of a Line restarts from the live seed (R493). -/
def restartRnd (egress : Bool) (n : Nat) (s : Chip) : Chip :=
  modLine egress n (fun l => { l with rnd := liveSeed s (lineIsl egress n) }) s

/-- The commit itself (R215): the number of staged fields a bound replaced, and the state under the new epoch. A Line whose seed was
written since the commit before restarts its generator (R493). -/
def commitEpoch (lines ageMs : Nat) (s : Chip) : Nat × Chip :=
  let ns := linesOf lines
  let e := s.pkt.epoch
  let seeded (egress : Bool) : List Nat := ns.filter (fun n => (lineOf s egress n).seedDirty)
  let seedsI := seeded false
  let seedsE := seeded true
  let s := switchLines true e.live ns (switchLines false e.live ns s)
  let r := commitAll (ns.map .iline ++ ns.map .eline) s
  let s := modPkt (fun k => { k with epoch := { k.epoch with
    live := true
    cur := if e.live then (e.cur + 1) % 65536 else 0
    draining := e.live
    phase2 := runNs s
    ageMs := if ageMs = 0 then 10 else ageMs
    waiting := none } }) r.2
  let s := seedsE.foldl (fun s n => restartRnd true n s) (seedsI.foldl (fun s n => restartRnd false n s) s)
  (r.1, noteStale s)

/-- R219 lets a commit take effect. -/
def commitAllowed (s : Chip) : Bool :=
  let e := s.pkt.epoch
  !e.draining && e.oldest.all (fun x => decide (epochAge ((e.cur + 1) % 65536) x.2 < 16384))

/-- The draining epoch as a result reports it. -/
def drainingField (s : Chip) : Nat :=
  if s.pkt.epoch.draining then (s.pkt.epoch.cur + 65535) % 65536 else 0xFFFF

/-- The result of a commit after `ns` nanoseconds of waiting (R229). -/
def commitResult (lines ageMs waited : Nat) (s : Chip) : Status × DWord × Chip :=
  let r := commitEpoch lines ageMs s
  let t := r.2
  (if r.1 = 0 then .ok else .governed,
    packD [(48, 16, t.pkt.epoch.cur), (32, 16, drainingField t), (16, 16, satAdd 0xFFFF r.1 0), (0, 16, satAdd 0xFFFF ((waited + 999999) / 1000000) 0)], t)

/-- The checks of EPOCH_COMMIT in the card's order, but for the guard of R219. -/
def commitCheck (o : EpochCommitOps) (s : Chip) : Option (Status × Option Isl) :=
  let ns := linesOf o.lines
  if o.lines = 0 || (o.wait && o.timeoutMs = 0) || (!o.wait && o.timeoutMs ≠ 0) then some (.badOperand, none)
  else if 10000 < o.ageMs || 60000 < o.timeoutMs then some (.range, none)
  else match fencedLine s false ns with
    | some n => some (.fenced, some (.iline n))
    | none => match fencedLine s true ns with
      | some n => some (.fenced, some (.eline n))
      | none =>
        if o.expectValid && (!s.pkt.epoch.live || o.expect ≠ s.pkt.epoch.cur) then some (.epochStale, none)
        else if s.pkt.epoch.waiting.isSome then some (.busy, none)
        else if !commitAllowed s && !o.wait then some (.epochBusy, none)
        else none

/-- EPOCH_COMMIT (R229): it commits at once, or waits for R219. -/
def epochCommit (ring : Nat) (o : EpochCommitOps) (s : Chip) : Ran :=
  match commitCheck o s with
  | some (e, i) => .done e 0 (match i with | none => s | some i => countFencedReq i s)
  | none =>
    if commitAllowed s then let r := commitResult o.lines o.ageMs 0 s; .done r.1 r.2.1 r.2.2
    else .going (modPkt (fun k => { k with epoch := { k.epoch with waiting := some (ring, o.lines, o.ageMs, o.timeoutMs, runNs s) } }) s)

def execEpochCommit (ring : Nat) (ops : EpochCommitOps) (s : State) : Host.Outcome State Fault Refusal :=
  onUnit (decide (ring < 64)) s fun s => runOrder ring (.epochCommit ring ops) (lineNeeds ops.lines) (epochCommit ring ops) s

/-- The waiting EPOCH_COMMIT commits once R219 allows it. -/
def execEpochCommitProceed (s : State) : Host.Outcome State Fault Refusal :=
  onChip s fun s => match s.pkt.epoch.waiting with
    | none => s
    | some (ring, lines, ageMs, _, start) =>
      if dead s || !commitAllowed s then s
      else let r := commitResult lines ageMs (elapsed s start) s; finishOrder ring r.1 r.2.1 r.2.2

/-- The waiting EPOCH_COMMIT has waited TIMEOUT_MS (R229, R230). -/
def execEpochCommitTimeout (s : State) : Host.Outcome State Fault Refusal :=
  onChip s fun s => match s.pkt.epoch.waiting with
    | none => s
    | some (ring, _, _, timeout, start) =>
      if dead s || commitAllowed s || decide (elapsed s start < timeout * 1000000) then s
      else
        finishOrder ring .timeout (packD [(48, 16, s.pkt.epoch.cur), (32, 16, drainingField s), (0, 32, satAdd max32 (drainingHeld s) 0)])
          (modPkt (fun k => { k with epoch := { k.epoch with waiting := none } }) s)

/-! Retirement (R217, R242) -/

/-- A Line forgets the draining view. -/
def dropView (l : LineSt) : LineSt :=
  freeInsts { l with drnProg := none, drnGraph := none, drnStale := false, insts := l.insts.map retireVersions }

/-- The draining epoch is retired: its frames are stale from now on. -/
def retireEpoch (s : Chip) : Chip :=
  let s := s.pkt.elines.foldl (fun s x => lineCount true x.1 0x0818 (retireMoves x.2) s)
    (s.pkt.ilines.foldl (fun s x => lineCount false x.1 0x0818 (retireMoves x.2) s) s)
  let s := modPkt (fun k => { k with
    ilines := (k.ilines.map (fun x => (x.1, dropView x.2))).filter (fun x => x.2 ≠ {})
    elines := (k.elines.map (fun x => (x.1, dropView x.2))).filter (fun x => x.2 ≠ {})
    epoch := { k.epoch with draining := false } }) s
  noteStale s

/-- The count of the draining epoch is 0 in every island. -/
def execEpochDrained (s : State) : Host.Outcome State Fault Refusal :=
  onChip s fun s => if dead s || !s.pkt.epoch.draining || drainingHeld s ≠ 0 then s else retireEpoch s

/-- The age limit of the draining epoch expires: its time has passed since phase 2 of the commit (R217). -/
def execEpochAgeLimit (s : State) : Host.Outcome State Fault Refusal :=
  onChip s fun s =>
    let e := s.pkt.epoch
    if dead s || !e.draining || decide (elapsed s e.phase2 < e.ageMs * 1000000) then s else retireEpoch s

/-! EPOCH_STATUS (R231) -/

/-- SELECT 0. -/
def epochSummary (s : Chip) : Status × DWord × Chip :=
  let e := s.pkt.epoch
  let live := s.pkt.ilines.any (fun x => x.2.live) || s.pkt.elines.any (fun x => x.2.live)
  (.ok, packD [(48, 16, e.cur), (32, 16, drainingField s), (24, 1, b2n live), (25, 1, b2n e.draining), (26, 1, b2n (someStale s)),
    (27, 1, b2n e.waiting.isSome), (0, 24, satAdd 0xFFFFFF (drainingHeld s) 0)], s)

def execEpochStatusSummary (ring : Nat) (s : State) : Host.Outcome State Fault Refusal :=
  onUnit (decide (ring < 64)) s fun s => endOrder ring (.epochStatusSummary ring) noNeeds epochSummary s

/-- SELECT 1. -/
def epochBank (o : EpochBankOps) (s : Chip) : Status × DWord × Chip :=
  let l := lineOf s o.egress o.line
  if 2 < o.bank then (.badOperand, 0, s)
  else if 35 < o.line then (.range, 0, s)
  else if isFenced s (lineIsl o.egress o.line) then (.fenced, 0, countFencedReq (lineIsl o.egress o.line) s)
  else if o.bank = 1 && !s.pkt.epoch.draining then (.epochStale, 0, s)
  else if o.bank < 2 && !l.live then (.notFound, 0, s)
  else
    let prog := match o.bank with | 0 => l.curProg | 1 => l.drnProg | _ => l.stgProg
    let graph := match o.bank with | 0 => l.curGraph | 1 => l.drnGraph | _ => l.stgGraph
    let pid := match prog with | none => 0xFFFFFFFF | some b => b.prog.progId.toNat
    let gid := match graph with | none => 0xFFFFFFFF | some g => g.graphId.toNat
    (.ok, packD [(32, 32, pid), (0, 32, gid)], s)

def execEpochStatusBank (ring : Nat) (ops : EpochBankOps) (s : State) : Host.Outcome State Fault Refusal :=
  onUnit (decide (ring < 64)) s fun s => endOrder ring (.epochStatusBank ring ops)
    (fun s => if 35 < ops.line then [] else offDomains s [lineIsl ops.egress ops.line]) (epochBank ops) s

end Sys2Proof.Machine
end

