-- ==== Sys2Proof/Machine/Plan.lean ====
section
/-!
DEFINITION. The buffer plan (R291 to R294, R318): derived by PORT_SET, QUEUE_SET and SPILL_SET for all eight Yards.
-/

namespace Sys2Proof.Machine

/-- Merges entries with rising keys into a map, dropping those that `skip` names. -/
def smerge {α : Type} (skip : Nat → α → Bool) : List (Nat × α) → Sparse α → Sparse α
  | [], m => m
  | (k, v) :: es, m =>
    let lo := m.takeWhile (fun x => decide (x.1 < k))
    let hi := match m.dropWhile (fun x => decide (x.1 < k)) with
      | [] => []
      | x :: xs => if x.1 = k then xs else x :: xs
    lo ++ (if skip k v then smerge skip es hi else (k, v) :: smerge skip es hi)

/-- PF_PG_MAP of a port: the priority group of priority `k` (R315). -/
def prioGroup (s : Chip) (p k : Nat) : Nat := bits (liveW s (portWord p 0x1000 0x04)).toNat (3 * k) 3

/-- Priority group `g` of a port is lossless: PFC_EN enables a priority that the map assigns to it (R291). -/
def losslessGroup (s : Chip) (p : Nat) (v : Port) (g : Nat) : Bool :=
  (span 0 8).any (fun k => bit v.pfcEn k && prioGroup s p k = g)

/-- H of a port (R318): the rate of its MODE in bytes per ns is `modeRate` / 8. -/
def headroomOf (v : Port) : Nat :=
  (modeRate v.mode * (700 + v.policy.peerNs + 2 * v.policy.propNs) + 2047) / 2048 + 2 * portCells v

/-- QUOTA_PCT of a group, with the defaults of R291. -/
def quotaPct (v : Port) (g : Nat) (lossless : Bool) : Nat :=
  let x := sget 0 v.policy.quotaPct g
  if x ≠ 0 then x else if lossless then 10 else 25

/-- Priority group `g` of port `p` as the plan sees it. -/
structure PlanGroup where
  p : Nat
  g : Nat
  port : Port
  lossless : Bool
deriving DecidableEq, Repr

/-- Every priority group of every configured port. -/
def allGroups (s : Chip) : List PlanGroup :=
  ((portList s).map (fun p => match portOf s p with
    | none => []
    | some v => (span 0 8).map (fun g => ⟨p, g, v, losslessGroup s p v g⟩))).flatten

/-- `YD_HDRM_POOL` of the plan over some groups (R292). -/
def planPool (gs : List PlanGroup) : Nat := min ((gs.filter (·.lossless)).map (fun x => headroomOf x.port)).sum 32768

/-- `YD_SHARED_LIMIT` of the plan (R292). -/
def planShared (gs : List PlanGroup) : Nat :=
  131072 - 5120 - ((gs.filter (·.lossless)).map (fun x => portCells x.port)).sum - planPool gs

/-- Queues whose limit no common value gives: a LIMIT_PCT of their own, or a spill allowance. -/
def limitQueues (s : Chip) : List Nat :=
  let pct := (s.pkt.qs.filter (fun x => x.2.limitPct ≠ 50)).map (fun x => x.1)
  let allow := (s.live.filter (fun x =>
    match islOf (x.1 / 2 ^ 32) with
    | some (.quarry _) => 0x40000 ≤ x.1 % 2 ^ 32 && x.1 % 16 = 8
    | _ => false)).map (fun x => (x.1 % 2 ^ 32 - 0x40000) / 16)
  (pct ++ allow).foldl nadd []

/-- The words of one requester, if a policy names them. -/
def groupWords (shared : Nat) (x : PlanGroup) : List (Nat × Nat) :=
  let off := 0x10000 + 16 * (8 * x.p + x.g)
  let share := shared * quotaPct x.port x.g x.lossless / 100
  if x.lossless then
    [(off, portCells x.port), (off + 4, 2 ^ 31 + portCells x.port + share), (off + 8, headroomOf x.port)]
  else if quotaPct x.port x.g x.lossless = 25 then []
  else [(off, 0), (off + 4, share), (off + 8, 0)]

/-- The words of the plan that a policy names, for Yard `y`, by control address (R292). -/
def planWords (gs : List PlanGroup) (qs : List Nat) (s : Chip) (y : Nat) : List (Nat × Word) :=
  let shared := planShared gs
  let fixed (r rsv quota : Nat) : List (Nat × Nat) := [(0x10000 + 16 * r, rsv), (0x10000 + 16 * r + 4, quota)]
  let limits := (qs.filter (fun q => queueYard s q = y)).map (fun q =>
    (0x40000 + 4 * q, shared * (queueSt s q).limitPct / 100 + spillAllowance s q))
  ([(0x0100, shared), (0x0104, planPool gs)] ++ (gs.map (groupWords shared)).flatten ++ fixed 4096 1024 8192 ++
    fixed 4097 1024 16384 ++ fixed 4098 1024 16384 ++ fixed 4099 2048 16384 ++ limits).map
    (fun (x : Nat × Nat) => (caddr (.yard y) x.1, BitVec.ofNat 32 x.2))

/-- A word of Yard `y` that the plan gives. -/
def isPlanWord (y ca : Nat) : Bool :=
  let off := ca % 2 ^ 32
  ca / 2 ^ 32 = (Isl.yard y).code && (off = 0x0100 || off = 0x0104 || (0x10000 ≤ off && off < 0x20000) ||
    (0x20000 ≤ off && off < 0x20040 && off % 16 ≠ 8) || (0x40000 ≤ off && off < 0x60000))

/-- Puts the plan in force in one Yard: what was staged there and is no word of the plan goes live with it (R116). A fenced Yard
takes it from the shadow when it returns (R454). -/
def planYard (gs : List PlanGroup) (qs : List Nat) (y : Nat) (s : Chip) : Chip :=
  let shared := planShared gs
  let ws := planWords gs qs s y
  let s := { s with shadow := smerge (fun _ _ => false) ws (s.shadow.filter (fun x => !isPlanWord y x.1)),
                    pkt := { s.pkt with plan := shared } }
  if isFenced s (.yard y) then s
  else
    let s := { s with staged := s.staged.filter (fun x => !isPlanWord y x.1) }
    let s := (commitIsl (.yard y) s).2
    let s := modYard y (fun v => { v with plan := shared }) s
    { s with live := smerge (fun k v => decide (v = defWord s k)) ws (s.live.filter (fun x => !isPlanWord y x.1)) }

/-- Derives the plan and commits all eight Yards (R294). -/
def derivePlan (s : Chip) : Chip :=
  let gs := allGroups s
  let qs := limitQueues s
  (span 0 8).foldl (fun s y => planYard gs qs y s) s

/-- Words of an island put into the live value and the shadow at once, as a Basic Order that derives them does (R14, R116). -/
def deriveWord (i : Isl) (off : Nat) (w : Word) (s : Chip) : Chip :=
  let ca := caddr i off
  let s := setShadow ca w (setLive ca w s)
  { s with staged := sdel s.staged ca }

end Sys2Proof.Machine
end

