-- ==== Sys2Proof/Machine/Lanes.lean ====
section
/-!
DEFINITION. LANE_TUNE (R134) and what lanes report (R128 to R133, R136, R137).
-/

namespace Sys2Proof.Machine

/-! Transmit settings (R128, R129) -/

/-- The nearest value inside a range. -/
def limitI (lo hi v : Int) : Int := if v < lo then lo else if hi < v then hi else v

/-- The clamp of R128 in the order of R129. -/
def clampTx (t : TxSet) : TxSet :=
  let a := limitI (-16) 16 t.cm2
  let b := limitI (-40) 0 t.cm1
  let c := limitI 64 128 t.c0
  let d := limitI (-40) 0 t.c1
  let sum (a b c d : Int) : Int := a.natAbs + b.natAbs + c + d.natAbs
  let excess (a b c d : Int) : Int := max 0 (sum a b c d - 128)
  let c := max 64 (c - excess a b c d)
  let d := min 0 (d + excess a b c d)
  let b := min 0 (b + excess a b c d)
  let cut := excess a b c d
  let a := if 0 ≤ a then max 0 (a - cut) else min 0 (a + cut)
  { cm2 := a, cm1 := b, c0 := c, c1 := d, swing := max 500 (min 1100 t.swing) }

/-- A setting from 40 bits: four signed taps and the swing in units of 4 mVppd. -/
def txOfBits (x : Nat) : TxSet :=
  clampTx { cm2 := signed 8 (bits x 24 8), cm1 := signed 8 (bits x 16 8), c0 := signed 8 (bits x 8 8),
            c1 := signed 8 (bits x 0 8), swing := 4 * bits x 32 8 }

/-- The transmit preset of a mode (R127, R139): the spec states no values. -/
def txPreset (mode : Nat) : TxSet := txOfBits (Config.txPreset mode).toNat

/-- The result of LANE_TUNE: margin, swing and taps (R134). -/
def tuneResult (margin : Nat) (t : TxSet) : DWord :=
  packD [(48, 8, margin), (32, 16, t.swing), (24, 8, unsignedOf 8 t.cm2), (16, 8, unsignedOf 8 t.cm1),
    (8, 8, unsignedOf 8 t.c0), (0, 8, unsignedOf 8 t.c1)]

/-- The control address of a lane's word at `off` of its block (R132). -/
def laneWord (l off : Nat) : Nat := portWord l 0x4000 off

/-- Sets or clears PF_ADAPT_FREEZE of a lane. -/
def setFreeze (l : Nat) (v : Bool) (s : Chip) : Chip :=
  let ca := laneWord l 0
  let w := mergeW (liveW s ca) (packW [(7, 1, b2n v)]) 0x80#32
  if w = liveW s ca then s else setShadow ca w (setLive ca w s)

/-- The receiver of a lane is frozen. -/
def laneFrozen (s : Chip) (l : Nat) : Bool := bit (liveW s (laneWord l 0)).toNat 7

/-- The receiver of a locked lane adapts on while it is not frozen: what its taps become the spec does not say (R128). -/
def adaptLane (l : Nat) (s : Chip) : Chip :=
  if laneFrozen s l || !(laneOf s l).lock then s
  else
    let taps := (span s.free 20).map Config.freeValue
    let s := modLane l (fun v => { v with ffe := taps.take 8, dfe := taps.drop 8 }) s
    { s with free := s.free + 20 }

/-- A Platform's request is refused while it is fenced, and counted (R450). -/
def unlessFenced (i : Isl) (s : Chip) (f : Chip → Status × DWord × Chip) : Status × DWord × Chip :=
  if isFenced s i then (.fenced, 0, countFencedReq i s) else f s

/-- The frame of LANE_TUNE: the lane's port and fence, then its action. -/
def laneTune (l : Nat) (f : Port → Chip → Status × DWord × Chip) (s : Chip) : Status × DWord × Chip :=
  match portOfLane s l with
  | none => (.notFound, 0, s)
  | some p => match portOf s p with
    | none => (.notFound, 0, s)
    | some v => unlessFenced (.platform (platformOf l)) s (f v)

/-- The port is in AN or TRAINING, so SET_TX and RELEASE wait (R134). -/
def Port.tuneBusy (v : Port) : Bool := v.st = .an || v.st = .training

/-- SET_TX. The governor counts a clamp (R474). -/
def tuneSetTx (l : Nat) (t : TxSet) (v : Port) (s : Chip) : Status × DWord × Chip :=
  if v.tuneBusy then (.busy, 0, s)
  else
    let c := clampTx t
    let s := modLane l (fun x => { x with tx := c, txHeld := true }) s
    (if c = t then .ok else .governed, tuneResult 0 c, if c = t then s else countClamp (executor s (4 + 3 * (l / 128))) s)

/-- RELEASE. -/
def tuneRelease (l : Nat) (v : Port) (s : Chip) : Status × DWord × Chip :=
  if v.tuneBusy then (.busy, 0, s) else (.ok, 0, setFreeze l false (modLane l (fun x => { x with txHeld := false }) s))

/-- READ_BEST. -/
def tuneBest (s : Chip) (l : Nat) : DWord :=
  match (laneOf s l).best with | none => 0 | some b => tuneResult b.2 b.1

/-- The domain of a lane's Platform, if it is off (R50). -/
def laneNeeds (l : Nat) (s : Chip) : List Nat := if l < 512 then offDomains s [.platform (platformOf l)] else []

def execLaneTuneSetTx (ring : Nat) (ops : LaneTuneTxOps) (s : State) : Host.Outcome State Fault Refusal :=
  onUnit (decide (ring < 64)) s fun s => endOrder ring (.laneTuneSetTx ring ops) (laneNeeds ops.lane)
    (laneTune ops.lane (tuneSetTx ops.lane ops.tx)) s

def execLaneTuneFreezeRx (ring lane : Nat) (s : State) : Host.Outcome State Fault Refusal :=
  onUnit (decide (ring < 64)) s fun s => endOrder ring (.laneTuneFreezeRx ring lane) (laneNeeds lane)
    (laneTune lane (fun _ s => (.ok, 0, setFreeze lane true s))) s

def execLaneTuneRelease (ring lane : Nat) (s : State) : Host.Outcome State Fault Refusal :=
  onUnit (decide (ring < 64)) s fun s => endOrder ring (.laneTuneRelease ring lane) (laneNeeds lane)
    (laneTune lane (tuneRelease lane)) s

def execLaneTuneReadTx (ring lane : Nat) (s : State) : Host.Outcome State Fault Refusal :=
  onUnit (decide (ring < 64)) s fun s => endOrder ring (.laneTuneReadTx ring lane) (laneNeeds lane)
    (laneTune lane (fun _ s => (.ok, tuneResult 0 (laneOf s lane).tx, s))) s

def execLaneTuneReadBest (ring lane : Nat) (s : State) : Host.Outcome State Fault Refusal :=
  onUnit (decide (ring < 64)) s fun s => endOrder ring (.laneTuneReadBest ring lane) (laneNeeds lane)
    (laneTune lane (fun _ s => (.ok, tuneBest s lane, s))) s

/-! Lane events -/

/-- A lane's receiver runs: the device is up, its Platform has power and is not fenced, and its reference is present. -/
def laneAlive (s : Chip) (l : Nat) : Bool :=
  !dead s && isOn s (.platform (platformOf l)) && !isFenced s (.platform (platformOf l)) && !s.power.tileLost.contains (l / 64)

/-- The port that a lane's loss takes down (R135, R136): one that was past training and is not in Quiet. -/
def faultPort (l : Nat) (s : Chip) : Chip :=
  match portOfLane s l with
  | none => s
  | some p => match portOf s p with
    | none => s
    | some v => if v.st = .up || v.st = .aligning || v.st = .remote then portTo p .fault s else s

/-- The lane's port is in Quiet: its receivers keep signal detect alone (R142). -/
def laneQuiet (s : Chip) (l : Nat) : Bool :=
  match portOfLane s l with
  | none => false
  | some p => match portOf s p with | none => false | some v => v.st = .quiet

def execLosDetected (lane : Nat) (s : State) : Host.Outcome State Fault Refusal :=
  onUnit (decide (lane < 512)) s fun s => if !laneAlive s lane || laneQuiet s lane then s
    else recclkUpdate (faultPort lane (modLane lane (fun v => { v with los := true, lock := false, sd := false }) s))

def execLolDetected (lane : Nat) (s : State) : Host.Outcome State Fault Refusal :=
  onUnit (decide (lane < 512)) s fun s => if !laneAlive s lane || laneQuiet s lane then s
    else recclkUpdate (faultPort lane (modLane lane (fun v => { v with lock := false }) s))

def execLosCleared (lane : Nat) (s : State) : Host.Outcome State Fault Refusal :=
  onUnit (decide (lane < 512)) s fun s => if laneAlive s lane then modLane lane (fun v => { v with los := false, sd := true }) s else s

/-- A port in FAULT whose lanes are all locked passes to ALIGNING, unless R453 holds it (R135, R136). -/
def faultLeave (p : Nat) (s : Chip) : Chip :=
  match portOf s p with
  | none => s
  | some v =>
    if v.st = .fault && allLocked s p && !platformHeld s (platformOf p) then portTo p .aligning s else s

def execLockRegained (lane : Nat) (s : State) : Host.Outcome State Fault Refusal :=
  onUnit (decide (lane < 512)) s fun s => if !laneAlive s lane || (laneOf s lane).los || laneQuiet s lane then s
    else
      let s := recclkUpdate (adaptLane lane (modLane lane (fun v => { v with lock := true, retrain := false }) s))
      match portOfLane s lane with | none => s | some p => faultLeave p s

/-- A lane that has not re-locked in 10 ms is retrained alone (R136). -/
def relockTimeout (l : Nat) (s : Chip) : Chip :=
  match portOfLane s l with
  | none => s
  | some p => match portOf s p with
    | none => s
    | some v =>
      if v.st = .fault && !(laneOf s l).lock && laneAlive s l then modLane l (fun x => { x with retrain := true }) s else s

def execRelockTimeout (lane : Nat) (s : State) : Host.Outcome State Fault Refusal :=
  onUnit (decide (lane < 512)) s fun s => relockTimeout lane s

/-- TRAIN_FAIL of a lane (R137). -/
def trainFail (l : Nat) (best : TxSet) (margin : Nat) (s : Chip) : Chip :=
  match portOfLane s l with
  | none => s
  | some p => match portOf s p with
    | none => s
    | some v =>
      if !laneAlive s l || !(v.st = .training || v.st = .fault) then s
      else
        let i := Isl.platform (platformOf l)
        let s := modLane l (fun x => { x with best := some (clampTx best, margin), retrain := false, lock := false }) s
        let s := bumpField i (0x4000 + 0x40 * laneIndex l + 4) 0 8 1 s
        let s := portTo p .backoff s
        let s := modPort p (fun v => { v with backoff := min 11 (v.backoff + 1), backoffAt := runNs s, afterFail := true, failRaised := true }) s
        if v.failRaised then s else raise i (laneIndex l) clsLane 2 s

def execTrainFail (lane : Nat) (best : TxSet) (margin : Nat) (s : State) : Host.Outcome State Fault Refusal :=
  onUnit (decide (lane < 512)) s fun s => trainFail lane best margin s

/-- The frame a port is receiving is cut off with an FCS error (R131): the newest one not yet whole. -/
def markInProgress (p : Nat) (s : Chip) : Chip :=
  let rx := s.pkt.rx.filter (fun f => !f.siding && f.host.isNone && f.m.inPort = p)
  let jn := s.pkt.jn.filter (fun f => f.first && f.host.isNone && f.m.inPort = p)
  let sh := s.pkt.shares.filter (fun h => decide (h.req < 4096) && h.req / 8 = p && !h.written)
  let fid := (rx.map (·.fid) ++ jn.map (·.fid) ++ sh.map (·.fid)).foldl max 0
  let mark (b : Nat) : Nat := if b = 0 then 1 else b
  if rx = [] && jn = [] && sh = [] then s
  else modPkt (fun k => { k with
    rx := k.rx.map (fun f => if f.fid = fid then { f with bad := mark f.bad } else f)
    jn := k.jn.map (fun f => if f.fid = fid then { f with bad := mark f.bad } else f)
    shares := k.shares.map (fun h => if h.fid = fid && !h.written then { h with endBad := mark h.endBad } else h) }) s

/-- The FIFO of a lane overruns or underruns (R131). PF_RATEMATCH_ERR counts it whether or not a frame is in progress (DESIGN CHOICE,
log 159). -/
def execRateMatchOverrun (lane : Nat) (s : State) : Host.Outcome State Fault Refusal :=
  onUnit (decide (lane < 512)) s fun s => if !laneAlive s lane then s
    else
      let s := bump (.platform (platformOf lane)) (0x4000 + 0x40 * laneIndex lane + 8) 1 s
      match portOfLane s lane with | none => s | some p => markInProgress p s

def execEyeMarginUpdate (lane mv : Nat) (s : State) : Host.Outcome State Fault Refusal :=
  onUnit (decide (lane < 512)) s fun s => if laneAlive s lane && (laneOf s lane).lock then
      monSample 3 lane (min mv 255 : Nat) (adaptLane lane (modLane lane (fun v => { v with eye := min mv 255 }) s))
    else s

end Sys2Proof.Machine
end

