-- ==== Sys2Proof/Machine/PortEvents.lean ====
section
/-!
DEFINITION. What happens to a port by itself: negotiation, training, alignment, faults, backoff (R126, R132, R135 to R138), failover
(R150), the Quiet state (R142, R143), PFC (R153, R154) and management frames (R145).
-/

namespace Sys2Proof.Machine

/-- Applies a change to a configured port whose state satisfies a test, while its Platform runs and is not fenced. -/
def onPort (p : Nat) (st : Port → Bool) (f : Port → Chip → Chip) (s : Chip) : Chip :=
  match portOf s p with
  | none => s
  | some v =>
    if st v && !dead s && isOn s (.platform (platformOf p)) && !isFenced s (.platform (platformOf p)) then f v s else s

/-! Link states -/

/-- The highest mode of a mask. -/
def highestMode (mask : Nat) : Option Nat := ((span 0 32).filter (fun m => bit mask m && (modeSpec m).isSome)).getLast?

/-- The Efnus extended modes, by bit of the unformatted page (R127). -/
def extendedModes : List (Nat × Nat) := [(0, 0x06), (1, 0x0C), (2, 0x14), (3, 0x1B)]

/-- The unformatted page a port sends (R127): U0 to U3 the extended modes it advertises, U4 Quiet, U5 to U10 0. -/
def ownPage (v : Port) : BitVec 11 :=
  BitVec.ofNat 11 (pack ((4, 1, b2n v.quietOk) :: extendedModes.map (fun x => (x.1, 1, b2n (bit v.advMask.toNat x.2)))))

/-- Modes a partner advertises: the extended ones in its unformatted page alone, whose bits U5 to U10 are ignored (R127). -/
def partnerModes (p : Partner) : Nat :=
  let page := match p.page with | none => 0 | some x => x.toNat
  maskOf ((span 0 32).filter (fun m => match extendedModes.find? (fun x => x.2 = m) with
    | some x => bit page x.1
    | none => bit p.modes.toNat m))

/-- A partner advertises Quiet (R127). -/
def partnerQuiet (p : Partner) : Bool := match p.page with | none => false | some x => bit x.toNat 4

/-- Recovered clocks that PORT_SET took from a port follow the rate that negotiation gives its lanes (R146; DESIGN CHOICE, log 162). -/
def recclkFollow (p old new : Nat) (s : Chip) : Chip :=
  (span 0 2).foldl (fun s k =>
    let w := liveW s (recclkWord k)
    if w = packW [(31, 1, 1), (20, 11, recclkDiv old), (0, 9, p)] then
      let x := packW [(31, 1, 1), (20, 11, recclkDiv new), (0, 9, p)]
      setShadow (recclkWord k) x (setLive (recclkWord k) x s)
    else s) s

/-- The pages are exchanged, and AN resolves to the highest mode that both ends advertise (R126, R127). With none the port stays. -/
def anAgree (p : Nat) (partner : Partner) (v : Port) (s : Chip) : Chip :=
  let s := emit (.anPages p Config.efnusOui (ownPage v)) s
  match highestMode (Nat.land v.advMask.toNat (partnerModes partner)) with
  | none => s
  | some m => recclkFollow p v.inForce m (portTo p .training (modPort p (fun v => { v with
      inForce := m, fecInForce := decide (m = 0x02) && (v.rsFec || partner.rsFec), quietAgreed := v.quietOk && partnerQuiet partner }) s))

def execAnAgreement (port : Nat) (partner : Partner) (s : State) : Host.Outcome State Fault Refusal :=
  onUnit (decide (port < 512)) s fun s => onPort port (fun v => v.st = .an) (anAgree port partner) s

/-- A lane has locked, and its receiver adapts on. Taps that are not held are what training left: the spec states no values. While taps are
held, every coefficient request is answered "not updated" (R133). -/
def lockLane (trained : Bool) (l : Nat) (s : Chip) : Chip :=
  let x := (freeNext s).toNat
  let s := if trained then emit (.coefficients l (!(laneOf s l).txHeld)) (freeTake s) else s
  adaptLane l (modLane l (fun v =>
    { v with los := false, lock := true, sd := true, retrain := false, tx := if trained && !v.txHeld then txOfBits x else v.tx }) s)

def execLaneTrainingDone (port : Nat) (s : State) : Host.Outcome State Fault Refusal :=
  onUnit (decide (port < 512)) s fun s => onPort port (fun v => v.st = .training)
    (fun v s => portTo port .aligning ((portLanes port v).foldl (fun s l => lockLane v.train l s) s)) s

/-- The state from which a port starts, or FAULT while R453 holds its Platform. -/
def startOrHeld (s : Chip) (p : Nat) (v : Port) (adminDown : Bool) : PortState :=
  if !adminDown && platformHeld s (platformOf p) then .fault else startState v adminDown

/-- The wait in BACKOFF in ns after the k-th TRAIN_FAIL since the port was last in UP (R137). -/
def backoffWait (k : Nat) : Nat := if 10 < k then 1000000000 else 2 ^ (k - 1) * 1000000

def execBackoffExpiry (port : Nat) (s : State) : Host.Outcome State Fault Refusal :=
  onUnit (decide (port < 512)) s fun s => onPort port (fun v => v.st = .backoff && decide (backoffWait v.backoff ≤ elapsed s v.backoffAt))
    (fun v s => portTo port (startOrHeld s port v false) (modPort port (fun v => { v with afterFail := false }) s)) s

/-- Alignment is found with a skew in ns (R132): above 180 ns over several lanes the port stays and raises its fault once. One occurrence
lasts until the port reaches UP or PORT_SET starts it again, through FAULT and BACKOFF (DESIGN CHOICE, log 160). -/
def align (p skewNs : Nat) (v : Port) (s : Chip) : Chip :=
  if 180 < skewNs && 1 < modeWidth v.inForce then
    if v.skewRaised then s
    else raise (.platform (platformOf p)) (0x10 + laneIndex p) clsLane 2 (modPort p (fun v => { v with skewRaised := true }) s)
  else portToUp p s

def execPortAligned (port skewNs : Nat) (s : State) : Host.Outcome State Fault Refusal :=
  onUnit (decide (port < 512)) s fun s => onPort port (fun v => v.st = .aligning) (align port skewNs) s

def execSkewRetry (port skewNs : Nat) (s : State) : Host.Outcome State Fault Refusal :=
  onUnit (decide (port < 512)) s fun s => onPort port (fun v => v.st = .aligning && v.skewRaised) (align port skewNs) s

def execAlignmentLost (port lane : Nat) (s : State) : Host.Outcome State Fault Refusal :=
  onUnit (decide (port < 512) && decide (lane < 512)) s fun s => onPort port (fun v => v.st = .up && (portLanes port v).contains lane)
    (fun _ s => portTo port .fault s) s

def execRemoteFaultReceived (port : Nat) (s : State) : Host.Outcome State Fault Refusal :=
  onUnit (decide (port < 512)) s fun s => onPort port (fun v => v.st = .up)
    (fun _ s => portTo port .remote (modPort port (fun v => { v with remoteFault := true }) s)) s

def execRemoteFaultCleared (port : Nat) (s : State) : Host.Outcome State Fault Refusal :=
  onUnit (decide (port < 512)) s fun s => onPort port (fun v => v.st = .remote) (fun _ s => portToUp port s) s

/-! Failover (R150) -/

/-- A member has stayed in UP for WTR: a group with REVERT resolves by preference again, or restores its fill over the members
that are up. -/
def revertGroup (s : Chip) (g : Group) : Group :=
  if g.spread then { g with slots := fillSlots (g.members.filter (portUp s)) } else { g with current := firstUp s g.members }

def execWtrExpiry (group port : Nat) (s : State) : Host.Outcome State Fault Refusal :=
  onUnit (decide (group < 1024) && decide (port < 512)) s fun s => match groupOf s group with
    | none => s
    | some g =>
      let stayed := match portOf s port with | none => false | some v => decide (g.wtr * 1000000 ≤ elapsed s v.upSince)
      if g.revert && g.members.contains port && portUp s port && stayed then setGroup group (some (revertGroup s g)) s else s

/-! The Quiet state (R142, R143) -/

/-- Every queue of a port is empty. -/
def queuesEmpty (s : Chip) (p : Nat) : Bool := (span 0 20).all (fun j => queueOf s (queueId p j) = [])

/-- The conditions of R142, but for the partner's answer. -/
def quietReady (s : Chip) (p : Nat) (v : Port) : Bool :=
  v.st = .up && v.quietOk && (!v.an || v.quietAgreed) && isStandby s p && queuesEmpty s p &&
    (match modeSpec v.inForce with | none => false | some m => 26562500 ≤ m.kbd)

/-- The port enters QUIET: its receivers store their state and keep signal detect. -/
def enterQuiet (p : Nat) (v : Port) (s : Chip) : Chip :=
  let s := (portLanes p v).foldl (fun s l => modLane l (fun x => { x with lock := false }) s) s
  portTo p .quiet (modPort p (fun v => { v with quietAgreed := true }) s)

/-- A wake of a Quiet port: it sends its burst and sync word. -/
def wakePort (p : Nat) (s : Chip) : Chip :=
  onPort p (fun v => v.st = .quiet) (fun _ s => portTo p .waking (emit (.quiet p 3) s)) s

/-- A standby port sends its markers, and the partner answers. -/
def quietEnter (p : Nat) (s : Chip) : Chip :=
  onPort p (fun v => quietReady s p v) (fun v s => enterQuiet p v (emit (.quiet p 0) s)) s

def execQuietEntry (port : Nat) (s : State) : Host.Outcome State Fault Refusal :=
  onUnit (decide (port < 512)) s fun s => quietEnter port s

def execQuietRequestReceived (port : Nat) (s : State) : Host.Outcome State Fault Refusal :=
  onUnit (decide (port < 512)) s fun s => onPort port (fun v => quietReady s port v)
    (fun v s => enterQuiet port v (emit (.quiet port 1) s)) s

/-- The markers stay without an answer: the port stays UP. -/
def execQuietAnswerTimeout (port : Nat) (s : State) : Host.Outcome State Fault Refusal :=
  onUnit (decide (port < 512)) s fun s => onPort port (fun v => quietReady s port v) (fun _ s => emit (.quiet port 0) s) s

def execQuietBeacon (port : Nat) (s : State) : Host.Outcome State Fault Refusal :=
  onUnit (decide (port < 512)) s fun s => onPort port (fun v => v.st = .quiet) (fun _ s => emit (.quiet port 2) s) s

def execStandbyLost (port : Nat) (s : State) : Host.Outcome State Fault Refusal :=
  onUnit (decide (port < 512)) s fun s => onPort port (fun v => v.st = .quiet && !v.standbyLost)
    (fun _ s => raise (.platform (platformOf port)) (0x20 + laneIndex port) clsLane 2
      (modPort port (fun v => { v with standbyLost := true }) s)) s

/-- A wake event is present: the group needs the port, or a frame waits in one of its queues. -/
def execQuietWake (port : Nat) (s : State) : Host.Outcome State Fault Refusal :=
  onUnit (decide (port < 512)) s fun s => if groupNeeds s port || !queuesEmpty s port then wakePort port s else s

def execWakeBurstReceived (port : Nat) (s : State) : Host.Outcome State Fault Refusal :=
  onUnit (decide (port < 512)) s fun s => wakePort port s

def execWakeRelock (port : Nat) (s : State) : Host.Outcome State Fault Refusal :=
  onUnit (decide (port < 512)) s fun s => onPort port (fun v => v.st = .waking)
    (fun v s => portToUp port ((portLanes port v).foldl (fun s l => lockLane false l s) s)) s

def execQuietReentry (port : Nat) (s : State) : Host.Outcome State Fault Refusal :=
  onUnit (decide (port < 512)) s fun s => quietEnter port s

/-! PFC (R153, R154) -/

/-- Run count in ns at which a pause of some quanta of 512 bit times ends. -/
def pauseEnd (s : Chip) (v : Port) (quanta : Nat) : Nat :=
  let r := modeRate v.inForce
  (runNs s + (quanta * 512 + r - 1) / r) % 2 ^ 48

/-- A received PFC frame: counted, and each enabled priority it names is paused or released. -/
def pfcReceive (p classes : Nat) (quanta : List Nat) (v : Port) (s : Chip) : Chip :=
  let s := bump (.platform (platformOf p)) (0x1000 + 0x40 * laneIndex p + 0x08) 1 s
  let named := (span 0 8).filter (fun k => bit classes k && bit v.pfcEn k)
  modPort p (fun v => { v with paused := named.foldl (fun m k =>
    let q := nth 0 quanta k % 65536
    if q = 0 then sdel m k else sins m k (pauseEnd s v q)) v.paused }) s

def execPfcFrameReceived (port classes : Nat) (quanta : List Nat) (s : State) : Host.Outcome State Fault Refusal :=
  onUnit (decide (port < 512)) s fun s => onPort port (fun v => v.st = .up)
    (fun v s => pfcReceive port classes quanta v (pmcCount (.platform (platformOf port)) 0x20 (laneIndex port) s)) s

def execPauseFrameReceived (port : Nat) (s : State) : Host.Outcome State Fault Refusal :=
  onUnit (decide (port < 512)) s fun s => onPort port (fun v => v.st = .up)
    (fun _ s => bump (.platform (platformOf port)) (0x1000 + 0x40 * laneIndex port + 0x0C) 1
      (pmcCount (.platform (platformOf port)) 0x20 (laneIndex port) s)) s

def execPauseExpiry (port prio : Nat) (s : State) : Host.Outcome State Fault Refusal :=
  onUnit (decide (port < 512) && decide (prio < 8)) s fun s => modPort port (fun v =>
    { v with paused := if remaining s (sget 0 v.paused prio) = 0 then sdel v.paused prio else v.paused }) s

/-- XOFF is repeated for one priority that stays paused by its group (R153, R317). -/
def xoffAgain (p k : Nat) (v : Port) (s : Chip) : Chip :=
  let w := (liveW s (portWord p 0x1000 0x00)).toNat
  if bit v.pfcEn k && xoffPg s (8 * p + bits (liveW s (portWord p 0x1000 0x04)).toNat (3 * k) 3) then
    pmcCount (.platform (platformOf p)) 0x24 (laneIndex p) (emit (.pfc p k (w / 2 ^ 16) (pfcFrame p k (w / 2 ^ 16))) s)
  else s

def execXoffRefresh (port prio : Nat) (s : State) : Host.Outcome State Fault Refusal :=
  onUnit (decide (port < 512) && decide (prio < 8)) s fun s => onPort port (fun v => v.st = .up) (xoffAgain port prio) s

/-! Management lanes (R145) -/

/-- A management lane. -/
def mgmtOf (s : Chip) (n : Nat) : Option Mgmt := sget none s.ports.mgmt n

/-- A frame received on a management lane is delivered to its queue; one longer than MAX_FRAME is discarded. -/
def mgmtReceive (lane : Nat) (bytes : List Byte) (s : Chip) : Chip :=
  match mgmtOf s lane with
  | none => s
  | some g =>
    if dead s || isFenced s .mg || g.st ≠ .up || g.maxFrame < bytes.length + 4 then s
    else (deliver g.rxq { inPort := 0x8000 + lane, reason := 0, ts := 0, bytes := bytes, waybill := [] } s).2

def execMgmtFrameReceived (lane : Nat) (bytes : List Byte) (s : State) : Host.Outcome State Fault Refusal :=
  onUnit (decide (lane < 4)) s fun s => mgmtReceive lane bytes s

end Sys2Proof.Machine
end

