-- ==== Sys2Proof/Machine/Ports.lean ====
section
/-!
DEFINITION. The port Orders (R139, R141, R144, R146 to R149, R152).
-/

namespace Sys2Proof.Machine

/-! PORT_SET: checks -/

/-- The modes of a mask all have a width. -/
def maskWidth (mask w : Nat) : Bool :=
  (span 0 32).all (fun m => !bit mask m || (match modeSpec m with | none => false | some x => x.width = w))

/-- Some lane of a new port belongs to a configured port with another number. -/
def lanesTaken (s : Chip) (p w : Nat) : Bool :=
  (span p w).any (fun l => match portOfLane s l with | none => false | some q => decide (q ≠ p))

/-- The checks of PORT_SET for a switch port, in the card's order. They hold for MODE 0x00 too, which has no width: with AN its ADV_MASK can
include no such mode (log 23). -/
def portSetCheck (o : PortSetOps) (s : Chip) : Option Status :=
  let w := modeWidth o.mode
  let adv := o.advMask.toNat
  if 511 < o.port then some .range
  else if o.maxFrame < 1518 || 10244 < o.maxFrame then some .range
  else if o.mgRxq ≠ 0 || o.mgTxq ≠ 0 then some .badOperand
  else if o.mode ≠ 0 && ((modeSpec o.mode).isNone || o.port % w ≠ 0) then some .badOperand
  else if o.rsFec && o.mode ≠ 0x02 then some .badOperand
  else if (if o.an then !(bit adv o.mode && maskWidth adv w) else adv ≠ 0) then some .badOperand
  else if o.mode ≠ 0 && lanesTaken s o.port w then some .existsAlready
  else if o.mode = 0 && inSomeGroup s o.port then some .busy
  else if o.mode = 0 && (portOf s o.port).isNone then some .notFound
  else if isFenced s (.platform (platformOf o.port)) then some .fenced
  else none

/-! Recovered clocks (R146 to R148) -/

/-- What a PORT_SET makes of TT_RECCLK_CTRL of output `k`, with the port's lanes running at the rate of `mode` (R146). -/
def recclkNext (w : Word) (o : PortSetOps) (mode k : Nat) : Word :=
  if o.recclk.toNat.testBit k then packW [(31, 1, 1), (20, 11, recclkDiv mode), (0, 9, o.port)]
  else if bit w.toNat 31 && w.toNat % 512 = o.port then w &&& 0x7FFFFFFF#32
  else w

/-- Sets the recovered-clock words; if one changes, the Timetable's staged words go live with it (R139, R116). -/
def setRecclk (f : Nat → Word → Word) (s : Chip) : Chip :=
  let w (k : Nat) : Word := liveW s (recclkWord k)
  if f 0 (w 0) = w 0 && f 1 (w 1) = w 1 then s
  else
    let t := deriveWord .tt 0x0804 (f 1 (w 1)) (deriveWord .tt 0x0800 (f 0 (w 0)) s)
    (commitIsl .tt t).2

/-! PORT_SET: effect -/

/-- The queues of a port return to their reset values (R139, R320): scheduling words, limits, spill words, scheduler state. -/
def resetPortQueues (p : Nat) (s : Chip) : Chip :=
  let qs := (span 0 20).map (queueId p)
  let s := match servingLine s (platformOf p) with
    | none => s
    | some n =>
      let lo := caddr (.eline n) (0x2000 + 0x200 * laneIndex p)
      { s with live := s.live.filter (fun x => x.1 < lo || lo + 0x140 ≤ x.1),
               shadow := s.shadow.filter (fun x => x.1 < lo || lo + 0x140 ≤ x.1) }
  let y := homeYard (platformOf p)
  let mine (ca : Nat) : Bool := ca / 2 ^ 32 = (Isl.quarry y).code && 0x40000 ≤ ca % 2 ^ 32 && qs.contains ((ca % 2 ^ 32 - 0x40000) / 16)
  let s := { s with live := s.live.filter (fun x => !mine x.1), staged := s.staged.filter (fun x => !mine x.1),
                    shadow := s.shadow.filter (fun x => !mine x.1) }
  modPkt (fun k => { k with qs := k.qs.filter (fun x => !qs.contains x.1),
                            pointers := k.pointers.filter (fun x => ¬ x.1 / 8 = p) }) s

/-- The Platform words of a newly configured port (R320). -/
def resetPortWords (p : Nat) (s : Chip) : Chip :=
  let i := Isl.platform (platformOf p)
  let b := 0x1000 + 0x40 * laneIndex p
  let s := deriveWord i (b + 4) 0x04FAC688#32 s
  (span 0 7).foldl (fun s w => deriveWord i (b + 0x10 + 4 * w) 0 s) s

/-- Every SA of a port's SecY is retired and the SecY disabled (R367). -/
def disableSecy (p : Nat) (s : Chip) : Chip :=
  { s with cipher := { s.cipher with secy := smod {} s.cipher.secy p (fun y =>
      { y with enable := false, tx := [], rx := [], encoding := none }) } }

/-- Lane presets of a port, with every hold and freeze released (R133, R139). `drop`: the link starts again. -/
def presetLanes (p : Nat) (mode : Nat) (drop : Bool) (s : Chip) : Chip :=
  (span p (modeWidth mode)).foldl (fun s l =>
    setFreeze l false (modLane l (fun v =>
      { v with txHeld := false, tx := txPreset mode, lock := v.lock && !drop, retrain := v.retrain && !drop }) s)) s

/-- Lanes that a port gives up lose their hold, freeze and taps with their lock (R133). -/
def giveUpLanes (ls : List Nat) (s : Chip) : Chip :=
  ls.foldl (fun s l => setFreeze l false (modLane l (fun v =>
    { v with lock := false, txHeld := false, retrain := false, tx := ({} : LaneSt).tx }) s)) s

/-- Where the scheduler of a port drops (R138): the egress Line that serves it. -/
def schedIsl (s : Chip) (p : Nat) : Isl := .eline ((servingLine s (platformOf p)).getD (platformOf p))

/-- MODE 0x00: removes a port. -/
def portRemove (p : Nat) (s : Chip) : Chip :=
  let i := schedIsl s p
  let s := portTo p .adminDown s
  let s := match portOf s p with
    | none => s
    | some v => giveUpLanes (portLanes p v)
        (setRecclk (fun _ w => if bit w.toNat 31 && inPort s p (w.toNat % 512) then w &&& 0x7FFFFFFF#32 else w) s)
  let s := dropQueued (fun _ => i) dropPortDown (fun c => c.port = p && c.kind ≠ 2) s
  let s := resetPortQueues p s
  let s := { s with cipher := { s.cipher with secy := sdel s.cipher.secy p } }
  let s := modPkt (fun k => { k with inSrc := sdel k.inSrc p, egSrc := sdel k.egSrc p }) s
  let s := setPort p none s
  let s := (commitIsl (.platform (platformOf p)) s).2
  settle (derivePlan s)

/-- The record of a port as PORT_SET configures it, its link starting from `st`. -/
def newPort (o : PortSetOps) (st : PortState) (old : Option Port) : Port :=
  let base : Port :=
    { mode := o.mode, an := o.an, train := o.train, rsFec := o.rsFec, quietOk := o.quietOk, advMask := o.advMask,
      maxFrame := o.maxFrame, pfcEn := o.pfcEn.toNat, st := st, inForce := o.mode, fecInForce := o.rsFec }
  match old with
  | none => base
  | some v => { base with downCount := v.downCount, policy := v.policy, upSince := v.upSince }

/-- Configures or changes a port. -/
def portConfigure (o : PortSetOps) (s : Chip) : Chip :=
  let p := o.port
  let old := portOf s p
  let restart := match old with
    | none => true
    | some v => v.mode ≠ o.mode || v.an ≠ o.an || v.train ≠ o.train || v.rsFec ≠ o.rsFec ||
        decide ((v.st = .adminDown) ≠ (o.adminDown = true))
  let plan := match old with
    | none => true
    | some v => v.mode ≠ o.mode || v.maxFrame ≠ o.maxFrame || v.pfcEn ≠ o.pfcEn.toNat
  let s1 := if old.isNone then resetPortWords p (resetPortQueues p s) else s
  let s1 := match old with | some v => if v.mode ≠ o.mode then disableSecy p s1 else s1 | none => s1
  let s1 := match old with
    | none => s1
    | some v => giveUpLanes ((portLanes p v).filter (fun l => p + modeWidth o.mode ≤ l)) s1
  let s1 := presetLanes p o.mode restart s1
  let s1 :=
    if restart then
      let v := newPort o .adminDown old
      let s1 := if old.isSome then portTo p .adminDown s1 else s1
      let v := { v with downCount := match portOf s1 p with | none => 0 | some x => x.downCount }
      let s1 := setPort p (some v) s1
      portTo p (startOrHeld s1 p v o.adminDown) s1
    else
      let s2 := modPort p (fun v =>
        { v with
          quietOk := o.quietOk, advMask := o.advMask, maxFrame := o.maxFrame,
          pfcEn := o.pfcEn.toNat, quietAgreed := v.quietAgreed && o.quietOk,
          paused := v.paused.filter (fun (x : Nat × Nat) => bit o.pfcEn.toNat x.1) }) s1
      if portOf s2 p ≠ portOf s1 p then wakePort p s2 else s2
  let mode := match portOf s1 p with | none => o.mode | some v => v.inForce
  let s1 := setRecclk (fun k w => recclkNext w o mode k) s1
  let s1 := (commitIsl (.platform (platformOf p)) s1).2
  settle (recclkUpdate (if plan then derivePlan s1 else s1))

/-! Management lanes (R144, R145) -/

/-- The checks of PORT_SET with MGMT. -/
def mgmtSetCheck (o : PortSetOps) (s : Chip) : Option Status :=
  let bound := o.mgTxq ≠ 0xFF && (span 0 4).any (fun n => decide (n ≠ o.port) &&
    (match mgmtOf s n with | none => false | some g => g.txq = o.mgTxq))
  if 3 < o.port then some .range
  else if o.maxFrame < 1518 || 10244 < o.maxFrame then some .range
  else if !(o.mode = 0 || o.mode = 0x30 || o.mode = 0x31) || (o.an && o.mode ≠ 0x30) || o.train || o.rsFec || o.quietOk || o.advMask ≠ 0 ||
      o.pfcEn ≠ 0 || o.recclk ≠ 0 || 15 < o.mgRxq || !((16 ≤ o.mgTxq && o.mgTxq ≤ 31) || o.mgTxq = 0xFF) then some .badOperand
  else if o.mode ≠ 0 && bound then some .existsAlready
  else if o.mode = 0 && (mgmtOf s o.port).isNone then some .notFound
  else if isFenced s .mg then some .fenced
  else none

/-- Replaces a management lane. -/
def setMgmt (n : Nat) (g : Option Mgmt) (s : Chip) : Chip :=
  { s with ports := { s.ports with mgmt := sput none s.ports.mgmt n g } }

/-- PORT_SET with MGMT: a lane that is not ADMIN_DOWN is UP, since the spec gives its link no states (log 24). A lane in UP whose MODE, AN or
ADMIN_DOWN changes goes down once (R139, R141). -/
def mgmtConfigure (o : PortSetOps) (s : Chip) : Chip :=
  if o.mode = 0 then setMgmt o.port none s
  else
    let downs := match mgmtOf s o.port with
      | none => 0
      | some g => satAdd 0xFFFF g.downCount (b2n (g.st = .up && (g.mode ≠ o.mode || g.an ≠ o.an || o.adminDown)))
    setMgmt o.port (some { mode := o.mode, an := o.an, adminDown := o.adminDown, maxFrame := o.maxFrame, rxq := o.mgRxq,
                           txq := o.mgTxq, st := if o.adminDown then .adminDown else .up, los := o.adminDown, lock := !o.adminDown,
                           downCount := downs }) s

/-- PORT_SET (R139). -/
def portSet (o : PortSetOps) (s : Chip) : Status × DWord × Chip :=
  match if o.mgmt then mgmtSetCheck o s else portSetCheck o s with
  | some .fenced => (.fenced, 0, countFencedReq (if o.mgmt then .mg else .platform (platformOf o.port)) s)
  | some e => (e, 0, s)
  | none => (.ok, 0, if o.mgmt then mgmtConfigure o s else if o.mode = 0 then portRemove o.port s else portConfigure o s)

/-- The domains PORT_SET needs: the Platform's, then that of the Line pair that serves it (R50). -/
def portNeeds (o : PortSetOps) (s : Chip) : List Nat :=
  if o.mgmt || 511 < o.port then []
  else offDomains s (.platform (platformOf o.port) ::
    (match servingLine s (platformOf o.port) with | none => [] | some n => [.iline n]))

def execPortSet (ring : Nat) (ops : PortSetOps) (s : State) : Host.Outcome State Fault Refusal :=
  onUnit (decide (ring < 64)) s fun s => endOrder ring (.portSet ring ops) (portNeeds ops) (portSet ops) s

/-! PORT_STATE (R141) -/

/-- The result for a switch port. -/
def portResult (s : Chip) (p : Nat) (v : Port) : DWord :=
  let ls := portLanes p v
  let mask (f : Nat → Bool) : Nat := maskOf ((ls.filter f).map (· - p))
  packD [(56, 8, v.st.code), (48, 8, v.inForce), (46, 1, b2n (v.st = .backoff && v.afterFail)), (45, 1, b2n (inSomeGroup s p)),
    (44, 1, b2n (ls.any (laneFrozen s))), (43, 1, b2n (ls.any (fun l => (laneOf s l).txHeld))), (42, 1, b2n v.quietAgreed),
    (41, 1, b2n (v.st = .remote)), (40, 1, b2n (v.st = .fault)), (24, 8, mask (fun l => (laneOf s l).los)),
    (16, 8, mask (fun l => (laneOf s l).lock)), (0, 16, v.downCount)]

/-- The result for a management lane: it has no Quiet, no tuning and no group, and its lane is bit 0. -/
def mgmtResult (g : Mgmt) : DWord :=
  packD [(56, 8, g.st.code), (48, 8, g.mode), (40, 1, b2n (g.st = .fault)), (24, 1, b2n g.los), (16, 1, b2n g.lock), (0, 16, g.downCount)]

/-- PORT_STATE. -/
def portStateOrder (o : PortStateOps) (s : Chip) : Status × DWord × Chip :=
  if o.mgmt then
    if 3 < o.port then (.range, 0, s)
    else match mgmtOf s o.port with
      | none => (.notFound, 0, s)
      | some g => unlessFenced .mg s (fun s => (.ok, mgmtResult g, s))
  else if 511 < o.port then (.range, 0, s)
  else match portOf s o.port with
    | none => (.notFound, 0, s)
    | some v => unlessFenced (.platform (platformOf o.port)) s (fun s => (.ok, portResult s o.port v, s))

def execPortState (ring : Nat) (ops : PortStateOps) (s : State) : Host.Outcome State Fault Refusal :=
  onUnit (decide (ring < 64)) s fun s => endOrder ring (.portState ring ops)
    (fun s => if ops.mgmt || 511 < ops.port then [] else offDomains s [.platform (platformOf ops.port)]) (portStateOrder ops) s

/-! FAILOVER_SET (R149, R152) -/

/-- Member entries in use. -/
def memberEntries (s : Chip) : Nat :=
  (s.ports.groups.map (fun x => match x.2 with | none => 0 | some g => g.members.length)).sum

/-- The checks of FAILOVER_SET in the card's order. -/
def failoverCheck (o : FailoverSetOps) (s : Chip) : Option Status :=
  let most := if o.payload.isSome then 64 else 8
  let count := if o.kind = 0 then o.count = 0 else 1 ≤ o.count && o.count ≤ (if o.kind = 1 then 8 else 64)
  let held := match groupOf s o.group with | none => 0 | some g => g.members.length
  if 1023 < o.group then some .range
  else if 2 < o.kind || !count || most < o.count then some .badOperand
  else if (match o.payload with | none => false | some len => o.count = 0 || len ≠ 2 * o.count) then some .badOperand
  else if o.quietStandby && o.kind ≠ 1 then some .badOperand
  else if o.members.eraseDups.length ≠ o.members.length then some .badOperand
  else if o.members.any (fun p => (portOf s p).isNone) then some .notFound
  else if 16384 < memberEntries s - held + o.members.length then some .noRoom
  else if o.kind = 0 && (groupOf s o.group).isNone then some .notFound
  else none

/-- The group as FAILOVER_SET makes it, resolved against the present state of its members. -/
def newGroup (o : FailoverSetOps) (s : Chip) : Option Group :=
  if o.kind = 0 then none
  else
    let spread := o.kind = 2
    some { spread := spread, revert := o.revert, quietStandby := o.quietStandby, wtr := o.wtr, members := o.members,
           current := if spread then none else firstUp s o.members,
           slots := if spread then passSlots s o.members (fillSlots o.members) else [] }

/-- FAILOVER_SET: a member that leaves the group while in Quiet is woken. -/
def failoverSet (o : FailoverSetOps) (s : Chip) : Status × DWord × Chip :=
  match failoverCheck o s with
  | some e => (e, 0, s)
  | none =>
    let old := match groupOf s o.group with | none => [] | some g => g.members
    let gone := old.filter (fun p => !o.members.contains p)
    let s := setGroup o.group (newGroup o s) s
    let s := gone.foldl (fun s p => wakePort p s) s
    (.ok, BitVec.ofNat 64 (16384 - memberEntries s), s)

def execFailoverSet (ring : Nat) (ops : FailoverSetOps) (s : State) : Host.Outcome State Fault Refusal :=
  onUnit (decide (ring < 64)) s fun s => endOrder ring (.failoverSet ring ops) noNeeds (failoverSet ops) s

end Sys2Proof.Machine
end

