-- ==== Sys2Proof/Machine/Aes.lean ====
section
/-!
DEFINITION. AES and the modes of file 13: CBC, CFB-128, CTR, GCM and XTS. The spec names the published standards and
does not restate them; the functions follow those standards (PRESUMED, log entry 13).
-/

namespace Sys2Proof.Machine

/-- The AES S-box, byte i at bits [8i + 7:8i]. -/
def sboxNum : Nat := 0x16bb54b00f2d99416842e6bf0d89a18cdf2855cee9871e9b948ed9691198f8e19e1dc186b95735610ef6034866b53e708a8bbd4b1f74dde8c6b4a61c2e2578ba08ae7a65eaf4566ca94ed58d6d37c8e779e4959162acd3c25c2406490a3a32e0db0b5ede14b8ee4688902a22dc4f816073195d643d7ea7c41744975fec130ccdd2f3ff1021dab6bcf5389d928f40a351a89f3c507f02f94585334d43fbaaefd0cf584c4a39becb6a5bb1fc20ed00d153842fe329b3d63b52a05a6e1b1a2c830975b227ebe28012079a059618c323c7041531d871f1e5a534ccf73f362693fdb7c072a49cafa2d4adf04759fa7dc982ca76abd7fe2b670130c56f6bf27b777c63
/-- The inverse S-box, laid out alike. -/
def invSboxNum : Nat := 0x7d0c2155631469e126d677ba7e042b17619953833cbbebc8b0f52aae4d3be0a0ef9cc9939f7ae52d0d4ab519a97f51605fec8027591012b131c7078833a8dd1ff45acd78fec0db9a2079d2c64b3e56fc1bbe18aa0e62b76f89c5291d711af1476edf751ce837f9e28535ade72274ac9673e6b4f0cecff297eadc674f4111913a6b8a130103bdafc1020f3fca8f1e2cd00645b3b80558e4f70ad3bc8c00abd890849d8da75746155edab9edfd5048706c92b6655dcc5ca4d41698688664f6f87225d18b6d49a25b76b224d92866a12e084ec3fa420b954cee3d23c2a632947b54cbe9dec444438e3487ff2f9b8239e37cfbd7f3819ea340bf38a53630d56a0952

/-- Byte `i` of a packed table of bytes. -/
def tableByte (t i : Nat) : Nat := t / 2 ^ (8 * i) % 256

/-- Multiplication by x in the AES field. -/
def xtime (a : Nat) : Nat := if a ≥ 128 then Nat.xor (a * 2 - 256) 0x1B else a * 2

/-- Multiplication by a small constant in the AES field. -/
def gfMul (c a : Nat) : Nat :=
  let x1 := xtime a
  let x2 := xtime x1
  let x3 := xtime x2
  Nat.xor (Nat.xor (if bit c 0 then a else 0) (if bit c 1 then x1 else 0))
    (Nat.xor (if bit c 2 then x2 else 0) (if bit c 3 then x3 else 0))

/-- XOR of two byte strings, as long as the shorter. -/
def xorBytes (a b : List Nat) : List Nat := List.zipWith Nat.xor a b

/-- One column of MixColumns with the given row of coefficients. -/
def mixCol (k0 k1 k2 k3 : Nat) : List Nat → List Nat
  | [a, b, c, d] =>
    let f := fun (w x y z : Nat) => Nat.xor (Nat.xor (gfMul w a) (gfMul x b)) (Nat.xor (gfMul y c) (gfMul z d))
    [f k0 k1 k2 k3, f k3 k0 k1 k2, f k2 k3 k0 k1, f k1 k2 k3 k0]
  | l => l

/-- The four columns of a state of 16 bytes. -/
def mixState (k0 k1 k2 k3 : Nat) (s : List Nat) : List Nat :=
  mixCol k0 k1 k2 k3 (s.take 4) ++ mixCol k0 k1 k2 k3 (slice s 4 4) ++ mixCol k0 k1 k2 k3 (slice s 8 4)
    ++ mixCol k0 k1 k2 k3 (s.drop 12)

/-- The state bytes taken in a given order. -/
def permute (order : List Nat) (s : List Nat) : List Nat := order.map (nth 0 s)

/-- ShiftRows. -/
def shiftRows : List Nat → List Nat := permute [0, 5, 10, 15, 4, 9, 14, 3, 8, 13, 2, 7, 12, 1, 6, 11]
/-- Its inverse. -/
def invShiftRows : List Nat → List Nat := permute [0, 13, 10, 7, 4, 1, 14, 11, 8, 5, 2, 15, 12, 9, 6, 3]

/-- Key expansion: `n` more words of 4 bytes after those in `ws` (latest first), `i` the next word's index. -/
def expandKey (nk : Nat) : Nat → Nat → Nat → List (List Nat) → List (List Nat)
  | 0, _, _, ws => ws
  | n + 1, i, rcon, ws =>
    let t := nth [] ws 0
    let t1 := if i % nk = 0 then
        xorBytes ((permute [1, 2, 3, 0] t).map (tableByte sboxNum)) [rcon, 0, 0, 0]
      else if nk > 6 ∧ i % nk = 4 then t.map (tableByte sboxNum) else t
    expandKey nk n (i + 1) (if i % nk = 0 then xtime rcon else rcon) (xorBytes (nth [] ws (nk - 1)) t1 :: ws)

/-- The words of a key. -/
def keyWords : Nat → List Nat → List (List Nat)
  | 0, _ => []
  | n + 1, k => k.take 4 :: keyWords n (k.drop 4)

/-- Round keys of 16 bytes, in order, for a key of 16 or 32 bytes. -/
def roundKeys (key : List Nat) : List (List Nat) :=
  let nk := key.length / 4
  let ws := (expandKey nk (4 * (nk + 7) - nk) nk 1 (keyWords nk key).reverse).reverse
  (span 0 (nk + 7)).map (fun r => (slice ws (4 * r) 4).flatten)

/-- The middle rounds of encryption, and the last one. -/
def encRounds : List (List Nat) → List Nat → List Nat
  | [], s => s
  | [k], s => xorBytes (shiftRows (s.map (tableByte sboxNum))) k
  | k :: ks, s => encRounds ks (xorBytes (mixState 2 3 1 1 (shiftRows (s.map (tableByte sboxNum)))) k)

/-- AES encryption of a block of 16 bytes under round keys. -/
def aesEnc (rk : List (List Nat)) (b : List Nat) : List Nat :=
  match rk with
  | [] => b
  | k :: ks => encRounds ks (xorBytes b k)

/-- The rounds of decryption over the round keys in reverse order. -/
def decRounds : List (List Nat) → List Nat → List Nat
  | [], s => s
  | [k], s => xorBytes ((invShiftRows s).map (tableByte invSboxNum)) k
  | k :: ks, s => decRounds ks (mixState 14 11 13 9 (xorBytes ((invShiftRows s).map (tableByte invSboxNum)) k))

/-- AES decryption of a block of 16 bytes. -/
def aesDec (rk : List (List Nat)) (b : List Nat) : List Nat :=
  match rk.reverse with
  | [] => b
  | k :: ks => decRounds ks (xorBytes b k)

/-- Blocks of 16 bytes, the last one as long as what is left. -/
def blocks16 : Nat → List Nat → List (List Nat)
  | 0, _ => []
  | n + 1, bs => bs.take 16 :: blocks16 n (bs.drop 16)

/-- The blocks of a byte string. -/
def blocksOf (bs : List Nat) : List (List Nat) := blocks16 ((bs.length + 15) / 16) bs

/-- CBC encryption. -/
def cbcEnc (rk : List (List Nat)) (iv : List Nat) : List (List Nat) → List (List Nat)
  | [] => []
  | b :: bs => let c := aesEnc rk (xorBytes b iv); c :: cbcEnc rk c bs

/-- CBC decryption. -/
def cbcDec (rk : List (List Nat)) (iv : List Nat) : List (List Nat) → List (List Nat)
  | [] => []
  | c :: cs => xorBytes (aesDec rk c) iv :: cbcDec rk c cs

/-- CFB-128 encryption. -/
def cfbEnc (rk : List (List Nat)) (iv : List Nat) : List (List Nat) → List (List Nat)
  | [] => []
  | b :: bs => let c := xorBytes b (aesEnc rk iv); c :: cfbEnc rk c bs

/-- CFB-128 decryption. -/
def cfbDec (rk : List (List Nat)) (iv : List Nat) : List (List Nat) → List (List Nat)
  | [] => []
  | c :: cs => xorBytes c (aesEnc rk iv) :: cfbDec rk c cs

/-- Big-endian number of bytes. -/
def bnat (bs : List Nat) : Nat := bs.foldl (fun a b => a * 256 + b) 0

/-- `n` big-endian bytes of a number. -/
def bytesBE : Nat → Nat → List Nat
  | 0, _ => []
  | n + 1, v => bytesBE n (v / 256) ++ [v % 256]

/-- `n` little-endian bytes of a number. -/
def bytesLE : Nat → Nat → List Nat
  | 0, _ => []
  | n + 1, v => v % 256 :: bytesLE n (v / 256)

/-- CTR mode over blocks, from counter block number `ctr`; `w` is the width in bits of the part that counts. -/
def ctrBlocks (rk : List (List Nat)) (w : Nat) (ctr : Nat) : List (List Nat) → List (List Nat)
  | [] => []
  | b :: bs =>
    xorBytes b (aesEnc rk (bytesBE 16 ctr)) ::
      ctrBlocks rk w (ctr / 2 ^ w * 2 ^ w + (ctr + 1) % 2 ^ w) bs

/-- One step of the GHASH multiplication. -/
def ghashMul : Nat → Nat → Nat → Nat → Nat
  | 0, _, _, z => z
  | n + 1, x, v, z =>
    let z1 := if bit x n then Nat.xor z v else z
    let v1 := if v % 2 = 1 then Nat.xor (v / 2) (0xE1 * 2 ^ 120) else v / 2
    ghashMul n x v1 z1

/-- GHASH of blocks under the hash subkey, on top of `y`. -/
def ghash (h : Nat) : Nat → List (List Nat) → Nat
  | y, [] => y
  | y, b :: bs => ghash h (ghashMul 128 (Nat.xor y (bnat (padTo 16 0 b))) h 0) bs

/-- The GCM tag of additional data and ciphertext. -/
def gcmTag (rk : List (List Nat)) (j0 : Nat) (aad c : List Nat) : List Nat :=
  let h := bnat (aesEnc rk (repl 16 0))
  let y := ghash h (ghash h 0 (blocksOf aad)) (blocksOf c)
  let s := ghash h y [bytesBE 8 (8 * aad.length) ++ bytesBE 8 (8 * c.length)]
  xorBytes (bytesBE 16 s) (aesEnc rk (bytesBE 16 j0))

/-- The first counter block of a 96-bit IV. -/
def gcmJ0 (iv : List Nat) : Nat := bnat iv * 2 ^ 32 + 1

/-- GCM encryption or decryption of data under a 12-byte IV: the data XORed with keystream. -/
def gcmCrypt (rk : List (List Nat)) (iv data : List Nat) : List Nat :=
  (ctrBlocks rk 32 (gcmJ0 iv + 1) (blocksOf data)).flatten

/-- Multiplication of an XTS tweak by x (IEEE 1619), tweak as a little-endian number. -/
def xtsNext (t : Nat) : Nat := if t ≥ 2 ^ 127 then Nat.xor (t * 2 - 2 ^ 128) 0x87 else t * 2

/-- A little-endian number of bytes. -/
def lnat : List Nat → Nat
  | [] => 0
  | b :: bs => b + 256 * lnat bs

/-- XTS over whole blocks from an encrypted tweak. -/
def xtsBlocks (f : List Nat → List Nat) (t : Nat) : List (List Nat) → List (List Nat)
  | [] => []
  | b :: bs => let tb := bytesLE 16 t; xorBytes (f (xorBytes b tb)) tb :: xtsBlocks f (xtsNext t) bs

/-- XTS of one data unit under a key pair (first half data, second half tweak) and a 16-byte tweak value. -/
def xts (enc : Bool) (key tweak data : List Nat) : List Nat :=
  let half := key.length / 2
  let rk := roundKeys (key.take half)
  let t := lnat (aesEnc (roundKeys (key.drop half)) tweak)
  (xtsBlocks (if enc then aesEnc rk else aesDec rk) t (blocksOf data)).flatten

/-- Bytes as numbers, and back. -/
def toNats (bs : List Byte) : List Nat := bs.map (·.toNat)
/-- Numbers as bytes. -/
def ofNats (bs : List Nat) : List Byte := bs.map (BitVec.ofNat 8)

end Sys2Proof.Machine
end

