-- ==== Sys2Proof/Machine/LinePass.lean ====
section
/-!
DEFINITION. One frame in an ingress or egress Line (R155 to R187, R191 to R203): the view it runs under, the parity it meets, the run of
parser, Courses and deparser, and what the run leaves in the Line.
-/

namespace Sys2Proof.Machine

/-- What a frame meets at a Line as to its epoch (R218, R220). -/
inductive View where
  | cur | drn | stale
deriving DecidableEq, Repr

/-- The view of a frame that carries epoch `e`. -/
def viewOf (s : Chip) (l : LineSt) (e : Nat) : View :=
  if isStale s e then .stale
  else if isDraining s e then (if l.drnStale then .stale else .drn)
  else .cur

/-- LN_STALE_POLICY is DROP (R221). -/
def staleDrops (s : Chip) (egress : Bool) (n : Nat) : Bool := fieldOf s (lineIsl egress n) 0x0700 0 1 = 1

/-- The fields that travel with a frame between Lines (R164): containers `m32.88` to `m32.95` are the bridge. -/
def carry (m : Manifest) : Manifest :=
  { epoch := m.epoch, pass := m.pass, inPort := m.inPort, origin := m.origin, inTs := m.inTs, waybill := m.waybill, cons := m.cons,
    c32 := m.c32.filter (fun x => 88 ≤ x.1 && x.1 < 96) }

/-- The same into a Siding, without the bridge and with the next pass (R164, R227). -/
def carrySiding (m : Manifest) : Manifest := { carry m with c32 := [], pass := (m.pass + 1) % 4 }

/-- How a frame leaves a Line's Courses. -/
structure Passed where
  m : Manifest
  out : List Byte
  ask : LineAsk
  /-- Dropped for action memory that stayed bad on repeat: the caller drops the frame and then raises the fault (R187). -/
  broken : Bool

/-- Parse and Courses of one frame as a pure function of the Line: the parse, the run, and whether the bad action memory was met. -/
def lineRun (env : LineEnv) (egress : Bool) (l : LineSt) (drn : Bool) (graph : List (Nat × Bool × Repeat)) (stopAt : Option Nat)
    (free : Nat) (bytes : List Byte) (m : Manifest) : ParseRun × LineRun :=
  let prog := (progBank l drn).map (fun b => b.prog)
  let p := parseFrame egress (graphBank l drn) prog bytes graph m
  let courses := match prog with | none => [] | some g => g.courses
  let courses := match stopAt with | none => courses | some c => courses.take c
  let tables := match prog with | none => [] | some g => g.tables
  (p, runCourses env tables 0 courses { m := p.m, ledgers := l.ledgers, rnd := l.rnd, free := free })

/-- The defects of SRAM tables by instance, under the bindings of a bank. -/
def boundDefects (binds : Sparse Nat) (ds : List (Nat × WordDefect)) : List (Nat × WordDefect) :=
  ds.filterMap (fun d => (sfind binds d.1).map (fun iid => (iid, d.2)))

/-- The entries that a bad word makes a lookup go without (R260). -/
def badEntries (ds : List (Nat × WordDefect)) : List (Nat × Nat) :=
  (ds.filter (fun d => d.2.rep = .bad)).map (fun d => (d.1, d.2.loc))

/-- A bad word of an entry that some lookup has read (R260). -/
def meetSram (egress : Bool) (n : Nat) (reads : List (Nat × Nat)) (d : Nat × WordDefect) (s : Chip) : Chip :=
  if reads.contains (d.1, d.2.loc) then sramBad egress n d.1 d.2 s else s

/-- The environment a bank gives a run, with the defects it meets. -/
def lineEnv (s : Chip) (l : LineSt) (drn : Bool) (d : PassDefects) : LineEnv :=
  let b := progBank l drn
  let binds := match b with | none => [] | some b => b.binds
  { insts := withoutAt l.insts (badEntries (boundDefects binds d.sram)), binds := binds, lbinds := (match b with | none => [] | some b => b.lbinds),
    cur := !drn, hashKeys := (span 0 4).map (fun k => sget none s.cipher.hash k),
    time := [s.time.ns, s.time.sec % 2 ^ 32, s.time.sec / 2 ^ 32, s.time.frac]
    badLedgers := (d.ledger.filter (fun x => x.2.2 = .bad)).map (fun x => (x.1, x.2.1)), odd := d.tcam }

/-- The parse ended with REASON PARITY (R200). -/
def parityEnd (p : ParseRun) : Bool := bits p.m.parse 8 4 = 5

/-- Counts the outcome of a parse (R203). -/
def countParse (egress : Bool) (n parse : Nat) (s : Chip) : Chip :=
  let frag := bits parse 13 2
  let reason := bits parse 8 4
  if frag = 2 then lineCount egress n 0x0600 1 s
  else if frag = 1 then lineCount egress n 0x0604 1 s
  else if 1 ≤ reason && reason ≤ 5 then lineCount egress n (0x0608 + 4 * (reason - 1)) 1 s
  else s

/-- Takes the learns a run asked for into the learn queue (R252, R253). -/
def queueLearns (n : Nat) (binds : Sparse Nat) (ls : List LearnReq) (s : Chip) : Chip :=
  ls.foldl (fun s r =>
    match sfind binds r.table with
    | none => s
    | some iid =>
      let s := pmcCount (.iline n) 0x13 0 s
      if 4096 ≤ (lineOf s false n).learnQ.length then lineCount false n 0x080C 1 s
      else modLine false n (fun l => { l with learnQ := l.learnQ ++ [{ iid := iid, key := r.key, value := r.value }] }) s) s

/-- Raises a pipeline fault of a Line (R187, R202, R436). -/
def pipeFault (egress : Bool) (n loc : Nat) (rep : Repeat) (s : Chip) : Chip :=
  match rep with
  | .clean => raise (lineIsl egress n) loc clsPipeline 1 s
  | .bad => raise (lineIsl egress n) (loc + 1) clsPipeline 2 s

/-- The first Course whose action memory stays bad on repeat, of the `courses` of the program (R187). -/
def brokenAt (courses : Nat) (ds : List (Nat × Repeat)) : Option Nat :=
  (span 0 courses).find? (fun c => ds.contains (c, .bad))

/-- The parity errors of Courses below `stop` whose repeat was clean. -/
def cleanBefore (stop : Nat) (ds : List (Nat × Repeat)) : List (Nat × Repeat) := ds.filter (fun d => d.1 < stop && d.2 = .clean)

/-- A bad Ledger word is met where the unit of its Course has carried out an operation (R262). -/
def meetLedger (egress : Bool) (n : Nat) (gs : List LedgerInst) (reads : List (Nat × Nat × Nat × Nat)) (d : Nat × Nat × Repeat) (s : Chip) :
    Chip :=
  match reads.find? (fun x => x.1 = d.1 && x.2.1 = d.2.1) with
  | none => s
  | some (_, _, iid, idx) => match gs.find? (fun g => g.iid = iid) with
    | none => s
    | some g => ledgerBad egress n g idx d.2.2 s

/-- A frame passes a Line under a view: what it leaves with, and the state after it. `drn` is the draining bank. -/
def linePass (egress : Bool) (n half : Nat) (drn : Bool) (bytes : List Byte) (m : Manifest) (d : PassDefects) (s : Chip) : Passed × Chip :=
  let i := lineIsl egress n
  let s := pmcCount i 0x10 half s
  let l := lineOf s egress n
  let courses := match progBank l drn with | none => 0 | some b => b.prog.courses.length
  let stopAt := brokenAt courses d.action
  let env := lineEnv s l drn d
  let run := lineRun env egress l drn d.graph stopAt s.free bytes m
  let r := run.2
  let s := { s with free := r.free }
  let s := countParse egress n run.1.m.parse s
  let s := lineCount egress n 0x0900 r.ask.overflow s
  let s := r.ask.hitCourses.foldl (fun s c => if c < 16 then pmcCount i 0x11 c s else pmcCount i 0x12 (c - 16) s) s
  let s := modLine egress n (fun l => { l with ledgers := r.ledgers, rnd := r.rnd,
                                               insts := r.ask.hits.foldl (fun ts h => markHit ts h.1 h.2) l.insts }) s
  let s := (boundDefects env.binds d.sram).foldl (fun s x => meetSram egress n r.ask.reads x s) s
  let s := if egress then s else queueLearns n env.binds r.ask.learns s
  let s := (span 0 run.1.clean).foldl (fun s _ => pipeFault egress n 0x03 .clean s) s
  let s := if parityEnd run.1 then pipeFault egress n 0x03 .bad s else s
  let s := (cleanBefore (stopAt.getD courses) d.action).foldl (fun s _ => pipeFault egress n 0x01 .clean s) s
  let s := d.ledger.foldl (fun s x => meetLedger egress n l.ledgers r.ask.lreads x s) s
  let prog := (progBank l drn).map (fun b => b.prog)
  ({ m := r.m, out := deparse prog bytes run.1 r.m r.ask, ask := r.ask, broken := stopAt.isSome }, s)

end Sys2Proof.Machine
end

