-- ==== Sys2Proof/Machine/LinkSec.lean ====
section
/-!
DEFINITION. Link security on the wire (R359 to R366, R379): protection on transmission, the checks of reception, cipher events and
parity. The SecTAG, the packet number and GCM are those of IEEE 802.1AE, which the spec names (PRESUMED, log 13).
-/

namespace Sys2Proof.Machine

/-- The EtherType position of a frame, after the source address. -/
def etherType (f : List Byte) : Nat := beNat (padTo 2 0#8 (slice f 12 2))

/-- A suite with extended packet numbers (R358). -/
def suiteXpn (suite : Nat) : Bool := decide (2 ≤ suite)

/-- The largest packet number of a suite (R364). -/
def maxPn (suite : Nat) : Nat := if suiteXpn suite then 2 ^ 64 - 1 else 2 ^ 32 - 1

/-- The SecY of a port. -/
def secyOf (s : Chip) (p : Nat) : SecySt := sget {} s.cipher.secy p

/-- Changes it. -/
def modSecy (p : Nat) (f : SecySt → SecySt) (s : Chip) : Chip :=
  { s with cipher := { s.cipher with secy := smod {} s.cipher.secy p f } }

/-- Counts at a word of the port's block of R368. -/
def msCount (p off : Nat) (s : Chip) : Chip :=
  bump (.platform (platformOf p)) (0x5000 + 0x40 * laneIndex p + off) 1 s

/-- The key a slot of class LINK holds. -/
def linkKey (s : Chip) (slot : Nat) : Option (List Byte) := sget none s.cipher.link slot

/-- The 12 bytes of the GCM IV (R360): SCI and PN, or SSCI and PN under the salt with XPN. -/
def secIv (xpn : Bool) (sci ssci pn salt : Nat) : List Nat :=
  if xpn then bytesBE 12 (Nat.xor (ssci * 2 ^ 64 + pn) salt) else bytesBE 8 sci ++ bytesBE 4 pn

/-- What a SecTAG says: association number, whether it is encrypted, its bytes, and the user data behind it. -/
structure Tagged where
  addrs : List Byte
  tag : List Byte
  user : List Byte

/-- Splits user data into what is authenticated alone and what is also encrypted (R358). -/
def confSplit (enc : Bool) (offset : Nat) (user : List Byte) : List Byte × List Byte :=
  if enc then (user.take offset, user.drop offset) else (user, [])

/-- The ICV over a frame's addresses, SecTAG, authenticated user data and ciphertext. -/
def secIcv (key iv : List Nat) (x : Tagged) (clear cipher : List Byte) : List Byte :=
  ofNats (gcmTag (roundKeys key) (gcmJ0 iv) (toNats (x.addrs ++ x.tag ++ clear)) (toNats cipher))

/-- The SecTAG of a transmitted frame with its EtherType (R358). -/
def secTag (y : SecySt) (an pn userLen : Nat) : List Byte :=
  let tci := pack [(5, 1, b2n y.includeSci), (3, 1, b2n y.conf), (2, 1, b2n y.conf), (0, 2, an)]
  beBytes 2 0x88E5 ++ [BitVec.ofNat 8 tci, BitVec.ofNat 8 (if userLen < 48 then userLen else 0)] ++ beBytes 4 (pn % 2 ^ 32) ++
    (if y.includeSci then beBytes 8 y.txSci else [])

/-- A protected frame (R360). -/
def protect (y : SecySt) (an pn salt : Nat) (key : List Byte) (f : List Byte) : List Byte :=
  let x : Tagged := { addrs := f.take 12, user := f.drop 12, tag := secTag y an pn (f.length - 12) }
  let k := toNats key
  let iv := secIv (suiteXpn y.suite) y.txSci y.txSsci pn salt
  let parts := confSplit y.conf y.confOffset x.user
  let c := ofNats (gcmCrypt (roundKeys k) iv (toNats parts.2))
  x.addrs ++ x.tag ++ parts.1 ++ c ++ secIcv k iv x parts.1 c

/-! Events (R366) -/

/-- A cipher event of a port's SecY. -/
def cipherEvent (p kind an pn : Nat) (s : Chip) : Chip :=
  let y := secyOf s p
  postRecord (.platform (platformOf p)) (0x5000 + 0x40 * laneIndex p + 0x2C) y.evq
    (leBytes 2 kind ++ leBytes 2 p ++ leBytes 1 an ++ repl 3 0#8 ++ leBytes 8 pn ++ leBytes 8 (nowTs s) ++ repl 40 0#8) s

/-! Transmission (R360, R364, R365) -/

/-- The transmit SA of an AN can protect frames. -/
def txUsable (y : SecySt) (an : Nat) : Option SaSt :=
  match sget none y.tx an with
  | none => none
  | some a => if a.keyless || a.exhausted then none else some a

/-- Encoding passes to NEXT_AN when the encoding SA is keyless or EXHAUSTED, or ends (R365). -/
def txSwitch (p : Nat) (s : Chip) : Chip :=
  let y := secyOf s p
  match y.encoding with
  | none => s
  | some an =>
    if (txUsable y an).isSome then s
    else
      let next := match sget none y.tx an with | none => 0xFF | some a => a.nextAn
      match (if next < 4 then txUsable y next else none) with
      | none => modSecy p (fun y => { y with encoding := none }) s
      | some a => cipherEvent p 0x0103 next a.pn (modSecy p (fun y => { y with encoding := some next }) s)

/-- Replaces a transmit SA. -/
def setTxSa (p an : Nat) (a : SaSt) (s : Chip) : Chip := modSecy p (fun y => { y with tx := sput none y.tx an (some a) }) s

/-- A frame at the commit point of a port takes the next PN of the encoding SA: its bytes on the wire, or none if no SA can protect
it (R360). The next PN of an SA that has sent its largest one is not stated: a free value (log 27). -/
def secTransmit (p : Nat) (f : List Byte) (s : Chip) : Option (List Byte) × Chip :=
  let y := secyOf s p
  if !y.enable || etherType f = 0x888E || etherType f = 0x8808 then (some f, s)
  else
    let s := txSwitch p s
    let y := secyOf s p
    match y.encoding with
    | none => (none, msCount p 0x08 s)
    | some an =>
      match txUsable y an with
      | none => (none, msCount p 0x08 s)
      | some a =>
        match linkKey s a.slot with
        | none => (none, msCount p 0x08 s)
        | some key =>
          let due := y.rekeyThresh ≠ 0 && y.rekeyThresh ≤ a.pn && !a.rekeyPosted
          let s := if due then cipherEvent p 0x0101 an a.pn s else s
          let wire := protect y an a.pn a.salt key f
          let s := msCount p (if y.conf then 0x04 else 0x00) s
          if a.pn = maxPn y.suite then
            let after := (freeNext s).toNat
            let s := setTxSa p an { a with exhausted := true, rekeyPosted := a.rekeyPosted || due, pn := after } (freeTake s)
            (some wire, cipherEvent p 0x0102 an after s)
          else (some wire, setTxSa p an { a with pn := a.pn + 1, rekeyPosted := a.rekeyPosted || due } s)

/-! Reception (R362, R363) -/

/-- The whole packet number of a received frame. With XPN its upper 32 bits are those of the next PN expected, or one more where bit 31 of
that is 1 and of the received number 0 (IEEE 802.1AE-2018; log 13). -/
def recoverPn (xpn : Bool) (next low : Nat) : Nat :=
  if !xpn then low
  else (next / 2 ^ 32 + (if bit next 31 && !bit low 31 then 1 else 0)) * 2 ^ 32 + low

/-- The PN of a received frame as its SA gives it; without an SA the bits in the SecTAG. -/
def rxPn (y : SecySt) (f : List Byte) : Nat :=
  let low := beNat (slice f 16 4)
  match sget none y.rx ((nth 0#8 f 14).toNat % 4) with
  | none => low
  | some a => recoverPn (suiteXpn y.suite) a.pn low

/-- The least PN a receive SA accepts (R362). -/
def lowestPn (window next : Nat) : Nat := max 1 (next - window)

/-- Length of the SecTAG of a received frame with its EtherType. -/
def rxTagLen (f : List Byte) : Nat := if bit (nth 0#8 f 14).toNat 5 then 16 else 8

/-- Length of the user data of a protected frame: SL, or what stands between the SecTAG and the ICV. -/
def rxUserLen (f : List Byte) : Nat :=
  let sl := (nth 0#8 f 15).toNat
  if sl = 0 then f.length - (12 + rxTagLen f + 16) else sl

/-- Step 2 of R362. With XPN the PN is the recovered one, where an SA is there to recover it from (log 13). -/
def tagWellFormed (y : SecySt) (f : List Byte) : Bool :=
  let tci := (nth 0#8 f 14).toNat
  let sl := (nth 0#8 f 15).toNat
  let whole := 12 + rxTagLen f + 16
  !bit tci 7 && !bit tci 6 && !bit tci 4 && (!y.conf || bit tci 3 == bit tci 2) &&
    decide (whole ≤ f.length) &&
    (if sl = 0 then decide (48 ≤ f.length - whole)
     else decide (sl < 48) && (f.length = whole + sl || (f.length = 60 && decide (whole + sl ≤ 60)))) &&
    (rxPn y f ≠ 0 || (suiteXpn y.suite && (sget none y.rx (tci % 4)).isNone))

/-- Replaces a receive SA. -/
def setRxSa (p an : Nat) (a : SaSt) (s : Chip) : Chip := modSecy p (fun y => { y with rx := sput none y.rx an (some a) }) s

/-- Steps 3 to 7 of R362 on a well-formed protected frame: its plaintext and BAD code, or none if it is discarded. -/
def secOpen (p : Nat) (f : List Byte) (s : Chip) : Option (List Byte × Nat) × Chip :=
  let y := secyOf s p
  let tci := (nth 0#8 f 14).toNat
  let an := tci % 4
  let tagLen := rxTagLen f
  if tagLen = 16 && beNat (slice f 20 8) ≠ y.rxSci then (none, msCount p 0x24 s)
  else match sget none y.rx an with
    | none => (none, msCount p 0x18 s)
    | some a =>
      match (if a.keyless then none else linkKey s a.slot) with
      | none => (none, msCount p 0x10 s)
      | some key =>
        let xpn := suiteXpn y.suite
        let pn := recoverPn xpn a.pn (beNat (slice f 16 4))
        if pn < lowestPn y.window a.pn then (none, msCount p 0x14 s)
        else
          let x : Tagged := { addrs := f.take 12, tag := slice f 12 tagLen, user := slice f (12 + tagLen) (rxUserLen f) }
          let k := toNats key
          let iv := secIv xpn y.rxSci y.rxSsci pn a.salt
          let parts := confSplit (bit tci 3) y.confOffset x.user
          let plain := x.addrs ++ parts.1 ++ ofNats (gcmCrypt (roundKeys k) iv (toNats parts.2))
          if secIcv k iv x parts.1 parts.2 = slice f (12 + tagLen + rxUserLen f) 16 then
            (some (plain, 0), setRxSa p an { a with pn := max a.pn (pn + 1) } (msCount p 0x0C s))
          else (some (plain, 2), msCount p 0x10 s)

/-- What a port with a SecY makes of a received frame (R359, R362): its plaintext with the BAD code found, or none if it is
discarded. -/
def secReceive (p : Nat) (f : List Byte) (s : Chip) : Option (List Byte × Nat) × Chip :=
  let y := secyOf s p
  if !y.enable || etherType f = 0x8808 then (some (f, 0), s)
  else if etherType f = 0x888E then (some (f, 0), msCount p 0x28 s)
  else if etherType f ≠ 0x88E5 then (none, msCount p 0x1C s)
  else if !tagWellFormed y f then (none, msCount p 0x20 s)
  else secOpen p f s

/-! Parity (R379) -/

/-- The lane of a port in whose link cipher a frame meets parity: a TB5120-P has no link cipher (R2). -/
def parityLane (s : Chip) (p : Nat) (k : Option Nat) : Option Nat :=
  match k, portOf s p with
  | some k, some v => if Config.linkCipher && decide (k < modeWidth v.mode) then some k else none
  | _, _ => none

/-- A parity error in the link cipher of lane `k` of a port, counted from its lowest. The seventeenth within a second raises the S2 fault as well,
and the count of the second starts again (log 28). -/
def linkParity (p k : Nat) (s : Chip) : Chip :=
  let l := p + k
  let i := Isl.platform (platformOf l)
  let s := raise i (0x40 + laneIndex l) clsCipher 1 s
  let times := (sget [] s.cipher.parity l).filter (fun t => decide (elapsed s t < 1000000000)) ++ [runNs s]
  let many := decide (16 < times.length)
  let s := { s with cipher := { s.cipher with parity := sput [] s.cipher.parity l (if many then [] else times) } }
  if many then raise i (0x50 + laneIndex l) clsCipher 2 s else s

end Sys2Proof.Machine
end

