-- ==== Sys2Proof/Machine/Receive.lean ====
section
/-!
DEFINITION. A frame from its port through its ingress Line: reception (R140, R315, R362, R393, R453), the pass of the ingress Line and
the frame's fate (R83, R183, R215, R220, R223).
-/

namespace Sys2Proof.Machine

/-! Reception -/

/-- A frame carries a VLAN tag directly after the source address (R315). -/
def tagged (f : List Byte) : Bool := [0x8100, 0x88A8, 0x9100].contains (etherType f)

/-- DSCP of a frame that is IPv4 or IPv6 after at most one tag (R315). -/
def dscpOf (f : List Byte) : Option Nat :=
  let o := if tagged f then 18 else 14
  let et := beNat (padTo 2 0#8 (slice f (o - 2) 2))
  let b (k : Nat) : Nat := (nth 0#8 f (o + k)).toNat
  if et = 0x0800 then some (b 1 / 4)
  else if et = 0x86DD then some ((b 0 % 16 * 16 + b 1 / 16) / 4)
  else none

/-- The ingress priority of a frame on port `p` (R315). -/
def ingressPrio (s : Chip) (p : Nat) (f : List Byte) : Nat :=
  let w := (liveW s (portWord p 0x1000 0x04)).toNat
  let dflt := bits w 27 3
  match bits w 30 2 with
  | 0 => if tagged f then (nth 0#8 f 14).toNat / 32 else dflt
  | 1 => match dscpOf f with
    | none => dflt
    | some d => bits (liveW s (portWord p 0x1000 (0x10 + 4 * (d / 10)))).toNat (3 * (d % 10)) 3
  | _ => dflt

/-- PF_PG_MAP of a port (R316). -/
def prioGroupOf (s : Chip) (p k : Nat) : Nat := bits (liveW s (portWord p 0x1000 0x04)).toNat (3 * k) 3

/-- A signed word of the timestamp block of a port (R396), in 2^-16 ns. -/
def tsWord (s : Chip) (p off : Nat) : Int := signed 32 (liveW s (portWord p 0x6000 off)).toNat

/-- The run count in 2^-32 ns. -/
def runFine (s : Chip) : Int := (s.time.run * 65536 + s.time.runFrac : Nat)

/-- The clock a signed number of 2^-32 ns from now, in the report format (R391). -/
def reportAt (d : Int) (q : Bool) (s : Chip) : Nat :=
  let t := moveClock d s.time
  report t.sec t.ns t.frac q

/-- What the terms of T_in take from the capture time (R393), in 2^-32 ns: P_fec is 0 in modes without FEC, D_skew for ports of one lane. -/
def rxDelay (s : Chip) (p : Nat) (t : TsTerms) : Int :=
  let fec := match portOf s p with | none => false | some v => hasFec v
  let wide := match portOf s p with | none => false | some v => decide (1 < modeWidth v.inForce)
  ((if fec then t.pFec else 0) + (if wide then t.dSkew else 0) + t.dGear : Nat) + (tsFixed s p false : Int) * 65536 + tsWord s p 0x00 * 65536

/-- The frame enters the ingress Line that serves its Platform. -/
def frameEnter (f : FrameIn) (n : Nat) (v : Port) (bytes : List Byte) (bad : Nat) (s : Chip) : Chip :=
  let p := f.port
  let long := decide (v.maxFrame < bytes.length + 4)
  let s := if long then bump (.platform (platformOf p)) (0x1000 + 0x40 * laneIndex p + 0x34) 1 s else s
  let bytes := if long then bytes.take (v.maxFrame - 4) else bytes
  let bad := if long then 1 else bad
  let d := rxDelay s p f.ts
  let q := s.time.holdover || !(tileCopy s (platformOf p / 4)).locked
  let inTs := reportAt (-d) q s
  let g := prioGroupOf s p (ingressPrio s p bytes)
  let idx := (freeNext s).toNat % 65536
  let x : RxFrame :=
    { fid := s.pkt.nextId, line := n, bytes := bytes, bad := bad, m := { inPort := p, inTs := inTs, waybill := idx }
      wb := { inTs := inTs, inPort := p, pktLen := bytes.length, inSec := (moveClock (-d) s.time).sec, inRun := runFine s - d, head := bytes.take 255 }
      req := 8 * p + g, group := g, cells := portCells v }
  modPkt (fun k => { k with nextId := k.nextId + 1, rx := k.rx ++ [x] }) (freeTake s)

/-- PFC and PAUSE frames are consumed (R153); any other goes through link security to the Line. The link cipher of the lane is there
on a TB5120-S. A frame with a bad FCS keeps BAD 1 whatever link security finds (log 35). -/
def frameTake (f : FrameIn) (n : Nat) (v : Port) (s : Chip) : Chip :=
  let p := f.port
  let op := beNat (slice f.bytes 14 2)
  let s := pmcCount (.platform (platformOf p)) (if f.fcsOk then 0x20 else 0x21) (laneIndex p) s
  if f.fcsOk && etherType f.bytes = 0x8808 && op = 0x0101 then
    let quanta := (span 0 8).map (fun k => beNat (slice f.bytes (18 + 2 * k) 2))
    pfcReceive p (beNat (slice f.bytes 16 2)) quanta v s
  else if f.fcsOk && etherType f.bytes = 0x8808 && op = 0x0001 then
    bump (.platform (platformOf p)) (0x1000 + 0x40 * laneIndex p + 0x0C) 1 s
  else
    let r := secReceive p f.bytes s
    let hit := parityLane s p f.parity
    let s := match hit with | none => r.2 | some k => linkParity p k r.2
    match r.1 with
    | none => s
    | some (bytes, bad) =>
      if isFenced s (.platform (platformOf p)) then s
      else frameEnter f n v bytes (if !f.fcsOk then 1 else if hit.isSome then 2 else bad) s

/-- A frame arrives on a port (R393). -/
def frameReceive (f : FrameIn) (s : Chip) : Chip :=
  let k := platformOf f.port
  let i := Isl.platform k
  if dead s || !isOn s i || isFenced s i || s.power.tileLost.contains (k / 4) then s
  else match portOf s f.port with
    | none => s
    | some v =>
      if chipHold s || platformHeld s k then
        if v.st = .up || (v.st = .fault && allLocked s f.port) then bump i 0x0100 1 s else s
      else if v.st ≠ .up then s
      else match servingLine s k with
        | none => s
        | some n => settle (frameTake f n v s)

def execFrameReceive (f : FrameIn) (s : State) : Host.Outcome State Fault Refusal :=
  onUnit (decide (f.port < 512)) s fun s => frameReceive f s

/-! The ingress Line -/

/-- The fate of a frame at the end of an ingress Line (R183). -/
inductive Fate where
  | drop (reason : Nat)
  | trapped
  | sent (m : Manifest)
deriving DecidableEq, Repr

/-- The Line pair a TO_SIDING target names (R223). -/
def sidingTarget (s : Chip) (inPort b : Nat) : Option Nat :=
  match (if b = 0xFFFF then servingLine s (platformOf inPort) else some b) with
  | none => none
  | some n => if n < 36 && (servedBy s n).isSome then some n else none

/-- Where a failover group sends a frame (R149, R150): `none` while no member is in UP. -/
def groupTarget (s : Chip) (g : Group) (fhash : Nat) : Option Nat :=
  if !g.members.any (portUp s) then none
  else if g.spread then some (nth 0 g.slots (fhash % 256)) else g.current

/-- The mask of a multicast group (R304). -/
def mcMask (s : Chip) (g : Nat) : Nat := sget 0 s.pkt.groups g

/-- R183, with the target resolved: a port for a failover group, a Line pair for a Siding. -/
def fateOf (s : Chip) (m : Manifest) (ask : LineAsk) : Fate :=
  let t := m.dispTarget
  match m.dispKind with
  | 5 => .drop m.dropReason
  | 6 =>
    if m.pass = 3 then .drop dropPassLimit
    else match sidingTarget s m.inPort t with
      | none => .drop dropNoTarget
      | some n => .sent { m with dispTarget := n }
  | 1 => if (portOf s t).isSome then .sent m else .drop dropNoTarget
  | 2 => match groupOf s t with
    | none => .drop dropNoTarget
    | some g =>
      if g.members = [] then .drop dropNoTarget
      else match groupTarget s g m.fhash with
        | none => .drop dropPortDown
        | some p => .sent { m with dispKind := 1, dispTarget := p }
  | 0 => if ask.hostCopy.isSome then .trapped else .drop dropNoAction
  | _ => if mcMask s t = 0 then .drop dropNoTarget else .sent m

/-- Takes the first frame of a Line out of its list. -/
def takeRx (f : RxFrame) (s : Chip) : Chip := modPkt (fun k => { k with rx := k.rx.filter (fun x => ¬ x.fid = f.fid) }) s

/-- The Junction half a slot goes to: the other one while its own is fenced (R22, R452). -/
def usableHalf (s : Chip) (half : Nat) : Option Nat :=
  if !isFenced s (.jn half) then some half
  else if !isFenced s (.jn (1 - half)) then some (1 - half)
  else none

/-- A frame that both halves refuse is dropped (R452). -/
def refuseHalf (half : Nat) (f : RxFrame) (s : Chip) : Chip :=
  dropRx (.jn half) dropFenced f (bump (.jn half) 0x010C 1 (countFencedReq (.jn half) (takeRx f s)))

/-- A frame and what its Line has asked for go to the Junction (R303, R308). -/
def toJunction (line half : Nat) (f : RxFrame) (x : Passed) (s : Chip) : Chip :=
  let trap := match x.ask.hostCopy with | none => 0 | some (_, r) => r
  let wb := { f.wb with epoch := f.m.epoch, pass := f.m.pass, trapReason := trap, fhash := x.m.fhash,
                        wflags := if x.ask.hostCopy.isSome then Nat.lor f.wb.wflags 64 else f.wb.wflags }
  let first := !f.siding
  let j : JnFrame :=
    { fid := f.fid, half := half, line := line, bytes := x.out, bad := f.bad, m := x.m, wb := wb, req := f.req, group := f.group
      cells := f.cells, first := first, primary := false, mirrors := x.ask.mirrors, hostCopy := x.ask.hostCopy, host := f.host }
  let copies (k : PacketSt) : List JnFrame :=
    if x.ask.hostCopy.isSome then k.hostCopies ++ [{ j with host := none }] else k.hostCopies
  let mirrored := x.ask.mirrors ≠ [] || (first && sget [] s.pkt.inSrc f.m.inPort ≠ [])
  let s := modPkt (fun k => { k with hostCopies := copies k }) s
  match fateOf s x.m x.ask with
  | .drop reason =>
    let s := hostOutcome f.host .ok 0 (dropWaybill (.iline line) reason wb s)
    if mirrored then modPkt (fun k => { k with jn := k.jn ++ [{ j with host := none }] }) s else s
  | .trapped =>
    let s := hostOutcome f.host .ok 0 s
    if mirrored then modPkt (fun k => { k with jn := k.jn ++ [{ j with host := none }] }) s else s
  | .sent m => modPkt (fun k => { k with jn := k.jn ++ [{ j with m := m, primary := true }] }) s

/-- The frame is stamped on its first pass (R215), and a PIPELINE frame of the host takes its ingress timestamp (R393). -/
def stampRx (f : RxFrame) (s : Chip) : RxFrame :=
  if f.siding then f
  else
    let f := { f with m := { f.m with epoch := s.pkt.epoch.cur }, wb := { f.wb with epoch := s.pkt.epoch.cur } }
    if f.host.isSome then
      let ts := nowTs s
      { f with m := { f.m with inTs := ts }, wb := { f.wb with inTs := ts, inSec := s.time.sec, inRun := runFine s } }
    else f

/-- A frame that its Line has admitted under a view runs through it (R157). -/
def ingressRun (line half : Nat) (d : PassDefects) (v : View) (f : RxFrame) (s : Chip) : Chip :=
  let s := if v = .stale then lineCount false line 0x0708 1 s else s
  let f := if v = .stale && !bit f.wb.wflags 4 then { f with wb := { f.wb with wflags := f.wb.wflags + 16 } } else f
  let s := if f.siding then pmcCount (.iline line) 0x17 0 s else s
  let r := linePass false line half (v = .drn) f.bytes (carry f.m) d s
  let s := r.2
  if !s.pkt.rx.any (fun x => x.fid = f.fid) then s
  else
    let s := takeRx f s
    if r.1.broken then pipeFault false line 0x01 .bad (dropRx (.iline line) dropPipeline f s)
    else toJunction line half f r.1 s

/-- The frame an ingress Line takes next: the oldest its Platform has, unless a Siding frame may have the slot (R226). Beside a waiting
Platform frame it may once 15 slots have gone to the Platform since the last Siding slot, and then has it (log 165). -/
def nextRx (s : Chip) (line : Nat) : Option RxFrame :=
  let own := s.pkt.rx.find? (fun f => f.line = line && !f.siding)
  let back := s.pkt.rx.find? (fun f => f.line = line && f.siding)
  match own, back with
  | some f, some b => if sget 0 s.pkt.sidingWait line = 0 then some b else some f
  | some f, none => some f
  | none, b => b

/-- A slot of an ingress Line has gone to a frame (R226). -/
def takeSlot (line : Nat) (f : RxFrame) (s : Chip) : Chip :=
  modPkt (fun k => { k with sidingWait := smod 0 k.sidingWait line (fun n => if f.siding then 15 else n - 1) }) s

/-- The head of the next frame of an ingress Line reaches its parser (R157). -/
def ingressPass (line half : Nat) (d : PassDefects) (s : Chip) : Chip :=
  let i := Isl.iline line
  if dead s || !isOn s i || isFenced s i then s
  else match nextRx s line with
    | none => s
    | some f =>
      let s := takeSlot line f s
      let l := lineOf s false line
      if !l.live then dropRx i dropNoEpoch f (takeRx f s)
      else match usableHalf s half with
        | none => refuseHalf half f s
        | some half =>
          let f := stampRx f s
          let v := if f.siding then viewOf s l f.m.epoch else .cur
          if v = .stale && staleDrops s false line then
            dropRx i dropStale f (lineCount false line 0x070C 1 (takeRx f s))
          else ingressRun line half d v f s

def execIngressLinePass (line half : Nat) (d : PassDefects) (s : State) : Host.Outcome State Fault Refusal :=
  onUnit (decide (line < 36) && decide (half < 2)) s fun s => settle (ingressPass line half d s)

end Sys2Proof.Machine
end

