-- ==== Sys2Proof/Machine/Commit.lean ====
section
/-!
DEFINITION. The fills of the egress commit point (R394 to R400, R413 to R415).
-/

namespace Sys2Proof.Machine

/-- The time at the commit point of a copy: the clock and the run count, both at T_eg, and what the frame brings. -/
structure CommitTime where
  t : TimeSt
  /-- Run count at T_eg less run count at T_in, in 2^-32 ns. -/
  stay : Int
  port : Nat
  inPort : Nat
  inSec : Nat
  inTs : Nat
  qDepth : Nat
  yard : Nat

/-- T_eg less the present time (R394), in 2^-32 ns. -/
def txDelay (s : Chip) (p pSlot : Nat) : Int :=
  let cw := match sget none s.ports.causeway (platformOf p / 4) with | none => 0 | some w => w.toNat
  (pSlot : Int) + (cw : Int) * 65536 + (tsFixed s p true : Int) * 65536 + tsWord s p 0x04 * 65536

/-- A correctionField after an addition (R398): held to the signed 64-bit range; a field at its largest value keeps it. -/
def correct (field : Nat) (add : Int) : Nat :=
  if field = 2 ^ 63 - 1 then field
  else
    let v := signed 64 field + add
    if (2 ^ 63 - 1 : Int) < v then 2 ^ 63 - 1 else if v < -(2 ^ 63 : Int) then 2 ^ 63 else unsignedOf 64 v

/-- The same for ORIGIN (R397), which states no bound: a sum outside the range is a free value (log 41). -/
def correctOrigin (field add free : Nat) : Nat :=
  let v := signed 64 field + add
  if (2 ^ 63 - 1 : Int) < v then free else unsignedOf 64 v

/-- ORIGIN (R397), or none if the request is bad (R400). -/
def fillOrigin (c : CommitTime) (free o : Nat) (f : List Byte) : Option (List Byte) :=
  if o < 26 || decide (f.length < o + 10) then none
  else
    let g := overlay f o (beBytes 6 c.t.sec ++ beBytes 4 c.t.ns)
    some (overlay g (o - 26) (beBytes 8 (correctOrigin (beNat (slice f (o - 26) 8)) (c.t.frac / 65536) free)))

/-- CORRECTION (R398). -/
def fillCorrection (s : Chip) (c : CommitTime) (o : Nat) (f : List Byte) : Option (List Byte) :=
  if f.length < o + 8 then none
  else some (overlay f o (beBytes 8 (correct (beNat (slice f o 8)) (c.stay / 65536 + tsWord s c.inPort 0x08))))

/-- CSUM_UDP (R399): `f0` is the frame before the other request. A word that must be 0 in one's complement may be written either
way: a free value (log 40). -/
def fillCsum (free o : Nat) (f0 f : List Byte) : Option (List Byte) :=
  if o % 2 = 1 || decide (f.length < o + 2) then none
  else if f0 = f then some f
  else
    let w := onesAdd (onesSum f0) (0xFFFF - onesSum (overlay f o [0#8, 0#8]))
    let w := if w = 0 || w = 0xFFFF then (if bit free 0 then 0xFFFF else 0) else w
    some (overlay f o (beBytes 2 w))

/-! IOAM (R413 to R415) -/

/-- Bit `i` of the IOAM-Trace-Type at bytes O + 4 to O + 6, bit 0 first in network order. -/
def traceBit (f : List Byte) (o i : Nat) : Bool := bit (beNat (slice f (o + 4) 3)) (23 - i)

/-- The trace-type bits the device fills (R414), and the units of each. -/
def traceBits : List Nat := [0, 1, 2, 3, 4, 5, 6, 8, 9, 10, 11]
def traceUnits (i : Nat) : Nat := if 8 ≤ i && i ≤ 10 then 2 else 1

/-- The node data of one bit (R414). `hop` is Hop_Lim. -/
def traceData (s : Chip) (c : CommitTime) (hop i : Nat) : List Byte :=
  let res := satAdd max32 (c.stay / 2 ^ 32).toNat 0
  match i with
  | 0 => beBytes 1 hop ++ beBytes 3 s.tm.nodeId
  | 1 => beBytes 2 c.inPort ++ beBytes 2 c.port
  | 2 => beBytes 4 c.inSec
  | 3 => beBytes 4 (c.inTs / 2 ^ 16 % 2 ^ 30)
  | 4 => beBytes 4 res
  | 5 => beBytes 4 s.tm.nsdShort
  | 6 => beBytes 4 c.qDepth
  | 8 => beBytes 1 hop ++ beBytes 7 s.tm.nodeId
  | 9 => beBytes 4 c.inPort ++ beBytes 4 c.port
  | 10 => beBytes 8 s.tm.nsdWide
  | _ => beBytes 4 (131072 - (yardOf s c.yard).free - (yardOf s c.yard).retired.length)

/-- IOAM_FILL (R413), or none if the request is bad (R415). `base` is the deparser's output. -/
def fillIoam (s : Chip) (c : CommitTime) (o : Nat) (base f : List Byte) : Option (List Byte) :=
  if f.length < o + 8 then none
  else
    let w := beNat (slice f (o + 2) 2)
    let nodeLen := bits w 11 5
    let rem := bits w 0 7
    let set := (span 0 24).filter (traceBit f o)
    let units := (set.map traceUnits).sum
    let back := s.tm.hlBack
    let at' := o + 8 + 4 * (rem - nodeLen)
    if set = [] || set.any (fun i => !traceBits.contains i) || nodeLen ≠ units || o < back then none
    else if rem < nodeLen then some (overlay f (o + 2) (beBytes 2 (setBit w 10 true)))
    else if f.length < at' + 4 * nodeLen then none
    else
      let hop := (nth 0#8 base (o - back)).toNat
      let data := (set.map (traceData s c hop)).flatten
      some (overlay (overlay f at' data) (o + 2) (beBytes 2 (w - nodeLen)))

/-- One request other than CSUM_UDP on the frame: a bad one is ignored and counted (R400, R415). -/
def fillOne (c : CommitTime) (base : List Byte) (r : CommitReq) (x : List Byte × Chip) : List Byte × Chip :=
  let (f, s) := x
  let i := Isl.platform (platformOf c.port)
  let o := 0x6000 + 0x40 * laneIndex c.port
  match r.kind with
  | 0 => match fillIoam s c r.offset base f with | some g => (g, s) | none => (f, bump i (o + 0x18) 1 s)
  | 1 =>
    match fillOrigin c (freeNext s).toNat r.offset f with
    | some g => (g, freeTake s)
    | none => (f, bump i (o + 0x14) 1 s)
  | 2 => match fillCorrection s c r.offset f with | some g => (g, s) | none => (f, bump i (o + 0x14) 1 s)
  | _ => (f, s)

/-- CSUM_UDP after the frame's other request. -/
def fillSum (c : CommitTime) (base : List Byte) (r : CommitReq) (x : List Byte × Chip) : List Byte × Chip :=
  if r.kind ≠ 3 then x
  else match fillCsum (freeNext x.2).toNat r.offset base x.1 with
    | some g => (g, freeTake x.2)
    | none => (x.1, bump (.platform (platformOf c.port)) (0x6000 + 0x40 * laneIndex c.port + 0x14) 1 x.2)

/-- The requests of a frame at the commit point: at most two (R178), CSUM_UDP last, since it answers the other one. -/
def commitFills (c : CommitTime) (reqs : List CommitReq) (base : List Byte) (s : Chip) : List Byte × Chip :=
  let a := reqs.foldl (fun x r => fillOne c base r x) (base, s)
  reqs.foldl (fun x r => fillSum c base r x) a

end Sys2Proof.Machine
end

