-- ==== Sys2Proof/Machine/Junction.lean ====
section
/-!
DEFINITION. The Junction and the Yards (R271 to R288, R303 to R313): forming a frame's copies, writing its cells, and the end of the
write.
-/

namespace Sys2Proof.Machine

/-! Cells -/

/-- How many bytes the last cell of a frame leaves unused. -/
def padLen (bytes : List Byte) : Nat := 256 * cellsOf bytes.length - bytes.length

/-- The cells of a frame in Yard `y` (R271 to R273), each with the references of `n` copies and an index of `idxs`; the NEXT of the last
one is undefined, the free value `undef`. The CRC covers the 256 data bytes (R286), the unused bytes `pad` of the last cell among them. -/
def frameCells (y n : Nat) (bytes pad : List Byte) (idxs : List Nat) (undef : Nat) : List CellSt :=
  let m := cellsOf bytes.length
  (span 0 m).map (fun k =>
    { refcnt := n, len := (slice bytes (256 * k) 256).length % 256, crc := (crc16 (slice (bytes ++ pad) (256 * k) 256)).toNat
      idx := nth 0 idxs k, next := if k + 1 = m then undef % 2 ^ 20 else cellId y (nth 0 idxs (k + 1)), last := decide (k + 1 = m) })

/-! Copies -/

/-- A mirror session as the copy's time finds it (R307, R310): DEST is a configured port. -/
def liveSession (s : Chip) (k : Nat) : Option Session :=
  match sget none s.pkt.sessions k with
  | none => none
  | some v => if (portOf s v.dest).isSome then some v else none

/-- Ports of a multicast mask, rising. -/
def maskPorts (m : Nat) : List Nat := (span 0 512).filter (bit m)

/-- The primary copies of a frame (R303), and the number of group bits without a port (R304). -/
def primaryPlans (s : Chip) (f : JnFrame) : List CopyPlan × Nat :=
  match f.direct with
  | some q => ([{ queue := q, port := (queuePort q).getD 0xFFFF, kind := 0 }], 0)
  | none =>
    if !f.primary then ([], 0)
    else
      let t := f.m.dispTarget
      if f.m.dispKind = 1 then ([{ queue := queueId t f.m.tc, port := t, kind := 0 }], 0)
      else if f.m.dispKind = 6 then ([{ queue := 10240 + t, port := 0xFFFF, kind := 2 }], 0)
      else
        let ps := maskPorts (mcMask s t)
        let ps := if f.m.dispKind = 4 then ps.filter (fun p => ¬ p = f.m.inPort) else ps
        let there := ps.filter (fun p => (portOf s p).isSome)
        (there.map (fun p => { queue := queueId p (16 + f.m.mcClass), port := p, kind := 0, mcast := true }), ps.length - there.length)

/-- The sessions of a frame's ingress mirror copies: port sessions in rising order, then those of the program (R310). -/
def mirrorSessions (ports program : List Nat) : List Nat := ports ++ program.filter (fun k => !ports.contains k)

/-- Mirror copies of the sessions that are live, and how many are not (R307, R310). -/
def mirrorPlans (s : Chip) (ks : List Nat) : List CopyPlan × Nat :=
  let live := ks.filterMap (liveSession s)
  (live.map (fun v => { queue := queueId v.dest v.tc, port := v.dest, kind := 1, trunc := v.trunc }), ks.length - live.length)

/-- The PFC priority of a queue is paused by a received PFC frame (R301, R315). -/
def queuePaused (s : Chip) (q : Nat) : Bool :=
  match queuePort q with
  | none => false
  | some p => match portOf s p with
    | none => false
    | some v =>
      let pri := bits (queueWord s q 0) 24 4
      decide (pri < 8) && (match sfind v.paused pri with | none => false | some t => decide (0 < remaining s t))

/-- A primary copy to a port is cut-through (R313). -/
def cutThrough (s : Chip) (f : JnFrame) (c : CopyPlan) : Bool :=
  c.kind = 0 && f.first && f.host.isNone && f.direct.isNone &&
    bit (liveW s (portWord c.port 0x1000 0x04)).toNat 26 && decide (portRate s c.port ≤ portRate s f.m.inPort) &&
    queueOf s c.queue = [] && !queuePaused s c.queue && !(span 0 20).any (fun j => spillMapped s (queueId c.port j))

/-- `eflags` and WFLAGS bits of a copy (R163, R410). -/
def copyFlags (cut : Bool) (c : CopyPlan) : Nat := pack [(1, 1, b2n cut), (2, 1, b2n (c.kind = 1)), (3, 1, b2n c.mcast)]

/-- WFLAGS with the bits of a copy set. -/
def setFlags (w flags : Nat) : Nat := Nat.lor w flags

/-- The Waybill of a copy that a Yard refuses (R411). -/
def refusedWaybill (f : JnFrame) (c : CopyPlan) : Waybill :=
  { f.wb with egPort := c.port, qId := c.queue, enqTs := 0, pass := f.m.pass, epoch := f.m.epoch
              wflags := setFlags f.wb.wflags (copyFlags false c) }

/-- Records a refused copy (R280, R306). -/
def refuseCopy (y reason : Nat) (f : JnFrame) (c : CopyPlan) (s : Chip) : Chip :=
  dropWaybill (.yard y) reason (refusedWaybill f c) s

/-- Appends one admitted copy to its queue (R306). -/
def appendCopy (y n : Nat) (f : JnFrame) (c : CopyPlan) (s : Chip) : Chip :=
  let cut := cutThrough s f c
  let depth := if cut then 0 else depthOf s c.queue
  let flags := copyFlags cut c
  let ef := flags
  let m := if c.kind = 2 then carrySiding f.m
    else { carry f.m with egPort := c.port, qId := c.queue, qDepth := depth, eflags := ef }
  let wb := { f.wb with enqTs := nowTs s, enqRun := runFine s, egPort := c.port, qId := c.queue, qDepth := depth
                        wflags := setFlags f.wb.wflags flags }
  let x : Copy :=
    { cid := s.pkt.nextId, fid := f.fid, queue := c.queue, yard := y, port := c.port, kind := c.kind, cut := cut, trunc := c.trunc
      bytes := f.bytes, places := repl n .shared, stream := (queueSt s c.queue).spillMode, m := m, wb := wb
      host := if c.kind = 1 then none else f.host, direct := f.direct.isSome }
  setQueue c.queue (queueOf s c.queue ++ [x]) (modPkt (fun k => { k with nextId := k.nextId + 1 }) s)

/-- One Yard decides the copies bound for its queues (R305, R306): the number admitted, and the state. -/
def yardDecide (y : Nat) (f : JnFrame) (cs : List CopyPlan) (s : Chip) : Nat × Chip :=
  if isFenced s (.yard y) then
    let s := countFencedReq (.yard y) (bump (.jn f.half) 0x010C cs.length s)
    (0, cs.foldl (fun s c => refuseCopy y dropFenced f c s) s)
  else
    let full (c : CopyPlan) : Bool := !losslessOf s y f.req && decide (qlimitOf s y c.queue ≤ depthOf s c.queue)
    let aside := cs.filter full
    let rest := cs.filter (fun c => !full c)
    let s := aside.foldl (fun s c => refuseCopy y dropQueueLimit f c (countRefusal y f.req f.half dropQueueLimit s)) s
    match rest with
    | [] => (0, s)
    | c0 :: _ =>
      let n := cellsOf f.bytes.length
      let need := max f.cells n
      match admission s y f.req need (depthOf s c0.queue) (qlimitOf s y c0.queue) with
      | .inl reason =>
        let s := countRefusal y f.req f.half reason s
        (0, rest.foldl (fun s c => refuseCopy y reason f c s) s)
      | .inr headroom =>
        let pad := freeBytes (padLen f.bytes) s
        let s := freeBytesTake (padLen f.bytes) (grant y f.req need headroom s)
        let cells := frameCells y rest.length f.bytes pad (takeIdxs (s.free + 1) n (usedCells s y)) (freeNext s).toNat
        let s := { s with free := s.free + 1 + n }
        let share : Share :=
          { fid := f.fid, yard := y, req := f.req, c := need, headroom := headroom, first := f.first && f.host.isNone && f.direct.isNone
            written := false, bad := 0, endBad := f.bad, cells := cells, bytes := f.bytes
            pad := pad }
        let s := modPkt (fun k => { k with shares := k.shares ++ [share] }) s
        (rest.length, rest.foldl (fun s c => appendCopy y n f c s) s)

/-- The result of a descriptor of the host once its frame is in the Yards or refused (R121, R122). -/
def hostFormed (f : JnFrame) (plans admitted : Nat) (waits : Bool) (s : Chip) : Chip :=
  let s := postOutcome f.post (decide (0 < admitted)) s
  if 0 < plans && admitted = 0 then hostOutcome f.host .noRoom 0 s
  else if waits then s
  else hostOutcome f.host .ok 0 s

/-- A frame that was to be sent and yields no primary copy, since its group names no configured port it may go to, ends without a target
(R38; log 36). -/
def noCopy (f : JnFrame) (plans : List CopyPlan) (s : Chip) : Chip :=
  if f.primary && plans = [] then hostOutcome f.host .ok 0 (dropWaybill (.jn f.half) dropNoTarget f.wb s) else s

/-- Forms the copies of a frame (R303): at most 4,095, those beyond dropped and counted (R276). -/
def formCopies (f : JnFrame) (s : Chip) : Chip :=
  let jn := Isl.jn f.half
  let pr := primaryPlans s f
  let ks := mirrorSessions (if f.first && f.direct.isNone then sget [] s.pkt.inSrc f.m.inPort else []) f.mirrors
  let mi := mirrorPlans s ks
  let s := if pr.2 = 0 then s else bump jn 0x0100 pr.2 s
  let s := noCopy f pr.1 (if mi.2 = 0 then s else bump jn 0x0104 mi.2 s)
  let all := pr.1 ++ mi.1
  let s := (all.drop 4095).foldl (fun s c => bump (.yard (queueYard s c.queue)) 0x0130 1 s) s
  let all := all.take 4095
  let s := all.foldl (fun s _ => pmcCount jn 0x40 0 s) s
  let ys := (span 0 8).map (fun y => (y, all.filter (fun c => queueYard s c.queue = y)))
  let r := (ys.filter (fun x => x.2 ≠ [])).foldl (fun (r : Nat × Chip) x =>
    let d := yardDecide x.1 f x.2 r.2; (r.1 + d.1, d.2)) (0, s)
  let tsreq := match f.host with | some (_, _, b) => b | none => false
  let live := (allCopies r.2).any (fun c => c.fid = f.fid && c.host.isSome)
  hostFormed f all.length r.1 (tsreq && live) r.2

/-- A defect in a Yard's header, account or free-list memory (R288). -/
def headerDefect (d : HeaderDefect) (s : Chip) : Chip :=
  match d with
  | none => s
  | some (y, both) =>
    if 8 ≤ y || isFenced s (.yard y) || !isOn s (.yard y) then s
    else if both then raise (.yard y) 0x04 clsBuffer 3 s else raise (.yard y) 0x03 clsBuffer 1 s

/-- The next frame of a half: the first one whose Line has no earlier frame waiting in the other half (R296). -/
def nextJn (l : List JnFrame) (half : Nat) : Option JnFrame :=
  l.find? (fun f => f.half = half && (f.direct.isSome ||
    !(l.takeWhile (fun x => ¬ x.fid = f.fid)).any (fun x => x.line = f.line && x.direct.isNone)))

/-- A Junction half forms the copies of its next frame. -/
def junctionStep (half : Nat) (d : HeaderDefect) (s : Chip) : Chip :=
  if dead s || !isOn s (.jn half) || isFenced s (.jn half) then s
  else
    let s := headerDefect d s
    match nextJn s.pkt.jn half with
    | none => s
    | some f => formCopies f (modPkt (fun k => { k with jn := k.jn.filter (fun x => ¬ x.fid = f.fid) }) s)

def execCopyFormation (half : Nat) (d : HeaderDefect) (s : State) : Host.Outcome State Fault Refusal :=
  onUnit (decide (half < 2)) s fun s => settle (junctionStep half d s)

/-- A frame's last cell has been written in the Yards that hold it (R273, R282): the reservation it did not use returns, and what its
end has shown becomes its BAD code. -/
def lastCell (fid : Nat) (s : Chip) : Chip :=
  (s.pkt.shares.filter (fun h => h.fid = fid && !h.written)).foldl (fun s h =>
    let s := returnUnused h.yard h.req (h.c - h.cells.length) h.headroom s
    let bad := if h.endBad = 0 then h.bad else h.endBad
    let mark (c : Copy) : Copy :=
      if c.fid = fid && c.yard = h.yard && nth .done c.places 0 ≠ .shared && c.ownBad = 0 then { c with ownBad := bad } else c
    let s := modPkt (fun k => { k with queues := if bad = 0 then k.queues else k.queues.map (fun x => (x.1, x.2.map mark)) }) s
    setShare h.yard fid { h with written := true, bad := bad } s) s

def execLastCellWritten (fid : Nat) (s : State) : Host.Outcome State Fault Refusal :=
  onChip s fun s => if dead s then s else settle (lastCell fid s)

end Sys2Proof.Machine
end

