-- ==== Sys2Proof/Machine/Scheduler.lean ====
section
/-!
DEFINITION. The schedulers of an egress Line (R298 to R300, R334): which queue holds a copy, eligibility, strict levels and DWRR.
-/

namespace Sys2Proof.Machine

/-- The first copy of a queue can be dequeued: its frame is written, unless it is cut-through, and every cell is on chip (R313,
R334). -/
def headReady (s : Chip) (q : Nat) : Option Copy :=
  match queueOf s q with
  | [] => none
  | c :: _ =>
    if !c.cut && !copyWritten s c then none
    else if c.places.any (fun p => match p with | .seg _ => true | _ => false) then none
    else some c

/-- The copy is still queued. -/
def isQueued (s : Chip) (c : Copy) : Bool := (queueOf s c.queue).any (fun x => x.cid = c.cid)

/-- Takes a copy out of its queue; a queue that becomes empty loses its deficit (R298). -/
def takeCopy (c : Copy) (s : Chip) : Chip :=
  let l := (queueOf s c.queue).filter (fun x => ¬ x.cid = c.cid)
  let s := setQueue c.queue l s
  if l = [] then modQueueSt c.queue (fun v => { v with deficit := 0 }) s else s

/-- A queue waits for cells of its first copy: counted once for the copy (R334). -/
def countStall (q : Nat) (s : Chip) : Chip :=
  match queueOf s q with
  | [] => s
  | c :: _ =>
    if (queueSt s q).spillMode && !c.stalled && c.places.any (fun p => match p with | .seg _ => true | _ => false) then
      let s := setQueue q ((queueOf s q).map (fun x => if x.cid = c.cid then { x with stalled := true } else x)) s
      pmcCount (.quarry c.yard) 0x54 0 (bump (.quarry c.yard) 0x0128 1 s)
    else s

/-- A bucket holds a queue back when it is below 0, and gives it its minimum while it is above 0 (R298). -/
def maxAllows (s : Chip) (q : Nat) : Bool := match (queueSt s q).maxBucket with | none => true | some b => decide (0 ≤ b)
def minServes (s : Chip) (q : Nat) : Bool := match (queueSt s q).minBucket with | none => false | some b => decide (0 < b)

/-- LN_Q_LEVEL and LN_Q_WEIGHT of a queue. -/
def queueLevel (s : Chip) (q : Nat) : Nat := bits (queueWord s q 0) 0 3
def queueWeight (s : Chip) (q : Nat) : Nat := bits (queueWord s q 0) 8 8

/-- How many times DWRR adds the weights before a queue's deficit is above 0. -/
def dwrrRounds (s : Chip) (q : Nat) : Nat :=
  let d := (queueSt s q).deficit
  if 0 < d then 0 else ((-d).toNat / (max 1 (queueWeight s q) * 1024)) + 1

/-- The least of a list of numbers, 0 of none. -/
def least : List Nat → Nat
  | [] => 0
  | [a] => a
  | a :: b :: m => min a (least (b :: m))

/-- DWRR over queues of one level in rising index (R298): the queue taken, with every deficit raised as often as needed. -/
def dwrr (p level : Nat) (qs : List Nat) (s : Chip) : Option Nat × Chip :=
  let k := least (qs.map (dwrrRounds s))
  let s := qs.foldl (fun s q => modQueueSt q (fun v => { v with deficit := v.deficit + k * (queueWeight s q * 1024) }) s) s
  let ptr := sget 0 s.pkt.pointers (8 * p + level)
  let order := qs.filter (fun q => ptr ≤ queueIndex q) ++ qs.filter (fun q => queueIndex q < ptr)
  match order.find? (fun q => decide (0 < (queueSt s q).deficit)) with
  | none => (none, s)
  | some q => (some q, modPkt (fun x => { x with pointers := sput 0 x.pointers (8 * p + level) (queueIndex q) }) s)

/-- The scheduler of a port takes a queue (R298). -/
def schedule (p : Nat) (s : Chip) : Option Nat × Chip :=
  let qs := (span 0 20).map (queueId p)
  let e := qs.filter (fun q => (headReady s q).isSome && !queuePaused s q && maxAllows s q)
  let m := e.filter (minServes s)
  let w := if m = [] then e else m
  let top := w.foldl (fun n q => max n (queueLevel s q)) 0
  match w.filter (fun q => queueLevel s q = top) with
  | [] => (none, s)
  | q :: l => dwrr p top (q :: l) s

/-- The window of a rate in Gbit/s in bytes (R298): 300 ns, rounded up to 256 bytes. -/
def windowBytes (rate : Nat) : Nat := (rate * 300 / 8 + 255) / 256 * 256

/-- The bytes dequeued and certainly not yet sent: those behind the copy at work, of which any part may have been sent (log 31). -/
def unsentBytes (ls : List Nat) : Nat := (ls.drop 1).sum

/-- A port has a transmit opportunity (R298). -/
def hasWindow (s : Chip) (p : Nat) : Bool :=
  decide (unsentBytes ((s.pkt.tx.filter (fun t => t.copy.port = p && t.copy.kind ≠ 2)).map (fun t => t.out.length)) <
    windowBytes (portRate s p))

/-- The pseudo-port of a Siding has one (R300). -/
def sidingWindow (s : Chip) (n : Nat) : Bool :=
  decide (unsentBytes ((s.pkt.sidings.filter (fun f => f.line = n)).map (fun f => f.bytes.length)) < windowBytes 400)

end Sys2Proof.Machine
end

