-- ==== Sys2Proof/Machine/Egress.lean ====
section
/-!
DEFINITION. Transmission (R138, R140, R157, R183, R220, R223, R286, R297 to R300, R309, R314, R360, R394): a transmit opportunity, what
the egress Line makes of the copy, the Sidings, egress mirror copies, the end of a transmission and the discard of copies unread.
-/

namespace Sys2Proof.Machine

/-! Dequeue -/

/-- The view a copy runs under at its egress Line. A DIRECT frame carries the current epoch of the Line (R121). -/
def egressView (n : Nat) (c : Copy) (s : Chip) : View :=
  if c.direct then .cur else viewOf s (lineOf s true n) c.m.epoch

/-- Why a dequeued copy is not read (R83, R138, R220, R273, R459): the dropping island and the reason. -/
def dequeueStop (n : Nat) (c : Copy) (s : Chip) : Option (Isl × Nat) :=
  if c.kind ≠ 2 && !portUp s c.port then some (.eline n, dropPortDown)
  else if copyWritten s c && copyBad s c ≠ 0 then some (.yard c.yard, badReason (copyBad s c))
  else if !(lineOf s true n).live then some (.eline n, dropNoEpoch)
  else if egressView n c s = .stale && staleDrops s true n then some (.eline n, dropStale)
  else none

/-- Counts a drop at dequeue: of a stale frame at the Line (R220), of a frame with a cell returned bad at its Quarry (R335). -/
def countStop (n : Nat) (c : Copy) (reason : Nat) (s : Chip) : Chip :=
  if reason = dropStale then lineCount true n 0x070C 1 s
  else if reason = dropCellCrc && c.quarryBad then bump (.quarry c.yard) 0x0134 1 s
  else s

/-- The copy as its egress Line takes it: promotion of a stale frame is counted and noted (R220). -/
def promote (n : Nat) (c : Copy) (s : Chip) : Copy × Chip :=
  if egressView n c s = .stale then
    ({ c with wb := { c.wb with wflags := setFlags c.wb.wflags 16 } }, lineCount true n 0x0708 1 s)
  else (c, s)

/-- Bytes a copy reads: a truncated mirror copy reads its first TRUNC (R311). -/
def readBytes (c : Copy) : List Byte := if c.trunc = 0 then c.bytes else c.bytes.take c.trunc

/-- Marks a shared cell of a copy as bad on repeat, so that it is retired (R287); a cell of the copy's own is retired at once. -/
def retireCell (k : Nat) (c : Copy) (s : Chip) : Copy × Chip :=
  match nth .done c.places k with
  | .shared =>
    match shareOf s c.yard c.fid with
    | none => (c, s)
    | some h => (c, setShare c.yard c.fid { h with cells := (h.cells.zip (span 0 h.cells.length)).map (fun x =>
        if x.2 = k then { x.1 with retire := true } else x.1) } s)
  | .own _ _ i => ({ c with places := setNth c.places k .done }, freeCells c.yard 4099 1 [i] s)
  | _ => (c, s)

/-- A cell CRC mismatch is met by a copy: the cell is one it reads, on chip. -/
def meetsCell (c : Copy) (d : CellDefect) : Option (Nat × Repeat) :=
  match d with
  | none => none
  | some (k, r) =>
    if k < cellsOf (readBytes c).length && (nth .done c.places k).onChip then some (k, r) else none

/-- The fault of a cell CRC mismatch (R286, R289). -/
def cellFault (y : Nat) (r : Repeat) (s : Chip) : Chip :=
  let s := pmcCount (.yard y) 0x33 0 s
  match r with
  | .clean => raise (.yard y) 0x01 clsBuffer 1 s
  | .bad => raise (.yard y) 0x02 clsBuffer 2 s

/-- Writes a changed copy back to its queue. -/
def keepCopy (c : Copy) (s : Chip) : Chip :=
  setQueue c.queue ((queueOf s c.queue).map (fun x => if x.cid = c.cid then c else x)) s

/-- Reads of one copy's cells: the copy, the bytes it can read if a cell stayed bad, and the state. -/
def readCells (c : Copy) (d : CellDefect) (s : Chip) : Copy × Option Nat × Chip :=
  match meetsCell c d with
  | none => (c, none, s)
  | some (_, .clean) => (c, none, cellFault c.yard .clean s)
  | some (k, .bad) =>
    let r := retireCell k c s
    (r.1, some (256 * k), cellFault c.yard .bad (keepCopy r.1 r.2))

/-! Waybills and mirrors of the egress side -/

/-- The ingress part of a Waybill, from which a copy completes its own record (R411). -/
def ingressPart (w : Waybill) : Waybill :=
  { w with enqTs := 0, egTs := 0, egPort := 0xFFFF, qId := 0xFFFF, qDepth := 0, wflags := w.wflags / 16 * 16 }

/-- Stages the egress mirror copies of a copy (R309, R310); a mirror copy is never mirrored again (R311). A copy cut at TRUNC bytes is
complete once those are there. -/
def stageMirrors (half : Nat) (c : Copy) (asked : List Nat) (m : Manifest) (out : List Byte) (s : Chip) : Chip :=
  if c.kind = 1 then s
  else (mirrorSessions (sget [] s.pkt.egSrc c.port) asked).foldl (fun s k =>
    match liveSession s k with
    | none => bump (.jn half) 0x0104 1 s
    | some v =>
      let bytes := if v.trunc = 0 then out else out.take v.trunc
      let used := ((s.pkt.staged.filter (fun g => g.half = half)).map (fun g => g.bytes.length)).sum
      if 65536 < used + bytes.length then bump (.jn half) 0x0108 1 s
      else
        let g : Staged :=
          { sid := s.pkt.nextId, session := k, half := half, source := c.cid, yard := c.yard, queue := queueId v.dest v.tc
            port := v.dest, bytes := bytes, m := m
            wb := { ingressPart c.wb with
                    pass := c.m.pass, epoch := countEpoch s c.direct c.m.epoch, egPort := v.dest, qId := queueId v.dest v.tc
                    wflags := setFlags (ingressPart c.wb).wflags 4 }
            complete := decide (v.trunc ≠ 0) && decide (v.trunc ≤ out.length) }
        modPkt (fun p => { p with nextId := p.nextId + 1, staged := p.staged ++ [g] }) s) s

/-- The source copy of staged mirror copies has ended: their length is known (R309). -/
def endMirrors (cid : Nat) (s : Chip) : Chip :=
  modPkt (fun k => { k with staged := k.staged.map (fun g => if g.source = cid then { g with complete := true } else g) }) s

/-- A host copy asked for in an egress Line goes to the PCIe island (R181, R303). -/
def egressHostCopy (n half : Nat) (c : Copy) (x : Passed) (s : Chip) : Chip :=
  if x.ask.hostCopy.isNone then s
  else
    let f : JnFrame :=
      { fid := s.pkt.nextId, half := half, line := n, bytes := x.out, bad := 0, m := x.m
        wb := { ingressPart c.wb with pass := c.m.pass, epoch := countEpoch s c.direct c.m.epoch }
        req := 4096, group := 0, cells := 0, first := false, primary := false, mirrors := [], hostCopy := x.ask.hostCopy }
    modPkt (fun k => { k with nextId := k.nextId + 1, hostCopies := k.hostCopies ++ [f] }) s

/-! Siding from an egress Line -/

/-- A frame that a Line's `TO_SIDING` sends back into the Yard of Line pair `b` (R223), as a request of the Siding requester. Its
source copy is read to its end and gives its cells back. -/
def writeBack (n half b : Nat) (c : Copy) (x : Passed) (s : Chip) : Chip :=
  let bad := if copyWritten s c then 0 else match shareOf s c.yard c.fid with | none => 0 | some h => h.endBad
  let f : JnFrame :=
    { fid := s.pkt.nextId, half := half, line := n, bytes := x.out, bad := bad
      m := { x.m with dispTarget := b, epoch := countEpoch s c.direct c.m.epoch }, wb := ingressPart c.wb
      req := 4098, group := 0, cells := cellsOf x.out.length, first := false, primary := true, mirrors := [], hostCopy := none, host := c.host }
  let q := 10240 + b
  let s := endMirrors c.cid s
  let s := modPkt (fun k => { k with nextId := k.nextId + 1, discards := k.discards ++ [{ copy := { c with host := none } }] }) s
  let r := yardDecide (queueYard s q) f [{ queue := q, port := 0xFFFF, kind := 2 }] s
  if r.1 = 0 then hostOutcome c.host .ok 0 r.2 else r.2

/-! The commit point -/

/-- A copy reaches the egress commit point of its port (R394): its fills, its protection, and its place on the wire. `cut` is the number
of bytes it can send before it is stomped. -/
def commit (n p : Nat) (env : TxEnv) (c : Copy) (x : Passed) (cut : Option Nat) (s : Chip) : Chip :=
  let maxOut := (match portOf s p with | none => 0 | some v => v.maxFrame) - 4
  let grown := decide (maxOut < x.out.length)
  let d := txDelay s p env.pSlot
  let q := s.time.holdover || !(egressCopy s n).locked
  let egTs := reportAt d q s
  let egRun := runFine s + d
  let cut := if grown then some (match cut with | none => maxOut | some k => min k maxOut) else cut
  let tm : CommitTime :=
    { t := moveClock d s.time, stay := egRun - c.wb.inRun, port := p, inPort := c.wb.inPort, inSec := c.wb.inSec
      inTs := c.wb.inTs, qDepth := c.m.qDepth, yard := c.yard }
  let r := commitFills tm x.ask.reqs x.out s
  let w := secTransmit p r.1 r.2
  match w.1 with
  | none => dropCopy (.eline n) dropLinkSec c w.2
  | some wire =>
    let res := latencyNs egRun c.wb.inRun
    let hit := parityLane w.2 p env.parity
    let t : TxCopy :=
      { copy := { c with wb := { c.wb with residence := res, latClass := monBin (monOf w.2 1 p) res } }
        line := n, out := r.1, stomp := hit.isSome || cut.isSome, cutAt := cut, egTs := egTs, egRun := egRun, wire := wire, mirrors := [] }
    let s := modPkt (fun k => { k with tx := k.tx ++ [t] }) w.2
    match hit with | none => s | some k => linkParity p k s

/-- What becomes of a copy at the end of its egress Line (R140, R183). -/
def egressFate (n half p : Nat) (env : TxEnv) (c : Copy) (x : Passed) (cut : Option Nat) (s : Chip) : Chip :=
  let i := Isl.eline n
  if x.broken then pipeFault true n 0x01 .bad (dropCopy i dropPipeline c s)
  else
    let c := match x.ask.hostCopy with
      | none => c
      | some (_, r) => { c with wb := { c.wb with trapReason := r, wflags := setFlags c.wb.wflags 64 } }
    let s := stageMirrors half c x.ask.mirrors x.m x.out (egressHostCopy n half c x s)
    if x.m.dispKind = 5 then
      dropCopy i x.m.dropReason c (if copyWritten s c then endMirrors c.cid s else s)
    else if x.m.dispKind = 6 then
      if c.m.pass = 3 then dropCopy i dropPassLimit c s
      else match sidingTarget s c.m.inPort x.m.dispTarget with
        | none => dropCopy i dropNoTarget c s
        | some b => writeBack n half b c x s
    else
      let maxFrame := match portOf s p with | none => 0 | some v => v.maxFrame
      if copyWritten s c && decide (maxFrame < x.out.length + 4) then dropCopy i dropOversize c s
      else commit n p env c x cut s

/-- A dequeued copy runs its egress Line (R157). `cut`: how many of its bytes stand before a bad cell. What follows the parsed headers
goes out unchanged (R185), so it is the output without its end from there. -/
def egressRun (n half p : Nat) (env : TxEnv) (c : Copy) (cut : Option Nat) (s : Chip) : Chip :=
  let drn := egressView n c s = .drn
  let pr := promote n c s
  let c := pr.1
  let m := { c.m with epoch := countEpoch s c.direct c.m.epoch, eflags := setFlags c.m.eflags (b2n c.spilled) }
  let c := { c with m := m, wb := { c.wb with epoch := m.epoch, wflags := setFlags c.wb.wflags (b2n c.spilled) } }
  let r := linePass true n half drn (readBytes c) m env.line pr.2
  let s := r.2
  if !isQueued s c then s
  else
    let s := takeCopy c s
    if isFenced s (.eline n) then dropCopy (.eline n) dropFenced c s
    else egressFate n half p env c r.1 (cut.map (fun k => k + r.1.out.length - (readBytes c).length)) s

/-- The head copy of the queue a scheduler took. A fault met on the way may fence what holds the copy, which then is gone. -/
def dequeue (n half p : Nat) (env : TxEnv) (c : Copy) (s : Chip) : Chip :=
  let s := headerDefect env.header s
  if !isQueued s c then s
  else match dequeueStop n c s with
    | some (i, reason) => startDiscard i reason c (takeCopy c (countStop n c reason s))
    | none =>
      let r := readCells c env.cell s
      let c := r.1
      let s := r.2.2
      if !isQueued s c then s
      else match r.2.1 with
        | none => egressRun n half p env c none s
        | some k =>
          if k < 512 then dropCopy (.yard c.yard) dropCellCrc c (bump (.yard c.yard) 0x012C 1 (takeCopy c s))
          else egressRun n half p env c (some k) s

/-! Transmit opportunities -/

/-- Fills the buckets of a port's queues and counts their stalls before the scheduler looks at them. -/
def prepareQueues (qs : List Nat) (s : Chip) : Chip := qs.foldl (fun s q => countStall q (fillBuckets q s)) s

/-- A port has a transmit opportunity (R298). A Quiet or waking port is left to its wake. -/
def transmitPort (p : Nat) (env : TxEnv) (s : Chip) : Chip :=
  match portOf s p, servingLine s (platformOf p) with
  | some v, some n =>
    let i := Isl.eline n
    if dead s || !isOn s i || isFenced s i || v.st = .quiet || v.st = .waking || !hasWindow s p then s
    else match usableHalf s (env.half % 2) with
      | none => s
      | some half =>
        let r := schedule p (prepareQueues ((span 0 20).map (queueId p)) s)
        match r.1 with
        | none => r.2
        | some q => match headReady r.2 q with
          | none => r.2
          | some c => dequeue n half p env c (modPkt (fun k => { k with sidingSlots := smod 0 k.sidingSlots n (· - 1) }) r.2)
  | _, _ => s

/-- A frame enters Siding `n` (R223, R227): it needs no bytes of its cells any longer, and its latency is sampled (R419). -/
def enterSiding (n : Nat) (c : Copy) (s : Chip) : Chip :=
  let h := shareOf s c.yard c.fid
  let f : RxFrame :=
    { fid := c.fid, line := n, bytes := c.bytes, bad := 0, m := { c.m with epoch := countEpoch s c.direct c.m.epoch }, wb := ingressPart c.wb
      req := (match h with | none => 4098 | some h => h.req), group := 0, cells := (match h with | none => cellsOf c.bytes.length | some h => h.c)
      siding := true, host := c.host }
  let s := monSample 0 c.queue (latencyNs (runFine s) c.wb.enqRun) s
  let s := modPkt (fun k => { k with sidings := k.sidings ++ [f] }) (releaseCopy c s)
  chargeQueue c.queue c.bytes.length s

/-- The head copy of a Siding queue passes its egress Line (R220, R223, R286). -/
def dequeueSiding (n : Nat) (env : TxEnv) (c : Copy) (s : Chip) : Chip :=
  let s := headerDefect env.header s
  if !isQueued s c then s
  else match dequeueStop n c s with
    | some (i, reason) => startDiscard i reason c (takeCopy c (countStop n c reason s))
    | none =>
      let r := readCells c env.cell s
      let c := r.1
      let s := r.2.2
      if !isQueued s c then s
      else
        let s := takeCopy c s
        if r.2.1.isSome then dropCopy (.yard c.yard) dropCellCrc c s
        else
          let pr := promote n c s
          if isFenced pr.2 (.eline n) || isFenced pr.2 (.iline n) then dropCopy (.eline n) dropFenced pr.1 pr.2
          else enterSiding n pr.1 pr.2

/-- Every port of the Platform a Line serves has a copy it could send (R298, R300). -/
def portsReady (s : Chip) (n : Nat) : Bool :=
  match servedBy s n with
  | none => false
  | some k =>
    let ps := portsOn s k
    ps ≠ [] && ps.all (fun p => portUp s p && hasWindow s p &&
      ((span 0 20).map (queueId p)).any (fun q => (headReady s q).isSome && !queuePaused s q && maxAllows s q))

/-- The pseudo-port of Siding `n` has a transmit opportunity (R300). Beside ports that all have copies ready it may take a slot once 15
have gone to them since its last, and then has it (log 165). -/
def transmitSiding (n : Nat) (env : TxEnv) (s : Chip) : Chip :=
  let i := Isl.eline n
  let q := 10240 + n
  if dead s || !isOn s i || isFenced s i || !sidingWindow s n || (usableHalf s (env.half % 2)).isNone then s
  else
    let s := prepareQueues [q] s
    match headReady s q with
    | none => s
    | some c =>
      if !maxAllows s q || (portsReady s n && sget 0 s.pkt.sidingSlots n ≠ 0) then s
      else dequeueSiding n env c (modPkt (fun k => { k with sidingSlots := sput 0 k.sidingSlots n 15 }) s)

def execTransmitOpportunity (sel : TxSel) (env : TxEnv) (s : State) : Host.Outcome State Fault Refusal :=
  match sel with
  | .port p => onUnit (decide (p < 512)) s fun s => settle (transmitPort p env s)
  | .siding n => onUnit (decide (n < 36)) s fun s => settle (transmitSiding n env s)

/-! The end of a transmission -/

/-- The bytes of a copy on the wire: a stomped one under link security does not complete its ICV (R314). -/
def stompBytes (t : TxCopy) : List Byte :=
  let extra := t.wire.length - t.out.length
  let secured := decide (t.wire ≠ t.out)
  match t.cutAt with
  | none => if secured then t.wire.take (t.wire.length - 16) else t.wire
  | some k => t.wire.take (k + (if secured then extra - 16 else 0))

/-- The timestamp of a descriptor's completion (R121). -/
def hostTs (h : Option (Nat × Nat × Bool)) (ts : Nat) : Nat := match h with | some (_, _, true) => ts | _ => 0

/-- The last byte of a copy has been sent (R298, R314, R411). -/
def endCopy (p : Nat) (t : TxCopy) (s : Chip) : Chip :=
  let c := t.copy
  let i := Isl.eline t.line
  let stomped := t.stomp || copyBad s c ≠ 0
  let s := modPkt (fun k => { k with tx := k.tx.filter (fun x => ¬ x.copy.cid = c.cid) }) s
  let wb := { c.wb with pass := c.m.pass, egTs := t.egTs }
  if stomped then
    let s := emit (.frame p (stompBytes t) true) s
    let s := bump (.platform (platformOf p)) (0x1000 + 0x40 * laneIndex p + 0x2C) 1 s
    let s := modPkt (fun k => { k with staged := k.staged.filter (fun g => g.complete || ¬ g.source = c.cid) }) s
    let s := finishWaybill i { wb with dropReason := dropStomped, dropUnit := some i.code, fate := 3 } s
    let s := if copyWritten s c then releaseCopy c s else modPkt (fun k => { k with discards := k.discards ++ [{ copy := c }] }) s
    chargeQueue c.queue (stompBytes t).length (hostOutcome c.host .ok (hostTs c.host t.egTs) s)
  else
    let s := emit (.frame p t.wire false) s
    let s := pmcCount (.platform (platformOf p)) 0x22 (laneIndex p) s
    let s := monSample 0 c.queue (latencyNs t.egRun c.wb.enqRun) s
    let s := monSample 1 p c.wb.residence s
    let s := finishWaybill i { wb with fate := 1 } s
    chargeQueue c.queue t.out.length (hostOutcome c.host .ok (hostTs c.host t.egTs) (endMirrors c.cid (releaseCopy c s)))

/-- The copy a port is sending ends, once its frame is written, or at its cut (R314): the cells left are walked as they come (R275). -/
def transmitEnd (p : Nat) (s : Chip) : Chip :=
  if dead s then s
  else match s.pkt.tx.find? (fun t => t.copy.port = p && t.copy.kind ≠ 2) with
    | none => s
    | some t => if copyWritten s t.copy || t.cutAt.isSome then settle (endCopy p t s) else s

def execTransmitComplete (port : Nat) (s : State) : Host.Outcome State Fault Refusal :=
  onUnit (decide (port < 512)) s fun s => transmitEnd port s

/-! Mirrors, discards, Sidings and host copies -/

/-- The mirror engine writes the next complete copy of a half's buffer into its Yard (R309). -/
def mirrorWrite (half : Nat) (d : CellDefect) (s : Chip) : Chip :=
  let i := Isl.jn half
  if dead s || !isOn s i || isFenced s i then s
  else match s.pkt.staged.find? (fun g => g.half = half && g.complete) with
    | none => s
    | some g =>
      let s := match d with | none => s | some (_, r) => cellFault g.yard r s
      if !s.pkt.staged.any (fun x => x.sid = g.sid) then s
      else
        let s := modPkt (fun k => { k with staged := k.staged.filter (fun x => ¬ x.sid = g.sid) }) s
        match d with
        | some (_, .bad) => dropWaybill (.yard g.yard) dropCellCrc g.wb s
        | _ =>
          if (portOf s g.port).isNone then bump i 0x0104 1 s
          else
            let f : JnFrame :=
              { fid := s.pkt.nextId, half := half, line := 0, bytes := g.bytes, bad := 0, m := g.m, wb := g.wb, req := 4097, group := 0
                cells := cellsOf g.bytes.length, first := false, primary := false, mirrors := [], hostCopy := none }
            let s := modPkt (fun k => { k with nextId := k.nextId + 1 }) s
            (yardDecide (queueYard s g.queue) f [{ queue := g.queue, port := g.port, kind := 1 }] s).2

def execEgressMirrorWrite (half : Nat) (d : CellDefect) (s : State) : Host.Outcome State Fault Refusal :=
  onUnit (decide (half < 2)) s fun s => settle (mirrorWrite half d s)

/-- The walk of a discarded copy over its cells, once they are written (R275). -/
def discardWalk (cid : Nat) (s : Chip) : Chip :=
  if dead s then s
  else match s.pkt.discards.find? (fun d => d.copy.cid = cid) with
    | none => s
    | some d =>
      if copyWritten s d.copy then
        settle (pruneSegs (releaseCopy d.copy (modPkt (fun k => { k with discards := k.discards.filter (fun x => ¬ x.copy.cid = cid) }) s)))
      else s

def execCopyDiscardWalk (cid : Nat) (s : State) : Host.Outcome State Fault Refusal := onChip s fun s => discardWalk cid s

/-- The first frame of a Siding re-enters its ingress Line (R223, R226). -/
def reenter (n : Nat) (s : Chip) : Chip :=
  let i := Isl.iline n
  if dead s || !isOn s i || isFenced s i then s
  else match s.pkt.sidings.find? (fun f => f.line = n) with
    | none => s
    | some f => modPkt (fun k => { k with sidings := k.sidings.filter (fun x => ¬ x.fid = f.fid), rx := k.rx ++ [f] }) s

def execSidingReentry (line : Nat) (s : State) : Host.Outcome State Fault Refusal :=
  onUnit (decide (line < 36)) s fun s => settle (reenter line s)

/-- The first host copy for a queue is handed to it (R123, R303, R411). -/
def hostDelivery (q : Nat) (s : Chip) : Chip :=
  if dead s then s
  else match s.pkt.hostCopies.find? (fun f => match f.hostCopy with | none => false | some h => h.1 = q) with
    | none => s
    | some f =>
      let s := modPkt (fun k => { k with hostCopies := k.hostCopies.filter (fun x => ¬ x.fid = f.fid || ¬ x.hostCopy = f.hostCopy) }) s
      let reason := match f.hostCopy with | none => 0 | some h => h.2
      let wb := { f.wb with trapReason := reason, wflags := setFlags f.wb.wflags 64, pass := f.m.pass }
      let done := { wb with fate := 4 }
      let rx : HostRx :=
        { inPort := f.m.inPort, reason := reason, ts := f.m.inTs, bytes := f.bytes
          waybill := waybillBytes { done with latClass := 0xFF, residence := 0, egTs := 0 } }
      let r := deliver q rx s
      if r.1 then finishWaybill .pc done r.2 else dropWaybill .pc dropHostQueue wb r.2

def execToHostDelivery (q : Nat) (s : State) : Host.Outcome State Fault Refusal :=
  onUnit (decide (q < 16)) s fun s => settle (hostDelivery q s)

end Sys2Proof.Machine
end

