-- ==== Sys2Proof/Machine/Spill.lean ====
section
/-!
DEFINITION. Spilling (R324 to R338): the address map, the writing and acceptance of segments, their prefetch and return, and the
admission of spill return requests (R284).
-/

namespace Sys2Proof.Machine

/-! The address map (R324 to R328) -/

/-- A spill address in a map over `acts`: channel of the Quarry and channel byte address (R325). -/
def spillAddr (acts : List Nat) (grain a : Nat) : Nat × Nat :=
  let g := 2 ^ grain
  let n := max 1 acts.length
  let u := a / g
  (nth 0 acts (u % n), u / n * g + a % g)

/-- Where cell `k` of a slot lies. -/
def cellAddr (acts : List Nat) (grain slot k : Nat) : Nat × Nat := spillAddr acts grain (8192 * slot + 256 * k)

/-- The primary header copy of a slot, and its mirror copy unless the map has one channel (R326). `cap` is the capacity of a channel. -/
def primaryHeader (acts : List Nat) (grain cap slot : Nat) : Nat × Nat :=
  let a := cellAddr acts grain slot 0
  (a.1, 15 * cap / 16 + 256 * (a.2 / 8192))
def mirrorHeader (acts : List Nat) (grain cap slot : Nat) : Option (Nat × Nat) :=
  if acts.length < 2 then none
  else
    let a := spillAddr acts grain (8192 * slot)
    let j := 8192 * slot / 2 ^ grain % acts.length
    some (nth 0 acts ((j + 1) % acts.length), 15 * cap / 16 + cap / 32 + 256 * (a.2 / 8192))

/-- The header copies of a slot. -/
def headerCopies (v : QuarrySt) (acts : List Nat) (slot : Nat) : List (Nat × Nat) :=
  primaryHeader acts v.grain v.capacity slot :: (mirrorHeader acts v.grain v.capacity slot).toList

/-- The accesses that read a segment, with the mirror header where the primary lies in a fenced channel, and those that write it
(R335, R336). -/
def readTx (v : QuarrySt) (acts : List Nat) (slot : Nat) : List (Nat × Nat) :=
  (span 0 32).map (cellAddr acts v.grain slot) ++ ((headerCopies v acts slot).filter (fun a => !v.fenced.contains a.1)).take 1
def writeTx (v : QuarrySt) (acts : List Nat) (slot : Nat) : List (Nat × Nat) :=
  (span 0 32).map (cellAddr acts v.grain slot) ++ headerCopies v acts slot

/-- DRAM address of a byte of Quarry `q` (R328). -/
def dramAddr (q : Nat) (a : Nat × Nat) : Nat := (4 * q + a.1) * 2 ^ 31 + a.2

/-- Row bits of a density in Gbit per rank (R327). -/
def rowBits (density : Nat) : Nat := if density = 4 then 15 else if density = 8 then 16 else 17

/-- Bank (by 8 × rank + bank) and row of a channel byte address (R327). -/
def dramCell (v : QuarrySt) (b : Nat) : Nat × Nat :=
  let r := rowBits v.density
  let bank := if v.bankXor then Nat.xor (bits b 11 3) (bits b 14 3) else bits b 11 3
  ((if v.ranks = 2 then 8 * bits b (14 + r) 1 else 0) + bank, bits b 14 r)

/-! The channel schedulers (R336 to R338) -/

/-- A transaction finds its row open in its bank. -/
def rowHit (v : QuarrySt) (h : ChanSt) (t : DramTx) : Bool :=
  let x := dramCell v t.addr
  decide (sget none h.openRow x.1 = some x.2)

/-- The transaction a channel issues next (R337): one bypassed 64 times, else the oldest whose row is open, else the oldest. -/
def nextTx (v : QuarrySt) (h : ChanSt) : Option DramTx :=
  match h.queue.find? (fun t => decide (64 ≤ t.bypassed)) with
  | some t => some t
  | none => match h.queue.find? (rowHit v h) with
    | some t => some t
    | none => h.queue.head?

/-- The queue without a transaction that is issued: those older have been bypassed once more (R337). -/
def issued (t : DramTx) : List DramTx → List DramTx
  | [] => []
  | x :: l => if x = t then l else { x with bypassed := x.bypassed + 1 } :: issued t l

/-- One access of a channel: its events, and the history counter and row of its bank. While a queued transaction needs the bank its row
stays open; else the counter decides (R338, R426). -/
def access (c : Nat) (t : DramTx) (s : Chip) : Chip :=
  let q := c / 4
  let v := quarryOf s q
  let x := dramCell v t.addr
  let bank := x.1
  let row := x.2
  let h := chanOf s c
  let s := pmcCount (.quarry q) 0x50 (c % 4) s
  let s := if rowHit v h t then pmcCount (.quarry q) 0x51 (c % 4) s else s
  let n := sget 2 h.history bank
  let n := if sget none h.lastRow bank = some row then min 3 (n + 1) else n - 1
  let rest := issued t h.queue
  let stays := decide (2 ≤ n) || rest.any (fun u => decide ((dramCell v u.addr).1 = bank))
  let s := modQuarry q (fun v => { v with busyAt := runNs s }) s
  modChan c (fun h => { h with
    queue := rest
    history := sput 2 h.history bank n
    lastRow := sput none h.lastRow bank (some row)
    rowAt := sput 0 h.rowAt bank (runNs s)
    openRow := sput none h.openRow bank (if stays then some row else none) }) s

/-- A channel can issue: it is in use, not in self-refresh and not being trained (R340, R343). -/
def chanOpen (s : Chip) (c : Nat) : Bool :=
  let v := quarryOf s (c / 4)
  v.enabled && v.active.contains (c % 4) && !v.selfRefresh && !(chanOf s c).retraining

/-- A command opportunity of a channel (R337). -/
def issueTx (c : Nat) (s : Chip) : Chip :=
  if !chanOpen s c then s
  else match nextTx (quarryOf s (c / 4)) (chanOf s c) with | none => s | some t => access c t s

/-- A channel issues until the reads of a segment have been, at most `n` times. -/
def issueReads (c id : Nat) : Nat → Chip → Chip
  | 0, s => s
  | n + 1, s => if (chanOf s c).queue.any (fun t => t.seg = id && !t.write) then issueReads c id n (issueTx c s) else s

/-- The channels of a Quarry issue until the reads of a segment have been. -/
def readAll (y id : Nat) (s : Chip) : Chip := (span (4 * y) 4).foldl (fun s c => issueReads c id (chanOf s c).queue.length s) s

/-- Every channel with transactions has a command opportunity. -/
def tickChannels (s : Chip) : Chip :=
  if dead s then s else (s.pkt.chans.filter (fun x => x.2.queue ≠ [])).foldl (fun s x => issueTx x.1 s) s

/-- Transactions of a segment join the queues of their channels. -/
def enqueueTx (q id : Nat) (write : Bool) (l : List (Nat × Nat)) (s : Chip) : Chip :=
  let s := modQuarry q (fun v => { v with busyAt := runNs s }) s
  l.foldl (fun s a => modChan (4 * q + a.1) (fun h => { h with queue := h.queue ++ [{ seg := id, write := write, addr := a.2 }] }) s) s

/-- The accesses that a channel's queue does not hold as writes: those it holds are served from the Quarry's buffer (R331). -/
def unheldReads (s : Chip) (q : Nat) (l : List (Nat × Nat)) : List (Nat × Nat) :=
  l.filter (fun a => !(chanOf s (4 * q + a.1)).queue.any (fun t => t.write && t.addr = a.2))

/-- Each channel has room for accesses: 512 in flight (R336). -/
def txRoom (s : Chip) (q : Nat) (l : List (Nat × Nat)) : Bool :=
  (span 0 4).all (fun k => decide ((chanOf s (4 * q + k)).queue.length + (l.filter (fun a => a.1 = k)).length ≤ 512))

/-! Segments of a queue -/

/-- The segments of a queue, oldest first. -/
def segsOf (s : Chip) (q : Nat) : List Seg := (quarryOf s (queueYard s q)).segs.filter (fun g => g.queue = q)

/-- The tail: cells of the spill stream that are on chip and in no segment returned, as copy and cell index (R330). -/
def tailCells (s : Chip) (q : Nat) : List (Nat × Nat) :=
  ((queueOf s q).map (fun c => if c.stream then (placesWhere (fun p => p = .shared) 0 c.places).map (fun i => (c.cid, i)) else [])).flatten

/-- Cells of the head part (R330). -/
def headCells (s : Chip) (q : Nat) : Nat := onChipOf s q - (tailCells s q).length

/-- A cell of a queue's copy is written: a frame's last cell with the command LAST_CELL_WRITTEN, the others before it (log 168). -/
def cellWritten (s : Chip) (q : Nat) (x : Nat × Nat) : Bool :=
  ((queueOf s q).filter (fun c => c.cid = x.1)).all (fun c => copyWritten s c || decide (x.2 + 1 < c.places.length))

/-- The next 32 cells of the stream, if there are as many and all are written (R330). -/
def nextCells (s : Chip) (q : Nat) : Option (List (Nat × Nat)) :=
  let busy := ((segsOf s q).filter (fun g => g.stage = 0)).map (fun g => g.cells)
  let l := ((tailCells s q).filter (fun x => !busy.flatten.contains x)).take 32
  if l.length = 32 && l.all (cellWritten s q) then some l else none

/-- The next free slot after the last one allocated (R329). -/
def freeSlot (v : QuarrySt) : Option Nat :=
  let n := slotsTotal v
  ((span (v.lastSlot + 1) (v.segs.length + 1)).map (fun k => k % max 1 n)).find? (fun k => k < n && !v.segs.any (fun g => g.slot = k))

/-- The queue's copy with a number. -/
def copyOf (s : Chip) (q cid : Nat) : Option Copy := (queueOf s q).find? (fun c => c.cid = cid)

/-- The header without NEXT and the 256 bytes of one cell of a copy, as the Yard holds them (R271, R272). -/
def cellData (s : Chip) (q : Nat) (x : Nat × Nat) : SegCell × List Byte :=
  match copyOf s q x.1 with
  | none => ({}, [])
  | some c => match shareOf s c.yard c.fid with
    | none => ({}, [])
    | some h => match h.cells[x.2]? with
      | none => ({}, [])
      | some e => ({ refcnt := e.refcnt, last := e.last, bad := if x.2 = 0 then copyBad s c else 0, len := e.len, crc := e.crc },
          slice (h.bytes ++ h.pad) (256 * x.2) 256)

/-- One data unit of 256 bytes encrypted or decrypted under its DRAM address (R328, R369). -/
def unitCrypt (enc : Bool) (key : List Byte) (addr : Nat) (bs : List Byte) : List Byte :=
  ofNats (xts enc (toNats key) (bytesLE 16 (addr / 256)) (toNats (padTo 256 0 bs)))

/-- The bits of R272 of a cell header without NEXT. -/
def SegCell.bits (c : SegCell) : Nat := pack [(32, 12, c.refcnt), (31, 1, b2n c.last), (28, 3, c.bad), (16, 8, c.len), (0, 16, c.crc)]

/-- The 256 bytes of a segment header (R326): its CRC is computed as R286 states, over the header with the CRC's own bits 0 (log 93). -/
def segHeaderBytes (cells : List SegCell) (next : Nat) : List Byte :=
  let image (crc : BitVec 16) : List Byte := leBytes 256 (Config.segHeaderImage (cells.map SegCell.bits) next crc).toNat
  image (crc16 (image 0))

/-- BAD 3 goes into the first cell of the frame that owns a cell, wherever that first cell stands (R286). -/
def markBad (q cid : Nat) (s : Chip) : Chip :=
  match copyOf s q cid with
  | none => s
  | some c =>
    let s := keepCopy { c with ownBad := 3 } s
    if nth .done c.places 0 = .shared then
      match shareOf s c.yard c.fid with
      | none => s
      | some h => setShare c.yard c.fid { h with bad := 3 } s
    else s

/-- A cell CRC mismatch met while a segment's cells are read (R286, R287). -/
def segDefect (q y : Nat) (cells : List (Nat × Nat)) (d : CellDefect) (s : Chip) : Chip :=
  match d with
  | none => s
  | some (k, rep) =>
    match cells[k]? with
    | none => s
    | some x =>
      match rep with
      | .clean => cellFault y .clean s
      | .bad =>
        let s := match copyOf s q x.1 with | none => s | some c => (retireCell x.2 c s).2
        cellFault y .bad (markBad q x.1 s)

/-- A segment that finds no slot is counted once (R332). -/
def countNoSlot (q y : Nat) (x : Nat × Nat) (s : Chip) : Chip :=
  let tag := (q, x.1, x.2)
  if (quarryOf s y).noSlot.contains tag then s
  else bump (.quarry y) 0x012C 1 (modQuarry y (fun v => { v with noSlot := v.noSlot ++ [tag] }) s)

/-- The Quarry of a queue writes segments: spill is enabled, nothing stops it (R332, R344, R345, R348), and it is not in self-refresh
(R340). -/
def spillOpen (s : Chip) (q : Nat) : Bool :=
  let v := quarryOf s (queueYard s q)
  (queueSt s q).spillMode && spillReady s q && v.disabling = [] && !v.remap && !v.selfRefresh && v.active ≠ []

/-- The slot of a queue's newest segment is linked to the next one (R326). -/
def linkNext (q slot : Nat) (l : List Seg) : List Seg :=
  l.map (fun g => if g.queue = q && g.next.isNone then { g with next := some slot } else g)

/-- Puts a segment of the named cells into a slot (R331): its cells and both header copies, encrypted. The link to the next segment, which
is not yet allocated, goes out as a free value (log 93). -/
def putSegment (q y slot k : Nat) (key : List Byte) (cells : List (Nat × Nat)) (s : Chip) : Chip :=
  let v := quarryOf s y
  let acts := v.mapActs
  let data := cells.map (cellData s q)
  let at' (i : Nat) : Nat × Nat := cellAddr acts v.grain slot i
  let units := (data.zip (span 0 32)).map (fun x => unitCrypt true key (dramAddr y (at' x.2)) x.1.2)
  let head := segHeaderBytes (data.map (fun d => d.1)) ((freeNext s).toNat % 2 ^ 20)
  let heads := (headerCopies v acts slot).map (fun a => unitCrypt true key (dramAddr y a) head)
  let id := s.pkt.nextId
  let g : Seg :=
    { id := id, slot := slot, queue := q, cells := cells, stage := 0, acts := acts, key := k
      chans := ((span 0 32).map (fun i => (at' i).1)).foldl nadd []
      hdrs := data.map (fun d => d.1), units := units }
  let s := emit (.segment y slot (units.flatten ++ heads.flatten)) (modPkt (fun p => { p with nextId := p.nextId + 1 }) (freeTake s))
  let s := modQueueSt q (fun v => { v with spilledOnce := true }) (bump (.quarry y) 0x0120 1 s)
  enqueueTx y id true (writeTx v acts slot) (modQuarry y (fun v => { v with segs := linkNext q slot v.segs ++ [g], lastSlot := slot }) s)

/-- A queue's next segment is written to its Quarry, or stays on chip (R330 to R332). -/
def writeSegment (q : Nat) (d : CellDefect) (s : Chip) : Chip :=
  let y := queueYard s q
  let v := quarryOf s y
  if dead s || !spillOpen s q then s
  else match nextCells s q, s.cipher.spillActive with
    | some cells, some k =>
      if spillWord s y q 8 < 32 * (segsOf s q).length + 32 then s
      else match freeSlot v with
        | none => countNoSlot q y (cells.headD (0, 0)) s
        | some slot =>
          if !txRoom s y (writeTx v v.mapActs slot) then s
          else match sget none s.cipher.spill k with
            | none => s
            | some key => putSegment q y slot k key cells (segDefect q y cells d s)
    | _, _ => s

def execSegmentWrite (queue : Nat) (d : CellDefect) (s : State) : Host.Outcome State Fault Refusal :=
  onUnit (decide (queue < 10276)) s fun s => if 10240 ≤ queue then s else settle (writeSegment queue d s)

/-- The Quarry that holds a segment, and the segment. -/
def segWhere (s : Chip) (id : Nat) : Option (Nat × Seg) :=
  (span 0 8).findSome? (fun y => ((quarryOf s y).segs.find? (fun g => g.id = id)).map (fun g => (y, g)))

/-- Changes a segment. -/
def modSeg (y id : Nat) (f : Seg → Seg) (s : Chip) : Chip :=
  modQuarry y (fun v => { v with segs := v.segs.map (fun g => if g.id = id then f g else g) }) s

/-- A copy hands the cells of a segment over to the Quarry: its references on chip are released (R331, R283). -/
def handOver (g : Seg) (c : Copy) (s : Chip) : Chip :=
  let mine := (g.cells.filter (fun x => x.1 = c.cid)).map (fun x => x.2)
  let idxs := mine.filter (fun i => nth .done c.places i = .shared)
  if idxs = [] then s
  else
    let c := { c with places := idxs.foldl (fun ps i => setNth ps i (.seg g.id)) c.places, spilled := true, ownBad := copyBad s c }
    decShare c.yard c.fid idxs (keepCopy c s)

/-- The writes of a segment are held in the Quarry (R331). -/
def acceptSegment (id : Nat) (s : Chip) : Chip :=
  match segWhere s id with
  | none => s
  | some (y, g) =>
    if g.stage ≠ 0 || dead s then s
    else
      let s := modSeg y id (fun g => { g with stage := 1 }) s
      pruneSegs ((queueOf s g.queue).foldl (fun s c => handOver g c s) s)

def execSegmentAccepted (seg : Nat) (s : State) : Host.Outcome State Fault Refusal :=
  onChip s fun s => settle (acceptSegment seg s)

/-! Prefetch and return (R333 to R335) -/

/-- A Quarry that can read segments now. -/
def readOpen (v : QuarrySt) : Bool := v.enabled && !v.selfRefresh && v.oscDue = []

/-- The oldest segment not yet requested is requested (R333), unless a returned one waits for its admission. -/
def prefetch (q : Nat) (s : Chip) : Chip :=
  let y := queueYard s q
  let v := quarryOf s y
  let segs := segsOf s q
  let flying := (segs.filter (fun g => 2 ≤ g.stage)).length
  match segs.find? (fun g => g.stage < 2) with
  | none => s
  | some g =>
    let reads := unheldReads s y (readTx v g.acts g.slot)
    if dead s || isFenced s (.quarry y) || !readOpen v || g.stage = 0 || 4 ≤ flying || spillWord s y q 4 < headCells s q + 32 * flying ||
        (segs.head?.any (fun g => g.stage = 3)) || !txRoom s y reads then s
    else enqueueTx y g.id false reads (modSeg y g.id (fun g => { g with stage := 2 }) s)

def execPrefetchRequest (queue : Nat) (s : State) : Host.Outcome State Fault Refusal :=
  onUnit (decide (queue < 10276)) s fun s => if 10240 ≤ queue then s else settle (prefetch queue s)

/-- The header of a returned segment (R335): whether it can be used, and the state. -/
def segHeader (y : Nat) (g : Seg) (env : ReturnEnv) (s : Chip) : Bool × Chip :=
  let v := quarryOf s y
  let p := (primaryHeader g.acts v.grain v.capacity g.slot).1
  let m := mirrorHeader g.acts v.grain v.capacity g.slot
  let mirrorGood := match m with | none => false | some a => !env.mirrorBad && !v.fenced.contains a.1
  if !env.primaryBad && !v.fenced.contains p then (true, s)
  else if mirrorGood then (true, if env.primaryBad then raise (.quarry y) (0x20 + p) clsMemory 1 s else s)
  else (false, fenceIsland (.quarry y) 1 (raise (.quarry y) 0x28 clsMemory 3 s))

/-- A channel with four cells bad on repeat within 1 ms starts a full retraining (R335). -/
def badCell (y k : Nat) (s : Chip) : Chip :=
  let times := ((chanOf s (4 * y + k)).badTimes.filter (fun t => decide (elapsed s t < 1000000))) ++ [runNs s]
  modChan (4 * y + k) (fun c => if 4 ≤ times.length then { c with badTimes := [], retraining := c.retraining || c.trained }
    else { c with badTimes := times }) s

/-- One cell of a returned segment whose CRC did not match (R335). -/
def returnCell (y : Nat) (g : Seg) (x : Nat × Repeat) (s : Chip) : Chip :=
  if 32 ≤ x.1 then s
  else
    let k := (cellAddr g.acts (quarryOf s y).grain g.slot x.1).1
    match x.2 with
    | .clean => raise (.quarry y) (0x18 + k) clsMemory 1 s
    | .bad =>
      let s := modSeg y g.id (fun g => { g with badCells := g.badCells ++ [x.1] }) s
      raise (.quarry y) (0x1C + k) clsMemory 2 (badCell y k s)

/-- The bytes of cell `k` of a copy replaced by those that came back. -/
def putCell (bs : List Byte) (k : Nat) (cell : List Byte) : List Byte := bs.take (256 * k) ++ cell ++ bs.drop (256 * k + cell.length)

/-- The data of cell `i` of a segment as its Quarry decrypts it, as many bytes as its header says (R335). -/
def unitPlain (y : Nat) (g : Seg) (s : Chip) (i : Nat) : List Byte :=
  let h := nth {} g.hdrs i
  let key := (sget none s.cipher.spill g.key).getD []
  (unitCrypt false key (dramAddr y (cellAddr g.acts (quarryOf s y).grain g.slot i)) (nth [] g.units i)).take (if h.len = 0 then 256 else h.len)

/-- Cell `i` of an admitted segment comes back to a copy as a cell of its own with index `idx`. -/
def backCell (y : Nat) (g : Seg) (s : Chip) (c : Copy) (i idx : Nat) : Copy :=
  let x := nth (0, 0) g.cells i
  let h := nth {} g.hdrs i
  if x.1 = c.cid && nth .done c.places x.2 = .seg g.id then
    { c with places := setNth c.places x.2 (.own h.len h.crc idx), bytes := putCell c.bytes x.2 (unitPlain y g s i) }
  else c

/-- The cells of an admitted segment join the head part of their queue, each a cell of its own (R333). -/
def joinHead (g : Seg) (s : Chip) : Chip :=
  let y := queueYard s g.queue
  let idxs := takeIdxs s.free 32 (usedCells s y)
  let back (c : Copy) : Copy :=
    let bad := g.badCells.any (fun k => (nth (0, 0) g.cells k).1 = c.cid)
    let c := if bad then { c with ownBad := 3, quarryBad := true } else c
    (idxs.zip (span 0 32)).foldl (fun c x => backCell y g s c x.2 x.1) c
  setQueue g.queue ((queueOf s g.queue).map back) { s with free := s.free + 32 }

/-- Cells of a segment that some queued copy still waits for. -/
def liveCells (s : Chip) (g : Seg) : Nat :=
  (g.cells.filter (fun x => match copyOf s g.queue x.1 with | none => false | some c => nth .done c.places x.2 = .seg g.id)).length

/-- Returned segments of a queue are admitted in queue order (R284, R333). The first one that cannot be taken waits. -/
def admitReturns : Nat → Nat → Chip → Chip
  | 0, _, s => s
  | n + 1, q, s =>
    match segsOf s q with
    | [] => s
    | g :: _ =>
      let y := queueYard s q
      if g.stage ≠ 3 then s
      else match admission s y 4099 32 0 1 with
        | .inl _ => s
        | .inr _ =>
          let s := joinHead g (grant y 4099 (liveCells s g) false s)
          admitReturns n q (pruneTx (modQuarry y (fun v => { v with segs := v.segs.filter (fun h => ¬ h.id = g.id) }) s))

/-- A requested segment returns: the last of its reads has been issued by then, its header is checked, and it becomes a spill return
request (R335). -/
def returnSegment (id : Nat) (env : ReturnEnv) (s : Chip) : Chip :=
  match segWhere s id with
  | none => s
  | some (y, g) =>
    let v := quarryOf s y
    if dead s || g.stage ≠ 2 || !readOpen v || g.chans.any (fun k => (chanOf s (4 * y + k)).retraining) then s
    else
      let r := segHeader y g env (readAll y id s)
      if !r.1 then r.2
      else
        let s := env.cells.foldl (fun s x => returnCell y g x s) (bump (.quarry y) 0x0124 1 r.2)
        admitReturns 4 g.queue (modSeg y id (fun g => { g with stage := 3 }) s)

def execSegmentReturn (seg : Nat) (env : ReturnEnv) (s : State) : Host.Outcome State Fault Refusal :=
  onChip s fun s => settle (returnSegment seg env s)

def execSpillReturnAdmission (queue : Nat) (s : State) : Host.Outcome State Fault Refusal :=
  onUnit (decide (queue < 10276)) s fun s => if 10240 ≤ queue || dead s then s else settle (admitReturns 4 queue s)

end Sys2Proof.Machine
end

