-- ==== Sys2Proof/Machine/Dram.lean ====
section
/-!
DEFINITION. The DRAM channels (R339 to R346): refresh, self-refresh, calibration, training and the map.
-/

namespace Sys2Proof.Machine

/-- A channel in use: in the active set of its Quarry. -/
def chanActive (s : Chip) (c : Nat) : Bool := (quarryOf s (c / 4)).enabled && (quarryOf s (c / 4)).active.contains (c % 4)

/-- A channel in use that is not in self-refresh. -/
def chanAwake (s : Chip) (c : Nat) : Bool := chanActive s c && !(quarryOf s (c / 4)).selfRefresh

/-! Refresh (R338, R339) -/

/-- Row hits wait in a bank: queued transactions whose row is open there. -/
def rowHits (s : Chip) (c bank : Nat) : Bool :=
  let v := quarryOf s (c / 4)
  let h := chanOf s c
  h.queue.any (fun t => decide ((dramCell v t.addr).1 = bank) && rowHit v h t)

/-- Closes rows of a channel. -/
def closeRows (c : Nat) (f : Nat → Bool) (s : Chip) : Chip :=
  modChan c (fun h => { h with openRow := h.openRow.filter (fun x => !f x.1) }) s

/-- The bank a rank refreshes next. -/
def nextBank (s : Chip) (c rank : Nat) : Nat := 8 * rank + sget 0 (chanOf s c).nextBank rank

/-- An all-bank refresh of a rank pays all that it owes (R339). -/
def refreshAll (c rank : Nat) (s : Chip) : Chip :=
  emit (.dram c 1 rank) (pmcCount (.quarry (c / 4)) 0x52 (c % 4) (closeRows c (fun b => b / 8 = rank)
    (modChan c (fun h => { h with owed := sput 0 h.owed rank 0 }) s)))

/-- A per-bank refresh of the next bank of a rank. -/
def refreshBank (c rank : Nat) (s : Chip) : Chip :=
  let bank := nextBank s c rank
  emit (.dram c 0 bank) (pmcCount (.quarry (c / 4)) 0x52 (c % 4) (closeRows c (fun b => b = bank)
    (modChan c (fun h => { h with nextBank := smod 0 h.nextBank rank (fun b => (b + 1) % 8) }) s)))

/-- A rank pays the per-bank refreshes due to it, one bank after another; while row hits wait in the next bank they stay owed (R339). -/
def payRefresh (c rank : Nat) : Nat → Chip → Chip
  | 0, s => modChan c (fun h => { h with owed := sput 0 h.owed rank 0 }) s
  | n + 1, s =>
    if rowHits s c (nextBank s c rank) then modChan c (fun h => { h with owed := sput 0 h.owed rank (n + 1) }) s
    else payRefresh c rank n (refreshBank c rank s)

/-- One more per-bank refresh falls due in a rank; when 8 are owed, an all-bank refresh comes instead (R339). -/
def refreshRank (c rank : Nat) (s : Chip) : Chip :=
  let due := sget 0 (chanOf s c).owed rank + 1
  if fieldOf s (.quarry (c / 4)) 0x0100 6 1 = 1 || (decide (8 ≤ due) && rowHits s c (nextBank s c rank)) then refreshAll c rank s
  else payRefresh c rank due s

/-- One refresh interval of a channel, in each of its ranks (R339). -/
def refresh (c : Nat) (s : Chip) : Chip :=
  if dead s || !chanAwake s c then s else (span 0 (max 1 (quarryOf s (c / 4)).ranks)).foldl (fun s r => refreshRank c r s) s

def execDramRefresh (channel : Nat) (s : State) : Host.Outcome State Fault Refusal :=
  onUnit (decide (channel < 32)) s fun s => refresh channel s

/-- MR4 of a rank is read; each reading above the operating temperature raises its fault (R339). -/
def mr4 (c rank : Nat) (high : Bool) (s : Chip) : Chip :=
  if dead s || !chanAwake s c || (quarryOf s (c / 4)).ranks ≤ rank then s
  else
    let s := emit (.dram c 6 rank) (modChan c (fun h => { h with mr4High := if high then nadd h.mr4High rank else ndel h.mr4High rank }) s)
    if high then raise (.quarry (c / 4)) 0x29 clsMemory 2 s else s

def execMr4Poll (channel rank : Nat) (high : Bool) (s : State) : Host.Outcome State Fault Refusal :=
  onUnit (decide (channel < 32) && decide (rank < 4)) s fun s => mr4 channel rank high s

/-- An open row has had no access for QY_PAGE_IDLE ns (R338). -/
def idleRow (c bank : Nat) (s : Chip) : Chip :=
  if dead s || !chanAwake s c || (sget none (chanOf s c).openRow bank).isNone ||
      elapsed s (sget 0 (chanOf s c).rowAt bank) < fieldOf s (.quarry (c / 4)) 0x0108 8 12 then s
  else emit (.dram c 2 bank) (closeRows c (fun b => b = bank) s)

def execRowIdlePrecharge (channel bank : Nat) (s : State) : Host.Outcome State Fault Refusal :=
  onUnit (decide (channel < 32) && decide (bank < 16)) s fun s => idleRow channel bank s

/-! Self-refresh (R340, R341) -/

/-- A Quarry has had nothing queued or in flight for QY_SR_IDLE µs, which is not 0, and no channel of it retrains (R340). -/
def selfRefreshDue (q : Nat) (s : Chip) : Bool :=
  let v := quarryOf s q
  let idle := fieldOf s (.quarry q) 0x0108 20 12
  idle ≠ 0 && decide (1000 * idle ≤ elapsed s v.busyAt) && !v.segs.any (fun g => g.stage = 0 || g.stage = 2) &&
    v.active.all (fun k => !(chanOf s (4 * q + k)).retraining && decide ((chanOf s (4 * q + k)).queue = []))

/-- The commit point of self-refresh. -/
def enterSelfRefresh (q : Nat) (s : Chip) : Chip :=
  let v := quarryOf s q
  if dead s || !v.enabled || v.selfRefresh || !selfRefreshDue q s then s
  else
    let s := modQuarry q (fun v => { v with selfRefresh := true, srTime := runNs s }) (bump (.quarry q) 0x0138 1 s)
    v.active.foldl (fun s k => emit (.dram (4 * q + k) 3 0) (closeRows (4 * q + k) (fun _ => true) s)) s

def execSelfRefreshEntry (quarry : Nat) (s : State) : Host.Outcome State Fault Refusal :=
  onUnit (decide (quarry < 8)) s fun s => enterSelfRefresh quarry s

/-- A request brings a Quarry out of self-refresh; after more than 100 ms every oscillator is measured before the first read. -/
def exitSelfRefresh (q : Nat) (s : Chip) : Chip :=
  let v := quarryOf s q
  if dead s || !v.selfRefresh then s
  else
    let due := if 100000000 < elapsed s v.srTime then v.active else []
    let s := modQuarry q (fun v => { v with selfRefresh := false, oscDue := due.foldl nadd v.oscDue }) s
    v.active.foldl (fun s k => emit (.dram (4 * q + k) 4 0) s) s

def execSelfRefreshExit (quarry : Nat) (s : State) : Host.Outcome State Fault Refusal :=
  onUnit (decide (quarry < 8)) s fun s => exitSelfRefresh quarry s

/-! Training in service (R343, R344) -/

def execZqCalibration (channel : Nat) (s : State) : Host.Outcome State Fault Refusal :=
  onUnit (decide (channel < 32)) s fun s => if dead s || !chanAwake s channel then s else emit (.dram channel 5 0) s

/-- A full retraining of a channel starts, or is asked for again while one runs (R343, R350). -/
def startRetrain (c : Nat) (s : Chip) : Chip := modChan c (fun h => { h with retraining := true }) s

/-- An oscillator measurement: drift of at least 1/16 UI updates the write timing; drift of at least 1/4 UI, or a failed read, starts a full
retraining (R343). Drift is in 1/64 UI. The settings of R349 stay (log 169). -/
def measureOsc (c : Nat) (drift : Option Int) (s : Chip) : Chip :=
  let s := modQuarry (c / 4) (fun v => { v with oscDue := ndel v.oscDue (c % 4) }) s
  match drift with
  | none => startRetrain c s
  | some d =>
    let s := modChan c (fun h => { h with drift := d, wrDrift := if 4 ≤ d.natAbs then d else h.wrDrift }) s
    if 16 ≤ d.natAbs then startRetrain c s else s

def execDqsOscMeasure (channel : Nat) (drift : Option Int) (s : State) : Host.Outcome State Fault Refusal :=
  onUnit (decide (channel < 32)) s fun s => if dead s || !chanAwake s channel then s else measureOsc channel drift s

/-- The settings that training found for a channel, by 18 × rank + bit. -/
def foundSettings (c : Nat) (l : List (Nat × Nat × Nat × Nat × Nat × Nat)) : Sparse DqSet :=
  (l.filter (fun x => x.1 = c)).foldl (fun m x => sput {} m (18 * x.2.1 + x.2.2.1) ⟨x.2.2.2.1, x.2.2.2.2.1, x.2.2.2.2.2⟩) []

/-- A channel found no setting: it is fenced and its S3 fault raised (R344). -/
def failChannel (q k : Nat) (s : Chip) : Chip := raise (.quarry q) (0x10 + k) clsMemory 3 (fenceChannel q k 1 s)

/-- The result of DRAM_TRAIN (R349). -/
def trainResult (s : Chip) (c rank bit' : Nat) : DWord :=
  let x := sget {} (chanOf s c).dq (18 * rank + bit')
  packD [(24, 8, x.vref), (16, 8, x.rd), (8, 8, x.wr), (0, 8, unsignedOf 8 (chanOf s c).drift)]

/-- A full retraining of a channel ends (R343, R350): its settings are replaced, or it is fenced. -/
def retrain (c : Nat) (env : DramEnv) (s : Chip) : Chip :=
  let h := chanOf s c
  if dead s || !h.retraining then s
  else if (sfind env.trained c).isNone then
    failChannel (c / 4) (c % 4) (endRetrain .trainFail .fenced c s)
  else
    let s := modChan c (fun h => { h with
      dq := foundSettings c env.settings
      wrDrift := 0
      retraining := h.next ≠ []
      rings := h.next
      next := [] }) s
    h.rings.foldl (fun s r => finishOrder r .ok (trainResult s c 0 0) s) s

def execDramRetrain (channel : Nat) (env : DramEnv) (s : State) : Host.Outcome State Fault Refusal :=
  onUnit (decide (channel < 32)) s fun s => settle (retrain channel env s)

def execMapRebuild (quarry : Nat) (s : State) : Host.Outcome State Fault Refusal :=
  onUnit (decide (quarry < 8)) s fun s => if dead s || isFenced s (.quarry quarry) then s else rebuildMap quarry s

/-! Bringing a Quarry up (R342) -/

/-- The density of a channel that trained with parts of R322, if it did. -/
def goodDensity (ranks : Nat) (env : DramEnv) (c : Nat) : Option Nat :=
  match sfind env.trained c with
  | none => none
  | some d => if (d = 4 || d = 8 || d = 16) && decide (ranks * d ≤ 16) then some d else none

/-- A channel trains with what training finds. -/
def trainChannel (c ranks : Nat) (env : DramEnv) (s : Chip) : Chip :=
  modChan c (fun _ => { trained := true, density := (goodDensity ranks env c).getD 16, dq := foundSettings c env.settings }) s

/-- Brings up a Quarry over the channels asked for that are not fenced: each that fails is fenced, the others form the active set at the
smallest density. With none trained, spill stays disabled. -/
def bringUp (q speed channels ranks grain : Nat) (xor' : Bool) (env : DramEnv) (s : Chip) : Chip :=
  let want := (span 0 4).filter (fun k => bit channels k && !(quarryOf s q).fenced.contains k)
  let good := want.filter (fun k => (goodDensity ranks env (4 * q + k)).isSome)
  let bad := want.filter (fun k => !good.contains k)
  let s := bad.foldl (fun s k => failChannel q k s) s
  if good = [] then s
  else
    let ds := good.filterMap (fun k => goodDensity ranks env (4 * q + k))
    let d := ds.foldl min 16
    let cap := ranks * d * 2 ^ 27
    let s := good.foldl (fun s k => trainChannel (4 * q + k) ranks env s) s
    let s := modQuarry q (fun v => { v with
      enabled := true
      selfRefresh := false
      ranks := ranks
      speed := speed
      density := d
      capacity := cap
      active := good
      mapActs := good
      channels := channels
      mapGen := (v.mapGen + 1) % 16
      grain := grain
      bankXor := xor'
      remap := false
      lastSlot := good.length * 15 * cap / 131072 - 1
      segs := []
      noSlot := []
      oscDue := []
      busyAt := runNs s
      resetN := true }) s
    modPkt (fun k => { k with spillCfg := sput none k.spillCfg q (some (speed, channels, ranks)) }) s

end Sys2Proof.Machine
end

