-- ==== Sys2Proof/Machine/SpillOrders.lean ====
section
/-!
DEFINITION. SPILL_SET (R348) and DRAM_TRAIN (R349).
-/

namespace Sys2Proof.Machine

/-! SPILL_SET QUARRY -/

/-- The domain of a Quarry. -/
def quarryNeeds (q : Nat) (s : Chip) : List Nat := if 7 < q then [] else offDomains s [.quarry q]

/-- Puts GRAIN_LOG2 and BANK_XOR into QY_CTRL, and commits the Quarry (R116). -/
def setCtrl (q grain : Nat) (xor' : Bool) (s : Chip) : Chip :=
  let i := Isl.quarry q
  let w := mergeW (liveW s (caddr i 0x0100)) (packW [(8, 4, grain), (7, 1, b2n xor')]) (packW [(8, 4, 15), (7, 1, 1)])
  (commitIsl i (deriveWord i 0x0100 w s)).2

/-- The result of ENABLE 1. -/
def enableResult (s : Chip) (q : Nat) : DWord := packD [(32, 20, slotsTotal (quarryOf s q)), (0, 4, maskOf (quarryOf s q).active)]

/-- ENABLE 1. -/
def spillEnable (o : SpillEnableOps) (env : DramEnv) (s : Chip) : Status × DWord × Chip :=
  let q := o.quarry
  let v := quarryOf s q
  if 7 < q then (.range, 0, s)
  else if o.channels = 0 || (o.ranks ≠ 1 && o.ranks ≠ 2) || 1 < o.speed || o.grain < 8 || 14 < o.grain then (.badOperand, 0, s)
  else if v.enabled && (o.speed ≠ v.speed || o.channels ≠ v.channels || o.ranks ≠ v.ranks) then (.busy, 0, s)
  else if s.cipher.spillActive.isNone then (.keyAbsent, 0, s)
  else if isFenced s (.quarry q) then (.fenced, 0, countFencedReq (.quarry q) s)
  else
    let s := if v.enabled then s else bringUp q o.speed o.channels o.ranks o.grain o.bankXor env s
    if !(quarryOf s q).enabled then (.trainFail, 0, settle s)
    else
      let s := settle (derivePlan (setCtrl q o.grain o.bankXor s))
      (.ok, enableResult s q, s)

def execSpillSetEnable (ring : Nat) (ops : SpillEnableOps) (env : DramEnv) (s : State) : Host.Outcome State Fault Refusal :=
  onUnit (decide (ring < 64)) s fun s => endOrder ring (.spillSetEnable ring ops {}) (quarryNeeds ops.quarry) (spillEnable ops env) s

/-- A Quarry without segments is disabled: its memory goes into reset and every allowance of its Yard is cleared. -/
def disableQuarry (q : Nat) (s : Chip) : Chip :=
  let isAllow (ca : Nat) : Bool := decide (ca / 2 ^ 32 = (Isl.quarry q).code) && decide (0x40000 ≤ ca % 2 ^ 32) && decide (ca % 16 = 8)
  let s := { s with
    live := s.live.filter (fun x => !isAllow x.1)
    staged := s.staged.filter (fun x => !isAllow x.1)
    shadow := s.shadow.filter (fun x => !isAllow x.1) }
  let s := (span (4 * q) 4).foldl (fun s c => modChan c (fun _ => {}) (endRetrain .badOperand .badOperand c s)) s
  let s := modPkt (fun k => { k with spillCfg := sput none k.spillCfg q none }) s
  let s := modQuarry q (fun v => { fenced := v.fenced, mapGen := v.mapGen, grain := v.grain, bankXor := v.bankXor }) s
  settle (derivePlan (commitIsl (.quarry q) s).2)

/-- The waiting ENABLE 0 Orders complete: the Quarry holds no segment. -/
def disableDone (q : Nat) (s : Chip) : Chip :=
  let l := (quarryOf s q).disabling
  if dead s || l = [] || (quarryOf s q).segs ≠ [] then s
  else l.foldl (fun s x => finishOrder x.1 .ok 0 s) (disableQuarry q s)

/-- ENABLE 0. TIMEOUT_MS outside 1 to 60,000 completes with `RANGE` (log 64). -/
def spillDisable (ring : Nat) (o : SpillDisableOps) (s : Chip) : Ran :=
  let q := o.quarry
  if 7 < q || o.timeoutMs = 0 || 60000 < o.timeoutMs then .done .range 0 s
  else if isFenced s (.quarry q) then .done .fenced 0 (countFencedReq (.quarry q) s)
  else if (quarryOf s q).segs = [] then .done .ok 0 (disableQuarry q s)
  else .going (modQuarry q (fun v => { v with disabling := v.disabling ++ [(ring, o.timeoutMs, runNs s)] }) s)

def execSpillSetDisable (ring : Nat) (ops : SpillDisableOps) (s : State) : Host.Outcome State Fault Refusal :=
  onUnit (decide (ring < 64)) s fun s => runOrder ring (.spillSetDisable ring ops) (quarryNeeds ops.quarry) (spillDisable ring ops) s

def execSpillDisableDone (quarry : Nat) (s : State) : Host.Outcome State Fault Refusal :=
  onUnit (decide (quarry < 8)) s fun s => disableDone quarry s

/-- TIMEOUT_MS of the oldest waiting ENABLE 0 elapses while segments remain: spilling resumes. -/
def disableTimeout (q : Nat) (s : Chip) : Chip :=
  match (quarryOf s q).disabling with
  | [] => s
  | x :: l =>
    if dead s || (quarryOf s q).segs = [] || decide (elapsed s x.2.2 < x.2.1 * 1000000) then s
    else finishOrder x.1 .timeout 0 (modQuarry q (fun v => { v with disabling := l }) s)

def execSpillDisableTimeout (quarry : Nat) (s : State) : Host.Outcome State Fault Refusal :=
  onUnit (decide (quarry < 8)) s fun s => disableTimeout quarry s

/-! SPILL_SET QUEUE -/

/-- The Basic REFILL of a port queue: 3,000 ns at the port rate, in cells rounded up to a multiple of 32. -/
def basicRefill (s : Chip) (p : Nat) : Nat := ((portRate s p * 3000 + 2047) / 2048 + 31) / 32 * 32

/-- THRESH and REFILL in force for the operands. -/
def spillMarks (o : SpillQueueOps) (s : Chip) : Nat × Nat :=
  let refill := if o.refill = 0 then basicRefill s ((queuePort o.queue).getD 0) else o.refill
  (if o.thresh = 0 then 2 * basicRefill s ((queuePort o.queue).getD 0) else o.thresh, refill)

/-- OP 1. -/
def spillQueue (o : SpillQueueOps) (s : Chip) : Status × DWord × Chip :=
  let y := queueYard s o.queue
  let top := 2 ^ 28 - 32
  let m := spillMarks o s
  if 10239 < o.queue || top < o.allow || top < o.thresh || top < o.refill then (.range, 0, s)
  else if o.allow % 32 ≠ 0 || o.thresh % 32 ≠ 0 || o.refill % 32 ≠ 0 then (.badOperand, 0, s)
  else if !queueExists s o.queue then (.notFound, 0, s)
  else if m.1 ≤ m.2 || (!(quarryOf s y).enabled && !isFenced s (.quarry y)) then (.badOperand, 0, s)
  else if isFenced s (.quarry y) then (.fenced, 0, countFencedReq (.quarry y) s)
  else
    let i := Isl.quarry y
    let off := 0x40000 + 16 * o.queue
    let put (k v : Nat) (s : Chip) : Chip := deriveWord i (off + k) (BitVec.ofNat 32 v) s
    let s := (commitIsl i (put 8 o.allow (put 4 m.2 (put 0 m.1 s)))).2
    let s := settle (derivePlan s)
    (.ok, packD [(0, 28, 32 * (segsOf s o.queue).length)], s)

def execSpillSetQueue (ring : Nat) (ops : SpillQueueOps) (s : State) : Host.Outcome State Fault Refusal :=
  onUnit (decide (ring < 64)) s fun s => endOrder ring (.spillSetQueue ring ops)
    (fun s => if 10239 < ops.queue then [] else quarryNeeds (queueYard s ops.queue) s) (spillQueue ops) s

/-! DRAM_TRAIN -/

/-- The checks of DRAM_TRAIN in the card's order. -/
def trainCheck (o : DramTrainOps) (s : Chip) : Option (Status × Chip) :=
  let q := o.channel / 4
  let v := quarryOf s q
  if 31 < o.channel || 1 < o.rank || 17 < o.dqBit || 127 < o.rd || 127 < o.wr || 50 < o.vref then some (.range, s)
  else if isFenced s (.quarry q) || v.fenced.contains (o.channel % 4) then some (.fenced, countFencedReq (.quarry q) s)
  else if !chanActive s o.channel || v.ranks ≤ o.rank then some (.badOperand, s)
  else none

/-- The domain of a channel's Quarry. -/
def trainNeeds (o : DramTrainOps) (s : Chip) : List Nat := if 31 < o.channel then [] else quarryNeeds (o.channel / 4) s

/-- RETRAIN waits for the retraining it starts, or for the one after the present one (R350). -/
def trainRetrain (ring : Nat) (o : DramTrainOps) (s : Chip) : Ran :=
  match trainCheck o s with
  | some (e, s) => .done e 0 s
  | none => .going (modChan o.channel (fun h =>
      if h.retraining then { h with next := h.next ++ [ring] } else { h with retraining := true, rings := [ring] }) s)

def execDramTrainRetrain (ring : Nat) (ops : DramTrainOps) (s : State) : Host.Outcome State Fault Refusal :=
  onUnit (decide (ring < 64)) s fun s => runOrder ring (.dramTrainRetrain ring ops) (trainNeeds ops) (trainRetrain ring ops) s

/-- OSC. -/
def trainOsc (o : DramTrainOps) (drift : Option Int) (s : Chip) : Status × DWord × Chip :=
  match trainCheck o s with
  | some (e, s) => (e, 0, s)
  | none => let s := measureOsc o.channel drift s; (.ok, trainResult s o.channel o.rank o.dqBit, s)

def execDramTrainOsc (ring : Nat) (ops : DramTrainOps) (drift : Option Int) (s : State) : Host.Outcome State Fault Refusal :=
  onUnit (decide (ring < 64)) s fun s => endOrder ring (.dramTrainOsc ring ops none) (trainNeeds ops) (trainOsc ops drift) s

/-- READ. -/
def trainRead (o : DramTrainOps) (s : Chip) : Status × DWord × Chip :=
  match trainCheck o s with
  | some (e, s) => (e, 0, s)
  | none => (.ok, trainResult s o.channel o.rank o.dqBit, s)

def execDramTrainRead (ring : Nat) (ops : DramTrainOps) (s : State) : Host.Outcome State Fault Refusal :=
  onUnit (decide (ring < 64)) s fun s => endOrder ring (.dramTrainRead ring ops) (trainNeeds ops) (trainRead ops) s

/-- SET. -/
def trainSet (o : DramTrainOps) (s : Chip) : Status × DWord × Chip :=
  match trainCheck o s with
  | some (e, s) => (e, 0, s)
  | none =>
    let s := modChan o.channel (fun h => { h with dq := sput {} h.dq (18 * o.rank + o.dqBit) ⟨o.rd, o.wr, o.vref⟩ }) s
    (.ok, trainResult s o.channel o.rank o.dqBit, s)

def execDramTrainSet (ring : Nat) (ops : DramTrainOps) (s : State) : Host.Outcome State Fault Refusal :=
  onUnit (decide (ring < 64)) s fun s => endOrder ring (.dramTrainSet ring ops) (trainNeeds ops) (trainSet ops) s

end Sys2Proof.Machine
end

