-- ==== Sys2Proof/Machine/Repair.lean ====
section
/-!
DEFINITION. Acknowledging and clearing faults, fencing by Order, repair and relief Lines (R26, R443 to R462).
-/

namespace Sys2Proof.Machine

/-! KS_ERR_CTRL and handshakes -/

/-- A write of `KS_ERR_CTRL` that no Order carries (R446). -/
def execKsErrCtrlWrite (value mask : Word) (s : State) : Host.Outcome State Fault Refusal :=
  onChip s fun s => directWrite (caddr .ks 0x0110) value mask s

/-- A neighbour does not answer within 10 µs (R26, R447): the waiting side raises 0xF2, and the Keystone fences the silent island with
cause 5 and raises 0xF3 on its behalf, recorded in the silent Cabin where that takes it. -/
def handshakeTimeout (waiting silent : Isl) (records : Bool) (s : Chip) : Chip :=
  if dead s || !isOn s waiting || !isOn s silent || isFenced s silent || waiting = silent then s
  else raiseIn records silent 0xF3 clsHandshake 3 (fenceIsland silent 5 (raise waiting 0xF2 clsHandshake 2 s))

/-- A handshake times out between two islands, given by their codes (R26). -/
def execHandshakeTimeout (waiting silent : Nat) (records : Bool) (s : State) : Host.Outcome State Fault Refusal :=
  onChip s fun s => match islOf waiting, islOf silent with
    | some w, some v => settle (handshakeTimeout w v records s)
    | _, _ => s

/-! FAULT_ACK and FAULT_CLEAR -/

/-- Changes every Cabin's record. -/
def mapCabs (f : CabSt → CabSt) (s : Chip) : Chip :=
  { s with faults := { s.faults with cabs := (s.faults.cabs.map (fun x => (x.1, f x.2))).filter (fun x => x.2 ≠ {}) } }

/-- Effect of FAULT_ACK (R443). -/
def faultAckRun (classes : Nat) (s : Chip) : Status × DWord × Chip :=
  if classes = 0 || 0x1000 ≤ classes then (.badOperand, 0, s)
  else
    let had := maskOf ((span 0 12).filter (fun c => bit classes c && (sget {} s.faults.classes c).unack))
    let s := mapCabs (fun c => { c with unacked := c.unacked.filter (fun k => !bit classes k) }) s
    let f := s.faults
    let cls := (f.classes.map (fun x => (x.1, if bit classes x.1 then { x.2 with unack := false } else x.2))).filter (fun x => x.2 ≠ {})
    (.ok, BitVec.ofNat 64 had,
      { s with faults := { f with classes := cls, firstAcked := f.firstAcked || (f.firstValid && bit classes f.firstCls) } })

/-- FAULT_ACK (R443). -/
def execFaultAck (ring classes : Nat) (s : State) : Host.Outcome State Fault Refusal :=
  onUnit (decide (ring < 64)) s fun s => endOrder ring (.faultAck ring classes) noNeeds (faultAckRun classes) s

/-- A Cabin without its record (R445): what VALID, OVERFLOW, ACKED, COUNT, MAXSEV and the class masks do not cover stays. -/
def CabSt.cleared (c : CabSt) : CabSt :=
  { c with valid := false, overflow := false, count := 0, maxSev := 0, raised := [], unacked := [], causes := [] }

/-- What follows from cleared records: class words, `KS_FIRST` and `KS_COUNT` once no record is left, `ERR_N`. -/
def afterClear (s : Chip) : Chip :=
  let s :=
    if s.faults.cabs.any (fun x => x.2.valid) then s
    else { s with faults := { s.faults with
      firstValid := false, firstOverflow := false, firstAcked := false, firstSev := 0, firstCls := 0, firstSrc := 0
      maxSev := 0, count := 0 } }
  errUpdate (classUpdate s)

/-- A valid record can be cleared, or why not. A test of the island that runs counts as its cause (R492). -/
def clearBlock (s : Chip) (i : Isl) : Option Status :=
  let c := cabOf s i
  if !c.acked then some .notAcked else if causePresent s i || bistRuns s [i] then some .causePresent else none

/-- The result of FAULT_CLEAR. -/
def clearResult (cleared cause unacked : Nat) : DWord := packD [(32, 16, cleared), (16, 16, cause), (0, 16, unacked)]

/-- Effect of FAULT_CLEAR (R445). -/
def faultClearRun (o : FaultClearOps) (s : Chip) : Status × DWord × Chip :=
  if o.all then
    if o.island ≠ 0 then (.badOperand, 0, s)
    else
      let valid := allIslands.filter (fun i => (cabOf s i).valid)
      let un := (valid.filter (fun i => clearBlock s i = some .notAcked)).length
      let cause := (valid.filter (fun i => clearBlock s i = some .causePresent)).length
      let go := valid.filter (fun i => clearBlock s i = none)
      (if 0 < un then .notAcked else if 0 < cause then .causePresent else .ok, clearResult go.length cause un,
        afterClear (go.foldl (fun s i => modCab i CabSt.cleared s) s))
  else if 0x1000 ≤ o.island then (.badOperand, 0, s)
  else match islOf o.island with
    | none => (.range, 0, s)
    | some i =>
      if !(cabOf s i).valid then (.notFound, 0, s)
      else match clearBlock s i with
        | some .notAcked => (.notAcked, clearResult 0 0 1, s)
        | some e => (e, clearResult 0 1 0, s)
        | none => (.ok, clearResult 1 0 0, afterClear (modCab i CabSt.cleared s))

/-- FAULT_CLEAR (R445). -/
def execFaultClear (ring : Nat) (ops : FaultClearOps) (s : State) : Host.Outcome State Fault Refusal :=
  onUnit (decide (ring < 64)) s fun s => endOrder ring (.faultClear ring ops) noNeeds (faultClearRun ops) s

/-! Units (R455, R456) -/

/-- A unit that can be fenced. -/
inductive FUnit where
  | island (i : Isl) | channel (q k : Nat) | engine (e : Nat)
deriving DecidableEq, Repr

/-- The unit that ISLAND and SUB name, or the status they earn (R455). -/
def unitOf (o : UnitOps) : Status ⊕ FUnit :=
  if 0x1000 ≤ o.island then .inl .badOperand
  else match islOf o.island with
    | none => .inl .range
    | some i =>
      if unfenceable i then .inl .range
      else if o.sub = 0xFF then .inr (.island i)
      else match i with
        | .quarry q => if o.sub < 4 then .inr (.channel q o.sub) else .inl .badOperand
        | .ci => if o.sub < 4 then .inr (.engine o.sub) else .inl .badOperand
        | _ => .inl .badOperand

/-- The Cabin of a unit. -/
def FUnit.isl : FUnit → Isl
  | .island i => i
  | .channel q _ => .quarry q
  | .engine _ => .ci

/-- The unit is fenced. -/
def unitFenced (s : Chip) : FUnit → Bool
  | .island i => isFenced s i
  | .channel q k => isFenced s (.quarry q) || (quarryOf s q).fenced.contains k
  | .engine e => isFenced s .ci || s.cipher.engineOut.contains e

/-- Effect of UNIT_FENCE (R455). -/
def unitFenceRun (o : UnitOps) (s : Chip) : Status × DWord × Chip :=
  match unitOf o with
  | .inl e => (e, 0, s)
  | .inr u =>
    if unitFenced s u then (.ok, 1, s)
    else (.ok, 0, settle (match u with
      | .island i => fenceIsland i 2 s
      | .channel q k => fenceChannel q k 2 s
      | .engine e => engineOutOfUse e s))

/-- The domains an Order on a unit needs (R50). -/
def unitNeeds (o : UnitOps) (s : Chip) : List Nat :=
  match unitOf o with | .inl _ => [] | .inr u => if unitFenced s u then [] else offDomains s [u.isl]

/-- UNIT_FENCE (R455). -/
def execUnitFence (ring : Nat) (ops : UnitOps) (s : State) : Host.Outcome State Fault Refusal :=
  onUnit (decide (ring < 64)) s fun s => endOrder ring (.unitFence ring ops) (unitNeeds ops) (unitFenceRun ops) s

/-! Restoring (R454) -/

/-- Words of an island as its shadow holds them, by offset. -/
def shadowOf (s : Chip) (i : Isl) : List (Nat × Word) :=
  (s.shadow.filter (fun x => x.1 / 2 ^ 32 = i.code)).map (fun x => (x.1 % 2 ^ 32, x.2))

/-- The shadow of an island becomes its live words. -/
def restoreWords (i : Isl) (s : Chip) : Chip :=
  (shadowOf s i).foldl (fun s x => setLive (caddr i x.1) x.2 s) s

/-- A bank's program, its tables and Ledgers new instances but where the current bank's have an equal layout (R236, R458). -/
def bindBank (egress : Bool) (p : Prog) (l : LineSt) : LineSt × Option Bank :=
  match allocAll (p.tables.map (bindTable egress) ++ p.ledgers.map (bindLedger egress)) { line := l } with
  | none => (l, none)
  | some a => (a.line, some { prog := p, binds := a.binds, lbinds := a.lbinds })

/-- A Line with copies of the banks of another, over new instances (R458). -/
def copyBanks (egress live : Bool) (src : LineSt) : LineSt :=
  let bind (b : Option Bank) (l : LineSt) : LineSt × Option Bank :=
    match b with | none => (l, none) | some b => bindBank egress b.prog l
  let c := bind src.curProg {}
  let l := { c.1 with curProg := c.2 }
  let d := bind src.drnProg l
  let g := bind src.stgProg d.1
  { g.1 with live := live, drnProg := d.2, stgProg := g.2
             curGraph := src.curGraph, drnGraph := src.drnGraph, stgGraph := src.stgGraph }

/-! Relief Lines (R457 to R460) -/

/-- The Line pair that serves or last served a Platform (R458). -/
def sourcePair (s : Chip) (k : Nat) : Nat :=
  match servingLine s k with | some n => n | none => (sfind s.ports.lastServed k).getD k

/-- The Line pair that serves a Platform: a fenced one does not (R460, R462). -/
def servesNow (s : Chip) (k : Nat) : Option Nat :=
  match servingLine s k with | none => none | some n => if pairFenced s n then none else some n

/-- The words of a Line become those that the shadow holds of another; what only its own shadow holds returns to reset (R458, log 74). -/
def copyWords (src dst : Isl) (s : Chip) : Chip :=
  let own := shadowOf s dst
  let new := shadowOf s src
  let s := own.foldl (fun s x => setLive (caddr dst x.1) (resetWord (caddr dst x.1)) s) s
  let s := { s with shadow := s.shadow.filter (fun x => ¬ x.1 / 2 ^ 32 = dst.code) }
  new.foldl (fun s x => setShadow (caddr dst x.1) x.2 (setLive (caddr dst x.1) x.2 s)) s

/-- A Line with the banks the Signal Box has copies of: those it holds, or those it held when its domain went off (R454). -/
def banksOf (s : Chip) (egress : Bool) (n : Nat) : LineSt :=
  let l := lineOf s egress n
  if l.copies = {} then sget {} (if egress then s.pkt.eBanks else s.pkt.iBanks) n else l

/-- Prepares a Line pair for a Platform (R458). -/
def preparePair (n k : Nat) (s : Chip) : Chip :=
  let src := sourcePair s k
  let line (egress : Bool) (s : Chip) : Chip :=
    let l := banksOf s egress src
    let s := copyWords (lineIsl egress src) (lineIsl egress n) s
    restartRnd egress n (if s.pkt.epoch.live then setLine egress n (copyBanks egress true l) s else s)
  let s := line true (line false s)
  noteStale { s with ports := { s.ports with prepared := sput none s.ports.prepared n (some k) } }

/-- Switches a Platform to a Line pair (R458). A relief Line that takes over under a fence treats the draining epoch as stale
(R459). -/
def switchTo (k n : Nat) (s0 : Chip) : Chip :=
  let under := (servesNow s0 k).isNone && 32 ≤ n && s0.pkt.epoch.draining
  let s := setServing k (some n) s0
  let s := { s with ports := { s.ports with prepared := sput none s.ports.prepared n none } }
  let s :=
    if under then modLine true n (fun l => { l with drnStale := true }) (modLine false n (fun l => { l with drnStale := true }) s)
    else s
  settle (rehold s0 s)

/-- The Line pair prepared for a Platform. -/
def preparedPair (s : Chip) (k : Nat) : Option Nat :=
  (s.ports.prepared.find? (fun (x : Nat × Option Nat) => x.2 = some k)).map (fun x => x.1)

/-- The automatic flow of a District (R457): Signalman 6 + 3d prepares the relief Line for the Platform whose pair was fenced, while it
still can, and switches it in under KS_AUTO_GO. -/
def autoRelief (d : Nat) (s : Chip) : Chip :=
  match sfind s.ports.reliefDue d with
  | none => s
  | some k =>
    if dead s || s.sb.lapsed.contains (6 + 3 * d) || (smOf s (executor s (6 + 3 * d))).halted then s
    else
      let n := 32 + d
      let s := { s with ports := { s.ports with reliefDue := sdel s.ports.reliefDue d } }
      if !reliefFree s n k || (servesNow s k).isSome || (!(domainSt s n).on && (domainSt s n).mode = .forceOff) then s
      else
        let s := if preparedFor s n = some k then s else preparePair n k (domainOn n {} s)
        if bit (liveW s (caddr .ks 0x0118)).toNat 1 then switchTo k n s else s

/-- The automatic relief flow (R457). -/
def execReliefAutoPrepare (district : Nat) (s : State) : Host.Outcome State Fault Refusal :=
  onUnit (decide (district < 4)) s fun s => autoRelief district s

/-- The result of RELIEF_ASSIGN (R460). -/
def reliefResult (s : Chip) (k : Nat) : DWord := BitVec.ofNat 64 ((servesNow s k).getD 0xFF)

/-- An EPOCH_COMMIT that names either pair of a Platform waits (R460). -/
def reliefWaits (s : Chip) (k : Nat) : Bool := commitWaits s (32 + k / 8) || commitWaits s (sourcePair s k) || commitWaits s k

/-- Why an ASSIGN has no effect of its own (R460): a status, or `OK` where the relief Line already stands for the Platform. -/
def assignCheck (k : Nat) (s : Chip) : Option Status :=
  let n := 32 + k / 8
  if 31 < k then some .range
  else if servedBy s n = some k || preparedFor s n = some k then some .ok
  else if (servedBy s n).isSome || (preparedFor s n).isSome then some .busy
  else if pairFenced s n then some .fenced
  else if reliefWaits s k then some .busy
  else none

/-- The same for a RETURN. -/
def returnCheck (k : Nat) (s : Chip) : Option Status :=
  if 31 < k then some .range
  else if pairFenced s k then some .fenced
  else if servesNow s k ≠ some (32 + k / 8) then some .notFound
  else if reliefWaits s k then some .busy
  else none

/-- An ASSIGN or RETURN: prepares pair `n`, and with GO_NOW switches to it. -/
def reliefPrepare (chk : Option Status) (n k : Nat) (goNow : Bool) (s : Chip) : Status × DWord × Chip :=
  match chk with
  | some .ok => (.ok, reliefResult s k, s)
  | some .fenced => (.fenced, 0, countFencedReq (.iline n) s)
  | some e => (e, 0, s)
  | none =>
    let s := preparePair n k s
    let s := if goNow then switchTo k n s else s
    (.ok, reliefResult s k, s)

/-- The domain of the pair to prepare, where the checks let it be prepared (R50). -/
def reliefNeeds (chk : Chip → Option Status) (n : Nat) (s : Chip) : List Nat :=
  match chk s with | some _ => [] | none => offDomains s [.iline n]

/-- RELIEF_ASSIGN ASSIGN (R460). -/
def execReliefAssignAssign (ring : Nat) (ops : ReliefOps) (s : State) : Host.Outcome State Fault Refusal :=
  onUnit (decide (ring < 64)) s fun s =>
    let n := 32 + ops.platform / 8
    endOrder ring (.reliefAssignAssign ring ops) (reliefNeeds (assignCheck ops.platform) n)
      (fun s => reliefPrepare (assignCheck ops.platform s) n ops.platform ops.goNow s) s

/-- RELIEF_ASSIGN RETURN (R460). -/
def execReliefAssignReturn (ring : Nat) (ops : ReliefOps) (s : State) : Host.Outcome State Fault Refusal :=
  onUnit (decide (ring < 64)) s fun s => endOrder ring (.reliefAssignReturn ring ops) (reliefNeeds (returnCheck ops.platform) ops.platform)
    (fun s => reliefPrepare (returnCheck ops.platform s) ops.platform ops.platform ops.goNow s) s

/-- Effect of RELIEF_ASSIGN GO (R460). -/
def reliefGo (k : Nat) (s : Chip) : Status × DWord × Chip :=
  if 31 < k then (.range, 0, s)
  else match preparedPair s k with
    | none => (.notFound, 0, s)
    | some n =>
      if reliefWaits s k then (.busy, 0, s)
      else let s := switchTo k n s; (.ok, reliefResult s k, s)

/-- RELIEF_ASSIGN GO (R460). -/
def execReliefAssignGo (ring platform : Nat) (s : State) : Host.Outcome State Fault Refusal :=
  onUnit (decide (ring < 64)) s fun s => endOrder ring (.reliefAssignGo ring platform) noNeeds (reliefGo platform) s

/-! UNIT_UNFENCE -/

/-- The islands that return with a unit (R448, R456): both Lines of a pair, and the Platforms of a Tile that were fenced together. -/
def repairGroup (s : Chip) (u : FUnit) : List Isl :=
  match u with
  | .island (.iline n) => [.iline n, .eline n]
  | .island (.eline n) => [.iline n, .eline n]
  | .island (.platform k) =>
    let t := (span (4 * (k / 4)) 4).filter (fun j => isFenced s (.platform j))
    let c (j : Nat) : Nat := (cabOf s (.platform j)).cause
    if t.any (fun j => c j = 6) && (c k = 6 || c k = 1 || c k = 3) then t.map Isl.platform else [.platform k]
  | u => [u.isl]

/-- A Condition-kind fault behind the fence of an island has its cause present (R444, R456). A Tile's reference that its link trains
with again is back (log 75). -/
def conditionHolds (s : Chip) (env : TrainEnv) (i : Isl) : Bool :=
  (cabOf s i).causes.any (fun c => c.sev = 3 && match i with
    | .ci => false
    | .platform k => if c.loc = 0x30 then s.power.tileLost.contains (k / 4) && (sfind env.causeway (k / 4)).isNone else causeOwn s i c.loc
    | _ => causeOwn s i c.loc)

/-- A Line pair whose Platform no Line serves: an unfenced one is taken into service by UNIT_UNFENCE (R456, R462). -/
def pairIdle (s : Chip) (u : FUnit) : Option Nat :=
  match u with
  | .island (.iline n) => if n < 32 && (servesNow s n).isNone && !pairFenced s n then some n else none
  | .island (.eline n) => if n < 32 && (servesNow s n).isNone && !pairFenced s n then some n else none
  | _ => none

/-- The unit is a relief Line that serves a Platform (R456). -/
def reliefServes (s : Chip) (u : FUnit) : Bool :=
  match u with
  | .island (.iline n) => decide (32 ≤ n) && !pairFenced s n && (servedBy s n).isSome
  | .island (.eline n) => decide (32 ≤ n) && !pairFenced s n && (servedBy s n).isSome
  | _ => false

/-- A domain of a unit stands in FORCE_OFF (R52), be it off or held on for its neighbour. -/
def forcedOff (s : Chip) (is : List Isl) : Bool :=
  is.any (fun i => match domainOf i with | none => false | some n => (domainSt s n).mode = .forceOff)

/-- The checks of UNIT_UNFENCE for a unit (R456): a status with its result, or none where the repair may start. -/
def unfenceCheck (env : TrainEnv) (u : FUnit) (s : Chip) : Option (Status × DWord) :=
  let g := repairGroup s u
  if reliefServes s u then some (.busy, 0)
  else if !unitFenced s u then some (.ok, 1)
  else if g.any (fun i => (cabOf s i).repair) || bistRuns s g then some (.busy, 0)
  else if (match u with | .island _ => g.any (conditionHolds s env) | _ => false) then some (.causePresent, 0)
  else if forcedOff s g then some (.busy, 0)
  else none

/-- The domains a repair needs on (R50). -/
def repairDomains (s : Chip) (is : List Isl) : List Nat :=
  ((is.filter (fun i => !isOn s i)).map (fun i => match domainOf i with | none => [] | some n => domainChain s n)).flatten.eraseDups

/-- The Cabin of a repaired island answers again: a new generation, and no fence (R451, R456). -/
def liftFence (i : Isl) (s : Chip) : Chip :=
  modCab i (fun c => { c with fenced := false, cause := 0, gen := (c.gen + 1) % 256, repair := false, repairSub := 0xFF, again := false }) s

/-- A repair has ended without returning the unit. -/
def endRepair (is : List Isl) (s : Chip) : Chip :=
  is.foldl (fun s i => modCab i (fun c => { c with repair := false, repairSub := 0xFF, again := false }) s) s

/-- Resets an island and restores its shadow (R454). -/
def resetRestore (i : Isl) (s : Chip) : Chip := restoreWords i (resetIsland i s)

/-- A Line pair returns (R456): with its bank copies, and in service where no Line serves its Platform. -/
def returnPair (n : Nat) (s0 : Chip) : Chip :=
  let serve := n < 32 && (servesNow s0 n).isNone
  let live := serve && s0.pkt.epoch.live
  let one (egress : Bool) (s : Chip) : Chip :=
    let i := lineIsl egress n
    let l := banksOf s egress n
    let s := resetRestore i s
    liftFence i (restartRnd egress n (setLine egress n (copyBanks egress live l) s))
  let s := one true (one false s0)
  rehold s0 (if serve then setServing n (some n) s else s)

/-- One side of an unfenced Line pair is made live for a Platform that no Line serves (R456): a Line whose domain was off in the meantime takes
its bank copies. -/
def reviveLine (n : Nat) (egress : Bool) (s : Chip) : Chip :=
  let live := s.pkt.epoch.live
  let l := banksOf s egress n
  if (lineOf s egress n).copies = {} && l ≠ {} then restartRnd egress n (setLine egress n (copyBanks egress live l) s)
  else modLine egress n (fun l => { l with live := live }) s

/-- An unfenced Line pair serves its Platform at once (R462). -/
def servePair (n : Nat) (s : Chip) : Chip := settle (rehold s (setServing n (some n) (reviveLine n true (reviveLine n false s))))

/-- A Platform returns: its lanes start from the beginning, and its ports with them (R456, R461). -/
def returnPlatform (k : Nat) (s : Chip) : Chip :=
  let s := liftFence (.platform k) (resetRestore (.platform k) s)
  (portsOn s k).foldl (fun s p => match portOf s p with
    | none => s
    | some v =>
      let s := presetLanes p v.mode true s
      if v.st = .adminDown then s else portTo p (startOrHeld s p v false) s) s

/-- The training a Quarry's repair meets. -/
def dramEnv (env : TrainEnv) : DramEnv := { trained := env.channels, settings := env.settings }

/-- A Quarry returns with its shadowed settings (R461): none where no channel trains. -/
def returnQuarry (q : Nat) (env : TrainEnv) (s : Chip) : Option Chip × Chip :=
  let s := resetRestore (.quarry q) (modCab (.quarry q) (fun c => { c with again := false }) s)
  match sget none s.pkt.spillCfg q with
  | none => (some (liftFence (.quarry q) s), s)
  | some (speed, channels, ranks) =>
    let w := (liveW s (caddr (.quarry q) 0x0100)).toNat
    let s := bringUp q speed channels ranks (bits w 8 4) (bit w 7) (dramEnv env) s
    if (quarryOf s q).enabled then (some (derivePlan (liftFence (.quarry q) s)), s) else (none, s)

/-- A channel returns (R461): it trains, and joins the map once no segment of the old one remains. -/
def returnChannel (q k : Nat) (env : TrainEnv) (s : Chip) : Option Chip × Chip :=
  let v := quarryOf s q
  let s1 := endRepair [.quarry q] s
  if !v.enabled then (some (modQuarry q (fun v => { v with fenced := ndel v.fenced k }) s1), s1)
  else match goodDensity v.ranks (dramEnv env) (4 * q + k) with
    | none => (none, raise (.quarry q) (0x10 + k) clsMemory 3 s1)
    | some _ =>
      let s := trainChannel (4 * q + k) v.ranks (dramEnv env) s1
      (some (rebuildMap q (modQuarry q (fun v => { v with fenced := ndel v.fenced k, remap := true }) s)), s)

/-- Of the Tiles `ts`, the reference of one whose link the repair finds trainable is back (log 75). -/
def tilesBack (ts : List Nat) (env : TrainEnv) (s : Chip) : Chip :=
  { s with power := { s.power with tileLost := s.power.tileLost.filter (fun t => !ts.contains t || (sfind env.causeway t).isNone) } }

/-- The Platforms of a group return, once the Causeway link of their Tile has trained (R456). The reset that comes first leaves the
Tile's copy of the time unlocked, so the training unlocks nothing (log 85). -/
def returnPlatforms (ks : List Nat) (env : TrainEnv) (s : Chip) : Option Chip × Chip :=
  let t := nth 0 ks 0 / 4
  let s := tilesBack [t] env s
  let s := trainCauseway t env.causeway (dropCopyOf t s)
  if (sfind env.causeway t).isNone then (none, s) else (some (ks.foldl (fun s k => returnPlatform k s) s), s)

/-- Carries a repair to its end: the state with the unit back, or none and the state in which it stays fenced. -/
def returnUnit (u : FUnit) (g : List Isl) (env : TrainEnv) (s : Chip) : Option Chip × Chip :=
  match u with
  | .channel q k => returnChannel q k env s
  | .engine e => (some { s with cipher := { s.cipher with engineOut := ndel s.cipher.engineOut e } }, s)
  | .island i => match i with
    | .iline n => (some (returnPair n s), s)
    | .eline n => (some (returnPair n s), s)
    | .platform _ => returnPlatforms (g.filterMap (fun i => match i with | .platform k => some k | _ => none)) env s
    | .quarry q => returnQuarry q env s
    | .yard y =>
      let t := modYard y (fun v => { v with plan := s.pkt.plan }) (resetIsland i s)
      (some (rehold s (liftFence i (restoreWords i t))), s)
    | .mg =>
      let t := liftFence i (resetRestore i s)
      (some { t with ports := { t.ports with mgmt := t.ports.mgmt.map (fun (x : Nat × Option Mgmt) =>
        (x.1, x.2.map (fun (g : Mgmt) => if g.adminDown then g else { g with st := .up, los := false, lock := true }))) } }, s)
    | i => (some (liftFence i (resetRestore i s)), s)

/-- A fault at S3 of the unit arrived while it was being repaired (R462). -/
def spoiled (s : Chip) (is : List Isl) : Bool := is.any (fun i => (cabOf s i).again)

/-- Ends the repair of a unit. -/
def finishRepair (u : FUnit) (env : TrainEnv) (s : Chip) : Status × DWord × Chip :=
  let g := repairGroup s u
  if spoiled s g then (.causePresent, 0, endRepair g s)
  else match returnUnit u g env s with
    | (none, t) => (.trainFail, 0, settle (endRepair g t))
    | (some t, mid) =>
      if (match u with | .island (.platform _) => spoiled mid g | _ => false) then (.causePresent, 0, settle (endRepair g mid))
      else (.ok, 0, errUpdate (settle (endRepair g t)))

/-- Lifts chip hold (R449, R456), with the references that have come back. -/
def liftHold (env : TrainEnv) (s0 : Chip) : Status × DWord × Chip :=
  let s := tilesBack (span 0 8) env s0
  if !chipHold s then (.ok, 1, s0)
  else if s.faults.hold.any (fun x => match islOf (x.1 / 256) with
      | none => false
      | some i => causeOwn s i (x.1 % 256) || (x.2 = 3 && causeFence s i (x.1 % 256))) then
    (.causePresent, 0, s)
  else (.ok, 0, errUpdate { s with faults := { s.faults with hold := [], holdSrc := 0 } })

/-- UNIT_UNFENCE (R456): a repair that `env` does not end goes on, with CAB_REPAIR 1, until a later command ends it. -/
def unitUnfenceRun (ring : Nat) (o : UnitOps) (env : TrainEnv) (s : Chip) : Ran :=
  if islOf o.island = some .ks && o.island < 0x1000 then
    if o.sub ≠ 0xFF then .done .badOperand 0 s else let r := liftHold env s; .done r.1 r.2.1 r.2.2
  else match unitOf o with
    | .inl e => .done e 0 s
    | .inr u =>
      let begun := match (ringOf s ring).running with | none => false | some r => r.begun
      if begun then
        if env.ended then let r := finishRepair u env s; .done r.1 r.2.1 r.2.2 else .going s
      else match pairIdle s u with
        | some n => .done .ok 0 (servePair n s)
        | none => match unfenceCheck env u s with
          | some (e, r) => .done e r s
          | none =>
            let s := (repairGroup s u).foldl (fun s i => modCab i (fun c => { c with
              repair := true, repairSub := if o.sub = 0xFF then 0xFF else o.sub, again := false }) s) s
            if env.ended then let r := finishRepair u env s; .done r.1 r.2.1 r.2.2 else .going s

/-- The domains UNIT_UNFENCE needs on. -/
def unfenceNeeds (o : UnitOps) (env : TrainEnv) (s : Chip) : List Nat :=
  match unitOf o with
  | .inl _ => []
  | .inr u => match pairIdle s u with
    | some n => offDomains s [.iline n]
    | none => match unfenceCheck env u s with | some _ => [] | none => repairDomains s (repairGroup s u)

/-- UNIT_UNFENCE (R456). -/
def execUnitUnfence (ring : Nat) (ops : UnitOps) (env : TrainEnv) (s : State) : Host.Outcome State Fault Refusal :=
  onUnit (decide (ring < 64)) s fun s => runWith true ring (.unitUnfence ring ops {}) (unfenceNeeds ops env) (unitUnfenceRun ring ops env) s

end Sys2Proof.Machine
end

