-- ==== Sys2Proof/Machine/Bist.lean ====
section
/-!
DEFINITION. Built-in self-test by Order (R484 to R492).
-/

namespace Sys2Proof.Machine

/-- The tests of an island (R484). -/
def bistTypes : Isl → List Nat
  | .yard _ | .jn _ | .tm | .mg => [1]
  | .iline _ | .eline _ | .ci => [1, 2]
  | .quarry _ => [1, 5]
  | .platform k => if k % 4 = 0 then [3, 4] else [3]
  | _ => []

/-- The checks of every OP (R491): the target, or a status. -/
def bistTarget (o : BistOps) (s : Chip) : Status ⊕ Isl :=
  match islOf o.island with
  | none => .inl .range
  | some i =>
    if unfenceable i || !(bistTypes i).contains o.type then .inl .range
    else if o.type = 5 && !(match i with | .quarry q => (quarryOf s q).enabled | _ => false) then .inl .badOperand
    else if (if o.type = 5 then 3 < o.sub else o.sub ≠ 0xFF) then .inl .badOperand
    else if (match o.payload with | none => false | some p => p.len ≠ 48) then .inl .badOperand
    else .inr i

/-- The checks of RUN on a target before its conditions. -/
def bistBusy (i : Isl) (s : Chip) : Bool := bistRuns s [i] || forcedOff s (bistGroup i)

/-- Key memories that a test clears before it begins (R354, R484): those of the lookaside cipher, or the link keys of a Tile. -/
def bistClearKeys (i : Isl) (type : Nat) (s : Chip) : Chip :=
  match i with
  | .ci =>
    if type = 1 then { s with cipher := { s.cipher with spill := [], look := [], hash := [], spillActive := none, spillDrain := none } } else s
  | .platform k => if type = 4 then loseLinkKeys (k / 4) s else s
  | _ => s

/-- RUN: the target is fenced and its test starts (R485, R486). -/
def bistRun (ring : Nat) (o : BistOps) (cond : BistCond) (s : Chip) : Ran :=
  match bistTarget o s with
  | .inl e => .done e 0 s
  | .inr i =>
    if bistBusy i s then .done .busy 0 s
    else if !cond.clock || !cond.supply then .done .conditions 0 (raise i 0xF1 clsBist 0 s)
    else
      let s := bistClearKeys i o.type (settle (bistFence i o.sub o.type s))
      let r : BistRun :=
        { island := (bistIsland i).code, sub := o.sub, type := o.type, ret := o.ret, ring := ring
          payload := o.payload.map (fun p => p.addr) }
      .going { s with bist := { runs := s.bist.runs ++ [r], results := sdel s.bist.results (bistKey i o.sub) } }

/-- The domains a RUN needs on (R50). -/
def bistNeeds (o : BistOps) (s : Chip) : List Nat :=
  match bistTarget o s with
  | .inl _ => []
  | .inr i => if bistBusy i s then [] else repairDomains s (bistGroup i)

def execBistRunRun (ring : Nat) (ops : BistOps) (cond : BistCond) (s : State) : Host.Outcome State Fault Refusal :=
  onUnit (decide (ring < 64)) s fun s => runOrder ring (.bistRunRun ring ops {}) (bistNeeds ops) (bistRun ring ops cond) s

/-- READ: the kept record goes to the payload. -/
def bistRead (o : BistOps) (s : Chip) : Status × DWord × Chip :=
  match bistTarget o s with
  | .inl e => (e, 0, s)
  | .inr i => match sget [] s.bist.results (bistKey i o.sub) with
    | [] => (.notFound, 0, s)
    | bs => (.ok, 0, writePayload o.payload bs s)

def execBistRunRead (ring : Nat) (ops : BistOps) (s : State) : Host.Outcome State Fault Refusal :=
  onUnit (decide (ring < 64)) s fun s => endOrder ring (.bistRunRead ring ops) noNeeds (bistRead ops) s

/-- Sets CUT bits of the test of a target (R489, R490). -/
def cutRun (island sub k : Nat) (s : Chip) : Chip :=
  { s with bist := { s.bist with runs := s.bist.runs.map (fun r =>
      if r.island = island && r.sub = sub && !bit r.cut k then { r with cut := r.cut + 2 ^ k } else r) } }

/-- ABORT: the test of the target is cut short, and the Order ends after that of the RUN. -/
def bistAbort (o : BistOps) (s : Chip) : Ran :=
  match bistTarget o s with
  | .inl e => .done e 0 s
  | .inr i =>
    let c := (bistIsland i).code
    if s.bist.runs.any (fun r => r.island = c && r.sub = o.sub) then .going (cutRun c o.sub 2 s) else .done .notFound 0 s

def execBistRunAbort (ring : Nat) (ops : BistOps) (s : State) : Host.Outcome State Fault Refusal :=
  onUnit (decide (ring < 64)) s fun s => runOrder ring (.bistRunAbort ring ops) noNeeds (bistAbort ops) s

/-! The end of a run (R487 to R490) -/

/-- The patterns that count: fewer than expected where the run was cut short (R492). -/
def bistApplied (r : BistRun) (f : BistFind) : Nat :=
  let exp := f.expected % 2 ^ 48
  min (f.applied % 2 ^ 48) (if r.cut = 0 then exp else exp - 1)

/-- The verdict of R488. -/
def bistVerdict (expSig : Nat) (r : BistRun) (f : BistFind) : Status :=
  if bistApplied r f ≠ f.expected % 2 ^ 48 || r.cut ≠ 0 then .incomplete
  else if f.signature % 2 ^ 32 = expSig then .ok else .bistFail

/-- The island is reset (R487): a channel is untrained, any other target holds its reset values. -/
def bistReset (i : Isl) (sub type : Nat) (s : Chip) : Chip :=
  match i with
  | .quarry q => if type = 5 then modChan (4 * q + sub) (fun _ => {}) s else resetIsland i s
  | i => (bistGroup i).foldl (fun s i => resetIsland i s) s

/-- Aborts of a target end after its test (R491). -/
def endAborts (i : Isl) (sub : Nat) (s : Chip) : Chip :=
  let mine (o : BistOps) : Bool := o.sub = sub && (match islOf o.island with | none => false | some j => bistIsland j = bistIsland i)
  s.host.rings.foldl (fun s x =>
    match x.2.running with
    | none => s
    | some o => match o.cmd with
      | some (.bistRunAbort _ ops) => if o.begun && mine ops then finishOrder x.1 .ok 0 s else s
      | _ => s) s

/-- UNIT_UNFENCE of the target within the Order, after a PASS with RETURN (R487). -/
def bistReturn (i : Isl) (sub type : Nat) (env : TrainEnv) (s : Chip) : Status × Chip :=
  let u : FUnit := match i with | .quarry q => if type = 5 then .channel q sub else .island i | _ => .island i
  match unfenceCheck env u s with
  | some (e, _) => (e, s)
  | none => let r := finishRepair u env s; (r.1, r.2.2)

/-- The Order that started a test is still at work: one given up (R472, R476) takes no result. -/
def bistOrderAt (s : Chip) (r : BistRun) : Bool :=
  match (ringOf s r.ring).running with
  | none => false
  | some o => o.begun && o.outcome.isNone && (match o.cmd with
    | some (.bistRunRun _ ops _) => ops.sub = r.sub && (match islOf ops.island with
      | none => false
      | some j => (bistIsland j).code = r.island)
    | _ => false)

/-- A test ends. -/
def bistFinish (i : Isl) (r : BistRun) (f : BistFind) (s : Chip) : Chip :=
  let exp := bistExpected i r.type
  let st := bistVerdict exp r f
  let n := bistApplied r f
  let s := { s with bist := { s.bist with runs := s.bist.runs.filter (fun x => ¬ (x.island = r.island ∧ x.sub = r.sub)) } }
  let rec' := bistRecord r.type r.sub st (f.signature % 2 ^ 32) exp (f.durationUs % 2 ^ 32) n (f.expected % 2 ^ 48)
    (f.firstFail % 2 ^ 32) r.cut (nowTs s)
  let s := bistKeep i r.sub rec' (bistReset i r.sub r.type s)
  let at' := bistOrderAt s r
  let s := match r.payload with | none => s | some a => if at' then hostWrite a rec' s else s
  let s := if st = .ok then s else settle (raise i 0xF0 clsBist 3 s)
  let back : Status × Chip := if st = .ok && r.ret then bistReturn i r.sub r.type f.train s else (.ok, s)
  let code := if st = .ok && r.ret then back.1.code else 0
  let st := if st = .ok && back.1 = .trainFail then .trainFail else st
  endAborts i r.sub (if at' then finishOrder r.ring st (packD [(48, 16, code), (0, 48, n)]) back.2 else back.2)

/-- The test of a target that runs. -/
def runOf (t : BistTarget) (s : Chip) : Option (Isl × BistRun) :=
  match islOf t.island with
  | none => none
  | some i => (s.bist.runs.find? (fun r => r.island = (bistIsland i).code && r.sub = t.sub)).map (fun r => (i, r))

def execBistRunEnd (target : BistTarget) (find : BistFind) (s : State) : Host.Outcome State Fault Refusal :=
  onChip s fun s => if dead s then s else match runOf target s with | none => s | some (i, r) => bistFinish i r find s

/-- A condition of R485 leaves its window during a run (R489). -/
def execBistConditionLost (target : BistTarget) (clock supply : Bool) (s : State) : Host.Outcome State Fault Refusal :=
  onChip s fun s => if dead s then s else match runOf target s with
    | none => s
    | some (_, r) =>
      let s := if clock then cutRun r.island r.sub 0 s else s
      if supply then cutRun r.island r.sub 1 s else s

end Sys2Proof.Machine
end

