-- ==== Sys2Proof/Machine/HostFrames.lean ====
section
/-!
DEFINITION. Frames from the host (R120 to R122, R145): a descriptor of queues 16 to 31 is taken, and its completion is written.
-/

namespace Sys2Proof.Machine

/-- The fields of a descriptor of a queue from the host (R121). -/
structure HostDesc where
  len : Nat
  mode : Nat
  flags : Nat
  target : Nat
  rest : Nat

def hostDesc (d : List Byte) : HostDesc :=
  { len := leAt d 0x08 2, mode := leAt d 0x0A 1, flags := leAt d 0x0B 1, target := leAt d 0x0C 2, rest := leAt d 0x0E 2 }

/-- The management lane whose MG_TXQ is queue `q` (R145). -/
def txLane (s : Chip) (q : Nat) : Option Nat :=
  (span 0 4).find? (fun n => match mgmtOf s n with | none => false | some g => g.txq = q)

/-- The status a descriptor is refused with, before it is taken (R121). A management lane ignores MODE and TARGET. -/
def hostRefusal (s : Chip) (lane : Option Nat) (d : HostDesc) : Option Status :=
  let q := d.target
  if d.len < 60 || 10240 < d.len || (lane.isNone && 1 < d.mode) || 1 < d.flags || d.rest ≠ 0 then some .badOperand
  else if lane.isSome then none
  else if d.mode = 0 then (if (portOf s d.target).isNone then some .notFound else none)
  else match queuePort q with
    | none => some .notFound
    | some p => if (portOf s p).isNone then some .notFound else none

/-- The Waybill of a frame from the host as it is taken: its index and a DIRECT frame's ingress time are free values, as the spec gives
none (log 33, log 43). HOST_ORIGIN is that of the Manifest's `origin` (log 43). -/
def hostWaybill (bytes : List Byte) (port : Nat) (pipeline : Bool) (free : Nat) : Waybill :=
  { inPort := port, pktLen := bytes.length, head := bytes.take 255, wflags := if pipeline then 32 else 0
    inTs := if pipeline then 0 else free % 2 ^ 63, inSec := if pipeline then 0 else free / 2 ^ 46 % 2 ^ 17, inRun := if pipeline then 0 else free }

/-- A PIPELINE frame enters the ingress Line of its port's Platform; one that no Line takes is dropped with `FENCED` (log 46), as the Line
drops one in chip hold (R449). -/
def hostPipeline (tag : Nat × Nat × Bool) (port : Nat) (bytes : List Byte) (s : Chip) : Chip :=
  let wb := hostWaybill bytes port true 0
  let x : RxFrame :=
    { fid := s.pkt.nextId, line := 0, bytes := bytes, bad := 0
      m := { inPort := port, origin := 1, waybill := (freeNext s).toNat % 65536 }, wb := wb, req := 4096, group := 0
      cells := cellsOf (bytes.length + 640), host := some tag }
  let s := modPkt (fun k => { k with nextId := k.nextId + 1 }) (freeTake s)
  match servingLine s (platformOf port) with
  | none => dropRx .pc dropFenced x s
  | some n =>
    if chipHold s then dropRx (.iline n) dropFenced x s
    else if isFenced s (.iline n) || !isOn s (.iline n) then dropRx .pc dropFenced x (countFencedReq (.iline n) s)
    else modPkt (fun k => { k with rx := k.rx ++ [{ x with line := n }] }) s

/-- A DIRECT frame is a copy for one queue, in the half that is not fenced (log 42). It comes from a queue of the host, from an export
port (R418) or from a Signalman (R474). In chip hold the half drops it (R449). -/
def directFrame (tag : Option (Nat × Nat × Bool)) (post : Option (Nat × Nat)) (q : Nat) (bytes : List Byte) (s : Chip) : Chip :=
  let port := q % 512
  let x := (freeNext s).toNat
  let wb := hostWaybill bytes port false x
  let half := usableHalf s 0
  let f : JnFrame :=
    { fid := s.pkt.nextId, half := half.getD 0, line := 0, bytes := bytes, bad := 0
      m := { inPort := port, inTs := wb.inTs, waybill := x % 65536 }, wb := wb, req := 4096, group := 0
      cells := cellsOf bytes.length, first := true, primary := true, mirrors := [], hostCopy := none, host := tag, direct := some q
      post := post }
  let s := modPkt (fun k => { k with nextId := k.nextId + 1 }) (freeTake s)
  match half with
  | none => dropJn (.jn 0) dropFenced f (bump (.jn 0) 0x010C 1 (countFencedReq (.jn 0) s))
  | some h => if chipHold s then dropJn (.jn h) dropFenced f s else modPkt (fun k => { k with jn := k.jn ++ [f] }) s

/-- A frame for a management lane goes out unchanged while the lane is in UP (log 45). -/
def hostMgmt (n : Nat) (bytes : List Byte) (s : Chip) : Chip :=
  match mgmtOf s n with
  | none => s
  | some g => if g.st = .up && !isFenced s .mg then emit (.mgmtFrame n bytes) s else s

/-- The next descriptor of a queue from the host is taken (R120, R121): only while its completion has a slot to go to. -/
def takeDescriptor (q : Nat) (bytes : List Byte) (s : Chip) : Chip :=
  let v := dmaOf s q
  let due := sget [] s.host.hostFrames q
  match v.descs with
  | [] => s
  | (slot, e) :: ds =>
    if !hostUp s || !v.enable || v.stopped || v.freeSlots ≤ due.length then s
    else match e with
    | none => stopDma q s
    | some d =>
      let d := hostDesc d
      let lane := txLane s q
      let bad := hostRefusal s lane d
      if bad.isNone && decide (bytes.length < d.len) then s
      else
        let bytes := bytes.take d.len
        let id := slot + 16384 * s.pkt.nextId
        let tsreq := bit d.flags 0
        let tag := (q, id, tsreq)
        let s := modDma q (fun v => { v with descs := ds, head := (v.head + 1) % v.size }) s
        let s := { s with host := { s.host with hostFrames := smod [] s.host.hostFrames q (· ++ [{ slot := id, tsreq := tsreq }]) } }
        match bad with
        | some e => hostOutcome (some tag) e 0 (modPkt (fun k => { k with nextId := k.nextId + 1 }) s)
        | none => match lane with
          | some n => hostOutcome (some tag) .ok 0 (hostMgmt n bytes (modPkt (fun k => { k with nextId := k.nextId + 1 }) s))
          | none => if d.mode = 0 then hostPipeline tag d.target bytes s else directFrame (some tag) none d.target bytes s

def execHostFrameDescriptor (q : Nat) (bytes : List Byte) (s : State) : Host.Outcome State Fault Refusal :=
  onUnit (decide (16 ≤ q) && decide (q < 32)) s fun s => settle (takeDescriptor q bytes s)

/-- The 16 bytes of a completion (R121). -/
def hostTxCompletion (slot : Nat) (st : Status) (ts : Nat) (phase : Bool) : List Byte :=
  leBytes 2 slot ++ leBytes 2 st.code ++ leBytes 1 (b2n phase) ++ repl 3 0#8 ++ leBytes 8 ts

/-- The completion of a frame from the host is written (R122): the first one that is due. -/
def writeHostCompletion (q : Nat) (s : Chip) : Chip :=
  if !hostUp s || (dmaOf s q).freeSlots = 0 then s
  else match (sget [] s.host.hostFrames q).find? (fun f => f.outcome.isSome) with
    | none => s
    | some f => match f.outcome with
      | none => s
      | some (st, ts) =>
        let s := { s with host := { s.host with hostFrames := smod [] s.host.hostFrames q (fun l => l.filter (fun x => ¬ x.slot = f.slot)) } }
        dmaComplete q (hostTxCompletion (f.slot % 16384) st (if f.tsreq && st = .ok then ts else 0)) s

def execHostFrameCompletion (q : Nat) (s : State) : Host.Outcome State Fault Refusal :=
  onUnit (decide (16 ≤ q) && decide (q < 32)) s fun s => writeHostCompletion q s

end Sys2Proof.Machine
end

