-- ==== Sys2Proof/Machine/Keys.lean ====
section
/-!
DEFINITION. Key slots (R353 to R357, R370) and SecYs and SAs (R364 to R368).
-/

namespace Sys2Proof.Machine

/-- Changes the cipher state. -/
def modCipher (f : CipherSt → CipherSt) (s : Chip) : Chip := { s with cipher := f s.cipher }

/-! KEY_WRITE and KEY_ERASE -/

/-- Slots of a class (R353). -/
def classSlots (cls : Nat) : Nat := match cls with | 0 => 8192 | 1 => 2 | 2 => 256 | 3 => 4 | _ => 0

/-- A class and slot that no Order may name (R2, R356). -/
def slotRange (cls slot : Nat) : Bool := 3 < cls || classSlots cls ≤ slot || (cls = 0 && !Config.linkCipher)

/-- KEY_BITS allowed for a class (R353). -/
def bitsAllowed (cls b : Nat) : Bool :=
  match cls with | 0 => decide (b < 2) | 1 => b = 2 | 2 => decide (b < 3) | 3 => b = 0 | _ => false

/-- Bytes of a key. -/
def keyLen (b : Nat) : Nat := if b = 0 then 16 else if b = 1 then 32 else 64

/-- An installed SA of any port names a LINK slot. -/
def saNames (s : Chip) (slot : Nat) : Bool :=
  let has (m : Sparse (Option SaSt)) : Bool := m.any (fun x => match x.2 with | none => false | some a => a.slot = slot)
  s.cipher.secy.any (fun x => has x.2.tx || has x.2.rx)

/-- KEY_WRITE of a SPILL slot is refused (R370). -/
def spillBusy (s : Chip) (k : Nat) : Bool := s.cipher.spillActive = some k || decide (0 < keySegs s k)

/-- The checks of KEY_WRITE in the card's order. -/
def keyWriteCheck (o : KeyWriteOps) (s : Chip) : Option Status :=
  if slotRange o.cls o.slot then some .range
  else if !bitsAllowed o.cls o.keyBits || o.payload.len ≠ keyLen o.keyBits || (o.cls ≠ 2 && o.fixed ≠ 0) then some .badOperand
  else if (o.cls = 0 && saNames s o.slot) || (o.cls = 1 && spillBusy s o.slot) then some .keyBusy
  else none

/-- A SPILL slot takes a key: it becomes active, and a slot that was active drains (R370). -/
def writeSpillKey (k : Nat) (key : List Byte) (s : Chip) : Chip :=
  let other := 1 - k
  spillKeyDrain (modCipher (fun c => { c with
    spill := sput none c.spill k (some key)
    spillActive := some k
    spillDrain := if (sget none c.spill other).isSome then some other else none }) s)

/-- KEY_WRITE (R356). The key bytes stand in the slot as the payload gives them; a SipHash key is the number its little-endian bytes
give (log 12). -/
def keyWrite (o : KeyWriteOps) (s : Chip) : Status × DWord × Chip :=
  match keyWriteCheck o s with
  | some e => (e, 0, s)
  | none =>
    let key := o.payload.data.take (keyLen o.keyBits)
    (.ok, 0, match o.cls with
      | 0 => modCipher (fun c => { c with link := sput none c.link o.slot (some key) }) s
      | 1 => writeSpillKey o.slot key s
      | 2 => modCipher (fun c => { c with look := sput none c.look o.slot (some ⟨key, o.fixed, 0⟩) }) s
      | _ => modCipher (fun c => { c with hash := sput none c.hash o.slot (some (BitVec.ofNat 128 (leNat key))) }) s)

/-- The domain that holds a slot: a LINK slot lies in its Tile (R353). -/
def slotNeeds (cls slot : Nat) (s : Chip) : List Nat :=
  if cls = 0 && !slotRange cls slot then offDomains s [.platform (4 * (slot / 1024))] else []

def execKeyWrite (ring : Nat) (ops : KeyWriteOps) (s : State) : Host.Outcome State Fault Refusal :=
  onUnit (decide (ring < 64)) s fun s => endOrder ring (.keyWrite ring ops) (slotNeeds ops.cls ops.slot) (keyWrite ops) s

/-- A slot holds no key. -/
def slotEmpty (s : Chip) (cls slot : Nat) : Bool :=
  match cls with
  | 0 => (linkKey s slot).isNone
  | 1 => (sget none s.cipher.spill slot).isNone
  | 2 => (sget none s.cipher.look slot).isNone
  | _ => (sget none s.cipher.hash slot).isNone

/-- Every installed SA that names a slot becomes keyless. -/
def keyless (slot : Nat) (s : Chip) : Chip :=
  let mark (m : Sparse (Option SaSt)) : Sparse (Option SaSt) := m.map (fun x =>
    (x.1, x.2.map (fun a => if a.slot = slot then { a with keyless := true } else a)))
  modCipher (fun c => { c with secy := c.secy.map (fun x => (x.1, { x.2 with tx := mark x.2.tx, rx := mark x.2.rx })) }) s

/-- The lookaside slot a job names (R373). -/
def JobSt.slot (j : JobSt) : Nat := leAt j.desc 2 2

/-- Jobs queued on a lookaside slot complete with `KEY_ABSENT`. -/
def dropJobs (slot : Nat) (s : Chip) : Chip :=
  let gone := ((s.cipher.engines.map (fun x => x.2.jobs)).flatten).filter (fun j => j.slot = slot)
  let s := modCipher (fun c => { c with engines := (c.engines.map (fun x =>
    (x.1, { x.2 with jobs := x.2.jobs.filter (fun j => ¬ j.slot = slot) }))).filter (fun x => x.2 ≠ {}) }) s
  gone.foldl (fun s j => match j.ring with | none => s | some r => finishOrder r .keyAbsent 0 s) s

/-- KEY_ERASE (R357). -/
def keyErase (o : KeyEraseOps) (s : Chip) : Status × DWord × Chip :=
  if slotRange o.cls o.slot then (.range, 0, s)
  else if slotEmpty s o.cls o.slot then (.keyAbsent, 0, s)
  else match o.cls with
    | 0 => (.ok, 0, keyless o.slot (modCipher (fun c => { c with link := sput none c.link o.slot none }) s))
    | 1 =>
      let held := s.cipher.spillActive = some o.slot && (span 0 8).any (fun q => (quarryOf s q).enabled)
      if held || 0 < keySegs s o.slot then (.keyBusy, 0, s)
      else (.ok, 0, modCipher (fun c => { c with
        spill := sput none c.spill o.slot none
        spillActive := if c.spillActive = some o.slot then none else c.spillActive }) s)
    | 2 => (.ok, 0, dropJobs o.slot (modCipher (fun c => { c with look := sput none c.look o.slot none }) s))
    | _ => (.ok, 0, modCipher (fun c => { c with hash := sput none c.hash o.slot none }) s)

def execKeyErase (ring : Nat) (ops : KeyEraseOps) (s : State) : Host.Outcome State Fault Refusal :=
  onUnit (decide (ring < 64)) s fun s => endOrder ring (.keyErase ring ops) (slotNeeds ops.cls ops.slot) (keyErase ops) s

/-! SA_SET (R367) -/

/-- The first checks of every form: the part, the port, and what fences it. -/
def saPort (p : Nat) (s : Chip) : Option Status :=
  if !Config.linkCipher then some .range else if (portOf s p).isNone then some .notFound else none

/-- The answer of a form whose other checks have passed, unless its Platform is fenced. -/
def saDone (p : Nat) (res : DWord) (f : Chip → Chip) (s : Chip) : Status × DWord × Chip :=
  let i := Isl.platform (platformOf p)
  if isFenced s i then (.fenced, 0, countFencedReq i s) else (.ok, res, f s)

/-- The domain of a port's Platform. -/
def secyNeeds (p : Nat) (s : Chip) : List Nat := if 511 < p || !Config.linkCipher then [] else offDomains s [.platform (platformOf p)]

/-- A SecY record outside its ranges. -/
def secyBad (b : List Byte) : Bool :=
  let suite := byteAt b 1
  let off := byteAt b 2
  1 < byteAt b 0 || 3 < suite || (off ≠ 0 && off ≠ 30 && off ≠ 50) || 3 < byteAt b 3 || 2 ^ 30 < leAt b 4 4 ||
    (!suiteXpn suite && !zeros b 0x18 0x1F) || (!suiteXpn suite && 2 ^ 32 ≤ leAt b 0x20 8) ||
    (15 < byteAt b 0x28 && byteAt b 0x28 ≠ 0xFF) || !zeros b 0x29 0x3F

/-- SECY. -/
def saSecy (o : SaRecordOps) (s : Chip) : Status × DWord × Chip :=
  let b := o.payload.data
  let y := secyOf s o.port
  let enable := byteAt b 0 = 1
  let txSci := beNat (slice b 8 8)
  let rxSci := beNat (slice b 0x10 8)
  let changes := enable ≠ y.enable || byteAt b 1 ≠ y.suite || txSci ≠ y.txSci || rxSci ≠ y.rxSci ||
    leAt b 0x18 4 ≠ y.txSsci || leAt b 0x1C 4 ≠ y.rxSsci
  match saPort o.port s with
  | some e => (e, 0, s)
  | none =>
    if o.payload.len ≠ 64 || secyBad b then (.badOperand, 0, s)
    else if changes && (y.tx ≠ [] || y.rx ≠ []) then (.busy, 0, s)
    else saDone o.port 0 (modSecy o.port (fun y => { y with
      enable := enable
      suite := byteAt b 1
      confOffset := byteAt b 2
      conf := bit (byteAt b 3) 0
      includeSci := bit (byteAt b 3) 1
      window := leAt b 4 4
      txSci := txSci
      rxSci := rxSci
      txSsci := leAt b 0x18 4
      rxSsci := leAt b 0x1C 4
      rekeyThresh := leAt b 0x20 8
      evq := byteAt b 0x28 })) s

def execSaSetSecy (ring : Nat) (ops : SaRecordOps) (s : State) : Host.Outcome State Fault Refusal :=
  onUnit (decide (ring < 64)) s fun s => endOrder ring (.saSetSecy ring ops) (secyNeeds ops.port) (saSecy ops) s

/-- The SA of a direction and AN. -/
def saOf (s : Chip) (p : Nat) (rx : Bool) (an : Nat) : Option SaSt :=
  if rx then sget none (secyOf s p).rx an else sget none (secyOf s p).tx an

/-- Replaces it. -/
def setSa (p : Nat) (rx : Bool) (an : Nat) (a : Option SaSt) (s : Chip) : Chip :=
  modSecy p (fun y => if rx then { y with rx := sput none y.rx an a } else { y with tx := sput none y.tx an a }) s

/-- An SA record outside its ranges. -/
def saBad (y : SecySt) (rx : Bool) (b : List Byte) : Bool :=
  let next := byteAt b 2
  let pn := leAt b 8 8
  (next ≠ 0xFF && (rx || 3 < next)) || !zeros b 3 7 || pn = 0 || maxPn y.suite < pn ||
    (!suiteXpn y.suite && !zeros b 0x10 0x1B) || !zeros b 0x1C 0x3F

/-- INSTALL. -/
def saInstall (o : SaRecordOps) (s : Chip) : Status × DWord × Chip :=
  let b := o.payload.data
  let y := secyOf s o.port
  let slot := leAt b 0 2
  let len := if y.suite % 2 = 0 then 16 else 32
  match saPort o.port s with
  | some e => (e, 0, s)
  | none =>
    if 3 < o.an || o.payload.len ≠ 64 || saBad y o.rx b || (match linkKey s slot with | none => false | some k => k.length ≠ len) then
      (.badOperand, 0, s)
    else if slot / 1024 ≠ o.port / 64 then (.range, 0, s)
    else if (saOf s o.port o.rx o.an).isSome then (.existsAlready, 0, s)
    else if (linkKey s slot).isNone then (.keyAbsent, 0, s)
    else saDone o.port 0 (setSa o.port o.rx o.an (some
      { slot := slot, nextAn := byteAt b 2, pn := leAt b 8 8, salt := leNat (slice b 0x10 12) })) s

def execSaSetInstall (ring : Nat) (ops : SaRecordOps) (s : State) : Host.Outcome State Fault Refusal :=
  onUnit (decide (ring < 64)) s fun s => endOrder ring (.saSetInstall ring ops) (secyNeeds ops.port) (saInstall ops) s

/-- ENABLE_TX. -/
def saEnable (o : SaOps) (s : Chip) : Status × DWord × Chip :=
  match saPort o.port s with
  | some e => (e, 0, s)
  | none =>
    if 3 < o.an || o.rx then (.badOperand, 0, s)
    else match saOf s o.port false o.an with
      | none => (.notFound, 0, s)
      | some a =>
        if a.keyless then (.keyAbsent, 0, s)
        else if a.exhausted then (.nonceExhausted, 0, s)
        else saDone o.port 0 (modSecy o.port (fun y => { y with encoding := some o.an })) s

def execSaSetEnableTx (ring : Nat) (ops : SaOps) (s : State) : Host.Outcome State Fault Refusal :=
  onUnit (decide (ring < 64)) s fun s => endOrder ring (.saSetEnableTx ring ops) (secyNeeds ops.port) (saEnable ops) s

/-- RETIRE. -/
def saRetire (o : SaOps) (s : Chip) : Status × DWord × Chip :=
  match saPort o.port s with
  | some e => (e, 0, s)
  | none =>
    if 3 < o.an then (.badOperand, 0, s)
    else if (saOf s o.port o.rx o.an).isNone then (.notFound, 0, s)
    else if !o.rx && (secyOf s o.port).encoding = some o.an then (.busy, 0, s)
    else saDone o.port 0 (setSa o.port o.rx o.an none) s

def execSaSetRetire (ring : Nat) (ops : SaOps) (s : State) : Host.Outcome State Fault Refusal :=
  onUnit (decide (ring < 64)) s fun s => endOrder ring (.saSetRetire ring ops) (secyNeeds ops.port) (saRetire ops) s

/-- STATE of an installed SA. -/
def saState (y : SecySt) (rx : Bool) (an : Nat) (a : SaSt) : Nat :=
  if a.keyless then 4 else if a.exhausted then 3 else if !rx && y.encoding = some an then 2 else 1

/-- The SA record of an installed SA. -/
def saRecord (st : Nat) (a : SaSt) : List Byte :=
  leBytes 2 a.slot ++ leBytes 1 a.nextAn ++ leBytes 1 st ++ repl 4 0#8 ++ leBytes 8 a.pn ++ leBytes 12 a.salt ++ repl 36 0#8

/-- READ. -/
def saRead (o : SaRecordOps) (s : Chip) : Status × DWord × Chip :=
  match saPort o.port s with
  | some e => (e, 0, s)
  | none =>
    if 3 < o.an || o.payload.len ≠ 64 then (.badOperand, 0, s)
    else match saOf s o.port o.rx o.an with
      | none => (.notFound, 0, s)
      | some a =>
        let st := saState (secyOf s o.port) o.rx o.an a
        saDone o.port (BitVec.ofNat 64 st) (writePayload (some o.payload) (saRecord st a)) s

def execSaSetRead (ring : Nat) (ops : SaRecordOps) (s : State) : Host.Outcome State Fault Refusal :=
  onUnit (decide (ring < 64)) s fun s => endOrder ring (.saSetRead ring ops) (secyNeeds ops.port) (saRead ops) s

end Sys2Proof.Machine
end

