-- ==== Sys2Proof/Machine/Lookaside.lean ====
section
/-!
DEFINITION. Lookaside jobs (R372 to R379).
-/

namespace Sys2Proof.Machine

/-! The descriptor (R373) -/

/-- A job descriptor. -/
structure JobDesc where
  mode : Nat
  decrypt : Bool
  slot : Nat
  tail : Nat
  length : Nat
  aadLen : Nat
  src : Nat
  dst : Nat
  aad : Nat
  iv : List Byte
  tagAddr : Nat

def jobDesc (b : List Byte) : JobDesc :=
  { mode := byteAt b 0, decrypt := byteAt b 1 = 1, slot := leAt b 2 2, tail := byteAt b 4, length := leAt b 8 4, aadLen := leAt b 0x0C 4
    src := leAt b 0x10 8, dst := leAt b 0x18 8, aad := leAt b 0x20 8, iv := slice b 0x28 16, tagAddr := leAt b 0x38 8 }

/-- A descriptor with an invalid field. -/
def descBad (b : List Byte) : Bool :=
  let d := jobDesc b
  let gcm := d.mode = 4
  d.mode = 0 || 5 < d.mode || 1 < byteAt b 1 || !zeros b 5 7 ||
    (if d.mode = 3 || gcm then d.tail = 0 || 16 < d.tail else d.tail ≠ 0) ||
    d.length % 16 ≠ 0 || d.length < 16 || 16777216 < d.length || (gcm && d.decrypt && 65536 < d.length) ||
    (if gcm then 65536 < d.aadLen else d.aadLen ≠ 0) || (d.aadLen = 0 && d.aad ≠ 0) || (!gcm && d.tagAddr ≠ 0) ||
    (gcm && !allZero (if d.decrypt then d.iv.drop 12 else d.iv))

/-- Two byte ranges overlap. -/
def overlaps (a n b m : Nat) : Bool := decide (0 < n) && decide (0 < m) && decide (a < b + m) && decide (b < a + n)

/-- A forbidden overlap. -/
def descOverlap (d : JobDesc) : Bool :=
  (d.src ≠ d.dst && overlaps d.dst d.length d.src d.length) || overlaps d.dst d.length d.aad d.aadLen ||
    (d.mode = 4 && overlaps d.dst d.length d.tagAddr 16)

/-- Every buffer lies in a permitted region. -/
def descRegions (s : Chip) (ring : Nat) (d : JobDesc) : Bool :=
  payloadOk s ring d.src d.length false && payloadOk s ring d.dst d.length true &&
    (d.aadLen = 0 || payloadOk s ring d.aad d.aadLen false) && (d.mode ≠ 4 || payloadOk s ring d.tagAddr 16 true)

/-! Queueing (R372) -/

/-- A lookaside engine. -/
def engineOf (s : Chip) (e : Nat) : EngineSt := sget {} s.cipher.engines e

/-- The engine a new job goes to: the next in turn that is in use and has room (log 67). -/
def engineFor (s : Chip) : Option Nat :=
  ((span 0 4).map (fun k => (s.cipher.nextEngine + k) % 4)).find? (fun e =>
    !s.cipher.engineOut.contains e && (engineOf s e).jobs.length < 16)

/-- Queues a job. -/
def queueJob (e : Nat) (j : JobSt) (s : Chip) : Chip :=
  modCipher (fun c => { c with
    engines := smod {} c.engines e (fun g => { g with jobs := g.jobs ++ [j] })
    nextEngine := (e + 1) % 4 }) s

/-- CIPHER_JOB at its start: the job is queued, and its end completes the Order. -/
def cipherJob (ring : Nat) (o : CipherJobOps) (s : Chip) : Ran :=
  let b := o.payload.data
  let d := jobDesc b
  if o.payload.len ≠ 64 || descBad b || descOverlap d then .done .badOperand 0 s
  else if 255 < d.slot || !descRegions s ring d then .done .range 0 s
  else if isFenced s .ci then .done .fenced 0 (countFencedReq .ci s)
  else match engineFor s with
    | none => .done .fenced 0 s
    | some e => .going (queueJob e { ring := some ring, desc := b.take 64 } s)

/-- Every queue of an engine in use is full: the Order does not start. -/
def enginesFull (s : Chip) : Bool := !isFenced s .ci && (engineFor s).isNone

def execCipherJob (ring : Nat) (ops : CipherJobOps) (s : State) : Host.Outcome State Fault Refusal :=
  onUnit (decide (ring < 64)) s fun s => if enginesFull s then s else runOrder ring (.cipherJob ring ops) noNeeds (cipherJob ring ops) s

/-! Running (R374 to R377) -/

/-- Outputs of a job: what goes to DST, and for GCM encryption the tag. -/
structure JobOut where
  data : List Byte
  tag : List Byte := []

/-- One of CBC, CFB, CTR and XTS over the whole blocks of a job. -/
def plainMode (d : JobDesc) (key src : List Nat) : List Byte :=
  let iv := toNats d.iv
  let bs := blocksOf src
  let rk := roundKeys key
  ofNats (match d.mode with
    | 1 => ((if d.decrypt then cbcDec rk iv bs else cbcEnc rk iv bs)).flatten
    | 2 => ((if d.decrypt then cfbDec rk iv bs else cfbEnc rk iv bs)).flatten
    | 3 => (ctrBlocks rk 128 (bnat iv) bs).flatten
    | _ => xts (!d.decrypt) key iv src)

/-- GCM of a job under an IV: the tag covers the AAD and the real bytes (R374). -/
def gcmMode (d : JobDesc) (iv key src aad : List Nat) : JobOut :=
  let out := gcmCrypt (roundKeys key) iv src
  let real := d.length - 16 + d.tail
  { data := ofNats out
    tag := ofNats (gcmTag (roundKeys key) (gcmJ0 iv) aad ((if d.decrypt then src else out).take real)) }

/-- The IV a slot gives GCM encryption (R375). -/
def slotIv (l : LookSlot) : List Nat := bytesBE 4 l.fixed ++ bytesBE 8 l.counter

/-- A key length that a MODE cannot use (R377). -/
def keyLenBad (mode len : Nat) : Bool := if mode = 5 then len = 16 else len = 64

/-- The run of a job on its slot as it stands: a status that ends it, or its outputs and the slot after it. -/
def runJob (d : JobDesc) (env : JobEnv) (slot : Option LookSlot) : Status ⊕ (JobOut × LookSlot) :=
  match slot with
  | none => .inl .keyAbsent
  | some l =>
    let key := toNats l.key
    let src := toNats (padTo d.length 0 env.src)
    let aad := toNats (padTo d.aadLen 0 env.aad)
    if keyLenBad d.mode l.key.length then .inl .badOperand
    else if d.mode ≠ 4 then
      if d.mode = 3 && decide (2 ^ 128 < beNat d.iv + d.length / 16) then .inl .nonceExhausted
      else .inr ({ data := plainMode d key src }, l)
    else if d.decrypt then
      let r := gcmMode d (toNats (d.iv.take 12)) key src aad
      if r.tag = padTo 16 0 env.tag then .inr ({ data := r.data }, l) else .inl .authFail
    else if l.counter = 2 ^ 64 - 1 then .inl .nonceExhausted
    else .inr (gcmMode d (slotIv l) key src aad, { l with counter := l.counter + 1 })

/-- The next job of an engine: host and firmware jobs in rotation (R372). -/
def nextJob (g : EngineSt) : Option JobSt :=
  match g.jobs.find? (fun j => j.ring.isSome == g.hostTurn) with
  | some j => some j
  | none => g.jobs.head?

/-- Takes a job out of its engine's queue; the other kind has the next turn. -/
def takeJob (e : Nat) (j : JobSt) (s : Chip) : Chip :=
  modCipher (fun c => { c with engines := smod {} c.engines e (fun g => { g with jobs := g.jobs.erase j, hostTurn := !j.ring.isSome }) }) s

/-- The end of a job. A firmware job completes no Order. -/
def endJob (j : JobSt) (st : Status) (res : DWord) (s : Chip) : Chip :=
  match j.ring with | none => s | some r => finishOrder r st res s

/-- An engine whose rerun met parity again is taken out of use; with none left the island is fenced (R379). -/
def engineFails (e : Nat) (s : Chip) : Chip :=
  let s := raise .ci (0x05 + e) clsCipher 2 (engineOutOfUse e s)
  if (span 0 4).all (fun k => s.cipher.engineOut.contains k) && !isFenced s .ci then
    fenceIsland .ci 1 (raise .ci 0x09 clsCipher 3 s)
  else s

/-- A run on the slot's key ends with outputs, or with a tag that does not match: parity can be met in it (R379). -/
def ranTo (st : Status) : Bool := st = .authFail

/-- An engine runs its next job. Parity met once raises an S1 fault and is rerun; met again, the job completes with `FENCED`. The counter
value of a job that fails so is used up. -/
def runEngine (e : Nat) (env : JobEnv) (s : Chip) : Chip :=
  match nextJob (engineOf s e) with
  | none => s
  | some j =>
    if dead s || isFenced s .ci then s
    else
      let s := takeJob e j s
      let d := jobDesc j.desc
      let slot := sget none s.cipher.look d.slot
      match runJob d env slot with
      | .inl st =>
        if !ranTo st || env.parity.isNone then endJob j st 0 s
        else if env.parity = some true then engineFails e (endJob j .fenced 0 s)
        else raise .ci (0x01 + e) clsCipher 1 (endJob j st 0 s)
      | .inr (out, l) =>
        let s := modCipher (fun c => { c with look := sput none c.look d.slot (some l) }) s
        if env.parity = some true then engineFails e (endJob j .fenced 0 s)
        else
          let s := hostWrite d.dst out.data s
          let s := if out.tag = [] then s else hostWrite d.tagAddr out.tag s
          let used := if d.mode = 4 && !d.decrypt then l.counter - 1 else 0
          let s := endJob j .ok (BitVec.ofNat 64 used) s
          if env.parity.isSome then raise .ci (0x01 + e) clsCipher 1 s else s

def execLookasideJobRun (engine : Nat) (env : JobEnv) (s : State) : Host.Outcome State Fault Refusal :=
  onUnit (decide (engine < 4)) s fun s => runEngine engine env s

end Sys2Proof.Machine
end

