-- ==== Sys2Proof/Machine/Signalman.lean ====
section
/-!
DEFINITION. The Signalmen (R463 to R476): fetching, microwords, bus operations under the governor, micro-traps.
-/

namespace Sys2Proof.Machine

/-! Micro-state -/

/-- A scratch register (R464). -/
def scratch (m : SmSt) (r : Nat) : Nat := sget 0 m.m.s r

/-- Writes a scratch register. -/
def setScratch (r v : Nat) (m : SmSt) : SmSt := { m with m := { m.m with s := sput 0 m.m.s r (v % 2 ^ 64) } }

/-- Bytes of a Signalman's local data memory; a byte nothing has written reads 0 (R463). -/
def locBytes (m : SmSt) (off n : Nat) : List Byte := (span off n).map (fun a => sget 0#8 m.loc a)

/-- Writes bytes of the local data memory. -/
def putLoc (off : Nat) (bs : List Byte) (m : SmSt) : SmSt :=
  { m with loc := ((span off bs.length).zip bs).foldl (fun l x => sput 0#8 l x.1 x.2) m.loc }

/-- The Signalman executes words: the device runs, its microcode is loaded (only Signalman 0 runs before that, R75), it is neither
fenced nor halted. -/
def smRuns (s : Chip) (n : Nat) : Bool :=
  let m := smOf s n
  !dead s && (s.boot.done || (n = 0 && s.boot.stage ≠ 0 && s.boot.stage ≠ 0x0F)) && !m.fenced && !m.halted

/-! Micro-traps (R469 to R472) -/

/-- A breakpoint stands at the next address (R470, R483). -/
def bpHit (m : SmSt) : Bool := !m.passBp && m.bps.any (fun x => x.2 = some m.m.addr)

/-- A trap of cause `c` is due. -/
def trapDue (m : SmSt) (c : Nat) : Bool :=
  if c = 3 then bpHit m else if c = 5 then m.steps = some 0 else m.due.contains c

/-- A trap of cause `c` is due and may be taken now: causes 3 to 5 also inside a handler, BRACKET also inside its bracket. -/
def trapNow (m : SmSt) (c : Nat) : Bool :=
  trapDue m c && m.wait.isNone && (m.bracket = 0 || c = 8) && (!m.inTrap || (3 ≤ c && c ≤ 5))

/-- Takes a trap: the save frame, and the handler's entry or the debug port's halt (R470, R471). A count of words to single-step goes on
in the handler (R480). -/
def enterTrap (c : Nat) (m : SmSt) : SmSt :=
  let m := { m with save := m.m, saveCause := c, lastCause := c, due := m.due.filter (fun k => ¬ k = c) }
  if 3 ≤ c && c ≤ 5 then { m with halted := true, steps := none }
  else { m with inTrap := true, bracket := 0, m := { m.m with addr := redirect m (0x10 * c) } }

/-- A trap of cause `c` is taken. The handlers of WATCHDOG, STACK, ILLEGAL and BRACKET abandon the routine, and their fault is raised
(R472, R475). -/
def takeTrap (n c : Nat) (s : Chip) : Chip :=
  let s := modSm n (fun m => let m := enterTrap c m; if m.halted then { m with haltedAt := runNs s } else m) s
  if c = 2 || 6 ≤ c then
    let s := modSm n (fun m => { m with running := false }) (abandonCall n .governed s)
    raise .sb ((if c = 2 then 0 else 0x30) + n) clsFirmware 2 s
  else s

/-- Causes taken at a boundary without a command of their own: EVENT, WATCHDOG, STACK and ILLEGAL, the lowest first. -/
def settleTraps (n : Nat) (s : Chip) : Chip :=
  match [1, 2, 6, 7].find? (trapNow (smOf s n)) with
  | none => s
  | some c => takeTrap n c s

/-- Marks a trap as due. -/
def markDue (c : Nat) (m : SmSt) : SmSt := { m with due := nadd m.due c }

/-- A command that takes the trap of cause `c` if it can be taken now. -/
def takeIfNow (n c : Nat) (s : Chip) : Chip :=
  if smRuns s n && trapNow (smOf s n) c then takeTrap n c s else s

/-! Fields of a microword (R464) -/

def wSeq (w : Nat) : Nat := bits w 108 4
def wHold (w : Nat) : Bool := bit w 107
def wWait (w : Nat) : Bool := bit w 106
def wCneg (w : Nat) : Bool := bit w 105
def wCond (w : Nat) : Nat := bits w 100 5
def wTarget (w : Nat) : Nat := bits w 85 15
def wAlu (w : Nat) : Nat := bits w 79 6
def wDst (w : Nat) : Nat := bits w 75 4
def wSrcA (w : Nat) : Nat := bits w 71 4
def wSrcB (w : Nat) : Nat := bits w 67 4
def wImmB (w : Nat) : Bool := bit w 66
def wFupd (w : Nat) : Bool := bit w 65
def wBus (w : Nat) : Nat := bits w 61 4
def wBreg (w : Nat) : Nat := bits w 57 4
def wImm (w : Nat) : Nat := bits w 0 48

/-- The word is illegal: a reserved code, or in a bracket a wait on anything but BUS_DONE (R464, R466, R468, R469). -/
def wIllegal (w : Nat) : Bool :=
  8 < wSeq w || (0x0A < wCond w && wCond w < 0x10) || 0x0C < wAlu w || 8 < wBus w ||
    (wHold w && wWait w && (wCond w ≠ 5 || wCneg w))

/-- Source operands (R468). -/
def wA (m : SmSt) (w : Nat) : Nat := scratch m (wSrcA w)
def wB (m : SmSt) (w : Nat) : Nat := if wImmB w then wImm w else scratch m (wSrcB w)

/-! Bus operations and the governor (R468, R474) -/

/-- What a bus operation gives: the word for DST or a status for its bits [15:0], failure or refusal, a clamp. -/
structure BusRes where
  value : Option Nat := none
  status : Nat := 0
  err : Bool := false
  governed : Bool := false

/-- An operation that failed with a status. -/
def busFail (st : Status) (s : Chip) : BusRes × Chip := ({ status := st.code, err := true }, s)

/-- An operation the governor refuses: counted, a fault, no effect (R474, R475). -/
def busRefuse (n : Nat) (st : Status) (s : Chip) : BusRes × Chip :=
  busFail st (raise .sb (0x10 + n) clsFirmware 2 (bump .sb 0x0380 1 s))

/-- FREAD: one word as FIELD_READ without LIVE reads it. -/
def busFread (n w : Nat) (s : Chip) : BusRes × Chip :=
  let r := readRange false (scratch (smOf s n) (wBreg w) % 2 ^ 44) 1 s
  if r.1 = .ok then ({ value := some (match r.2.1 with | [] => 0 | x :: _ => x.toNat) }, r.2.2) else busFail r.1 r.2.2

/-- A write the governor refuses: read-only words of the Timetable and CAB_FENCED, and the host's own words of the PCIe Cabin
(R383, R456, R474). -/
def fwriteRefused (ca : Nat) (mask : Word) : Option Status :=
  match wordAt ca with
  | .inl _ => none
  | .inr (i, off) => match wordSpec i off with
    | none => if i = .pc then some .privDenied else none
    | some x =>
      if i = .tt && 0x100 ≤ off && mask &&& BitVec.ofNat 32 x.ro ≠ 0 then some .badOperand
      else if off = 0 && bit mask.toNat 31 then some .badOperand
      else none

/-- FWRITE: a write of R118. A word of a MICRO_CALL routine keeps the staged value from before (R472). -/
def busFwrite (n w : Nat) (s : Chip) : BusRes × Chip :=
  let m := smOf s n
  let ca := scratch m (wBreg w) % 2 ^ 44
  let value : Word := BitVec.ofNat 32 (wA m w)
  let mask : Word := BitVec.ofNat 32 (wImm w)
  match fwriteRefused ca mask with
  | some st => busRefuse n st s
  | none =>
    let old := stagedW s ca
    let r := writeWord ca value mask s
    let good := r.1 = .ok || r.1 = .governed
    let staged := match wordAt ca with
      | .inl _ => false
      | .inr (i, off) => match wordSpec i off with | none => false | some x => x.rws ≠ 0
    let keep (m : SmSt) : SmSt :=
      match sfind m.undo ca with
      | none => { m with undo := sins m.undo ca (old, mask) }
      | some (o, k) => { m with undo := sins m.undo ca (mergeW old o k, k ||| mask) }
    let s := if good && staged && m.call.isSome then modSm n keep r.2.2 else r.2.2
    if r.1 = .governed then ({ value := some r.2.1.toNat, governed := true }, countClamp n s)
    else if good then ({ value := some r.2.1.toNat }, s)
    else busFail r.1 s

/-- DMA_RD and DMA_WR. The bytes read are host memory's, as the command carries them; a read that did not return them all fails. -/
def busDma (n w : Nat) (write : Bool) (dma : List Byte) (s : Chip) : BusRes × Chip :=
  let m := smOf s n
  let addr := scratch m (wBreg w)
  let off := wA m w
  let len := wImm w % 65536
  if len = 0 || 4096 < len then busFail .badOperand s
  else if 65536 < off + len then busFail .range s
  else if !inRegion s addr len (fun _ attr => bit attr 2 && (!write || bit attr 1)) then busRefuse n .range s
  else if !hostUp s || (!write && decide (dma.length < len)) then busFail .badOperand s
  else if write then ({}, hostWrite addr (locBytes m off len) s)
  else ({}, modSm n (putLoc off (dma.take len)) s)

/-- The status of a code of R10. -/
def statusOf (code : Nat) : Option Status :=
  [Status.ok, .privDenied, .badOpcode, .badOperand, .range, .fenced, .busy, .timeout, .noRoom, .notFound, .existsAlready, .epochBusy,
   .epochStale, .keyBusy, .keyAbsent, .nonceExhausted, .authFail, .causePresent, .notAcked, .incomplete, .bistFail, .conditions,
   .trainFail, .governed, .pending].find? (fun st => st.code = code)

/-- The ring whose Order at work has a tag (log 77). -/
def orderNamed (s : Chip) (tag : Nat) : Option Nat :=
  (s.host.rings.find? (fun x => match x.2.running with
    | none => false
    | some o => o.tag == tag && o.outcome.isNone)).map (fun x => x.1)

/-- A POST of `PENDING` writes the one completion of that status that R103 gives an Order with PROGRESS. -/
def busPostPending (ring : Nat) (res : DWord) (s : Chip) : BusRes × Chip :=
  match (ringOf s ring).running with
  | none => busFail .badOperand s
  | some o =>
    if !hostUp s || o.orphan || !o.progress || o.pendingWritten then busFail .badOperand s
    else ({}, modRing ring (fun v => { v with running := some { o with pendingWritten := true } }) (writeCompletion ring o .pending res s))

/-- POST: the completion of the Order named, if one at work has that tag, else an event record (log 77). -/
def busPost (n w : Nat) (s : Chip) : BusRes × Chip :=
  let m := smOf s n
  match orderNamed s (wImm w % 65536) with
  | some ring => match statusOf (scratch m 8 / 2 ^ 16 % 2 ^ 16) with
    | none => busFail .badOperand s
    | some .pending => busPostPending ring (BitVec.ofNat 64 (scratch m 9)) s
    | some st => ({}, finishOrder ring st (BitVec.ofNat 64 (scratch m 9)) s)
  | none =>
    let q := bits (wImm w) 16 8
    if 16 ≤ q then busFail .range s
    else
      let bs := leBytes 8 (scratch m 8) ++ leBytes 8 (scratch m 9)
      let r := deliverTry q { record := true, inPort := 0xFFFF, reason := 0, ts := 0, bytes := bs, waybill := [] } s
      if r.1 then ({}, r.2) else busFail .noRoom r.2

/-- FRAME operations a port may still take now: those of the last ms are fewer than 1,000 (R474). -/
def framesLately (s : Chip) (p : Nat) : List Nat :=
  (sget [] s.sb.frames p).filter (fun t => decide (elapsed s t < 1000000))

/-- FRAME: a DIRECT frame into the management queue of a configured port (R121, R474). -/
def busFrame (n w : Nat) (s : Chip) : BusRes × Chip :=
  let m := smOf s n
  let off := wA m w
  let len := wB m w % 2 ^ 14
  let p := wImm w % 512
  if (portOf s p).isNone then busRefuse n .range s
  else if len < 60 || 10240 < len then busFail .badOperand s
  else if 65536 < off + len then busFail .range s
  else if 1000 ≤ (framesLately s p).length then busRefuse n .governed s
  else
    let s := { s with sb := { s.sb with frames := sput [] s.sb.frames p (framesLately s p ++ [runNs s]) } }
    ({}, settle (directFrame none none (queueId p 15) (locBytes m off len) s))

/-- Every buffer of a firmware job lies in a region with FIRMWARE (R90, R372). -/
def descFirmware (s : Chip) (d : JobDesc) : Bool :=
  let ok (a n : Nat) (write : Bool) : Bool := inRegion s a n (fun _ attr => bit attr 2 && (!write || bit attr 1))
  ok d.src d.length false && ok d.dst d.length true && (d.aadLen = 0 || ok d.aad d.aadLen false) &&
    (d.mode ≠ 4 || ok d.tagAddr 16 true)

/-- CJOB: a lookaside job of the firmware (R372). -/
def busCjob (n w : Nat) (s : Chip) : BusRes × Chip :=
  let m := smOf s n
  let off := wA m w
  if 65536 < off + 64 then busFail .range s
  else
    let b := locBytes m off 64
    let d := jobDesc b
    if descBad b || descOverlap d then busFail .badOperand s
    else if 255 < d.slot then busFail .range s
    else if !descFirmware s d then busRefuse n .range s
    else if isFenced s .ci then busFail .fenced (countFencedReq .ci s)
    else match engineFor s with
      | none => busFail .busy s
      | some e => ({}, queueJob e { ring := none, desc := b } s)

/-- The domains the word a bus operation names needs on (R50). -/
def busNeeds (n w : Nat) (s : Chip) : List Nat :=
  let m := smOf s n
  let ca := scratch m (wBreg w) % 2 ^ 44
  if wBus w = 1 then writeDomains s ca 0 0
  else if wBus w = 2 && (fwriteRefused ca (BitVec.ofNat 32 (wImm w))).isNone then
    writeDomains s ca (BitVec.ofNat 32 (wA m w)) (BitVec.ofNat 32 (wImm w))
  else []

/-- Carries out a word's bus operation (R468). -/
def busOp (n w : Nat) (dma : List Byte) (s : Chip) : BusRes × Chip :=
  match wBus w with
  | 1 => busFread n w s
  | 2 => busFwrite n w s
  | 3 => busDma n w false dma s
  | 4 => busDma n w true dma s
  | 5 => busPost n w s
  | 6 => busFrame n w s
  | 7 => busCjob n w s
  | 8 => ({ value := some (nowTs s) }, s)
  | _ => ({}, s)

/-! Conditions (R467) -/

/-- An Order is ready to start, or one handed over to the Signalman's duty is at work. -/
def orderReady (s : Chip) (n : Nat) : Bool :=
  if n = 0 then hostUp s && s.boot.done && (ringTurn s).isSome
  else s.host.rings.any (fun x => match x.2.running with
    | none => false
    | some o => o.outcome.isNone && !o.begun && (match o.cmd with | none => false | some c => (orderDuties c).any (fun d => executor s d = n)))

/-- The condition before CNEG. The routine timer and the duty input word come from hardware the spec does not describe: free values. -/
def condRaw (n : Nat) (b : BusWait) (s : Chip) : Bool × Chip :=
  let m := smOf s n
  let c := wCond b.word
  match c with
  | 0 => (true, s)
  | 1 => (m.m.z, s)
  | 2 => (m.m.n, s)
  | 3 => (m.m.c, s)
  | 4 => (m.m.v, s)
  | 5 => (b.done, s)
  | 6 => (b.done && b.err, s)
  | 7 => (b.done && b.governed, s)
  | 8 => (orderReady s n, s)
  | 9 => (m.events ≠ [], s)
  | _ => (bit (freeNext s).toNat 0, freeTake s)

/-- The word's condition. -/
def condOf (n : Nat) (b : BusWait) (s : Chip) : Bool × Chip :=
  let r := condRaw n b s
  (r.1 != wCneg b.word, r.2)

/-! The ALU (R468) -/

/-- Result, carry and overflow of an operation; `none` for a carry or an overflow the spec does not give. -/
structure AluRes where
  value : Option Nat
  c : Option Bool := none
  v : Option Bool := none

/-- Sign of a 64-bit value. -/
def neg64 (x : Nat) : Bool := bit x 63

/-- A − B. The spec does not say how C shows a borrow. -/
def aluSub (a b : Nat) : AluRes :=
  let r := (a + 2 ^ 64 - b % 2 ^ 64) % 2 ^ 64
  { value := some r, v := some (neg64 a != neg64 b && neg64 r != neg64 a) }

/-- The ALU operations. -/
def alu (op a b imm : Nat) : AluRes :=
  match op with
  | 1 => { value := some a }
  | 2 => { value := some imm }
  | 3 =>
    let r := (a + b) % 2 ^ 64
    { value := some r, c := some (decide (2 ^ 64 ≤ a + b)), v := some (neg64 a == neg64 b && neg64 r != neg64 a) }
  | 4 => aluSub a b
  | 5 => { value := some (a &&& b) }
  | 6 => { value := some (a ||| b) }
  | 7 => { value := some (a ^^^ b) }
  | 8 => { value := some (2 ^ 64 - 1 - a % 2 ^ 64) }
  | 9 => { value := some (a * 2 ^ (b % 64) % 2 ^ 64) }
  | 10 => { value := some (a / 2 ^ (b % 64)) }
  | 11 => aluSub a b
  | 12 => { value := some (a &&& b) }
  | _ => { value := none }

/-- The ALU part of a word: DST and the flags. CMP and TEST set the flags and write nothing. A flag the spec does not give is free. -/
def runAlu (n w : Nat) (s : Chip) : Chip :=
  let m := smOf s n
  let op := wAlu w
  let r := alu op (wA m w) (wB m w) (wImm w)
  match r.value with
  | none => s
  | some x =>
    let m := if 11 ≤ op then m else setScratch (wDst w) x m
    if wFupd w || 11 ≤ op then
      let f := (freeNext s).toNat
      let m := { m with m := { m.m with z := x == 0, n := neg64 x, c := r.c.getD (bit f 0), v := r.v.getD (bit f 1) } }
      let s := if r.c.isNone || r.v.isNone then freeTake s else s
      modSm n (fun _ => m) s
    else modSm n (fun _ => m) s

/-! The sequencer (R466) -/

/-- Next address and micro-state; `none`: a stack fault. `cond` is the word's condition, `a` its own address. -/
def sequence (w a : Nat) (cond : Bool) (m : SmSt) : Option (Nat × SmSt) :=
  let next := (a + 1) % 2 ^ 15
  match wSeq w with
  | 1 => some (wTarget w, m)
  | 2 => some (if cond then wTarget w else next, m)
  | 3 =>
    if 8 ≤ m.m.stack.length then none
    else
      let m := { m with m := { m.m with stack := m.m.stack ++ [next] } }
      some (wTarget w, if m.running then m else { m with running := true, events := m.events.tail })
  | 4 => match m.m.stack.getLast? with
    | none => none
    | some x => some (x, { m with m := { m.m with stack := m.m.stack.dropLast } })
  | 5 =>
    let lc := (m.m.lc + 65535) % 65536
    some (if lc = 0 then next else wTarget w, { m with m := { m.m with lc := lc } })
  | 6 => some (next, { m with m := { m.m with lc := wImm w % 65536 } })
  | 7 => some (0x0100, { m with m := { m.m with stack := [] }, running := false, inTrap := false })
  | 8 =>
    some (m.save.addr, { m with m := m.save, inTrap := false, events := if m.inTrap && m.saveCause = 1 then m.events.tail else m.events })
  | _ => some (next, m)

/-- The sequencer part of a word. A stack fault marks its trap; the address then is the next one. -/
def runSeq (w : Nat) (cond : Bool) (m : SmSt) : SmSt :=
  let a := m.m.addr
  match sequence w a cond m with
  | some (x, m) => { m with m := { m.m with addr := redirect m x } }
  | none => markDue 6 { m with m := { m.m with addr := redirect m ((a + 1) % 2 ^ 15) } }

/-! One word (R464, R465) -/

/-- What every word leaves: its place in a bracket, BRACKET at the 65th, one step less, the breakpoint passed. -/
def afterWord (hold : Bool) (m : SmSt) : SmSt :=
  let k := if hold then m.bracket + 1 else 0
  let m := { m with bracket := k, wait := none, passBp := false, steps := m.steps.map (fun x => x - 1) }
  if k = 65 then markDue 8 m else m

/-- The end of a routine's turn by YIELD ends the MICRO_CALL Order it ran for, with s0 (R478). -/
def yieldCall (n w : Nat) (s : Chip) : Chip :=
  let m := smOf s n
  match m.call with
  | none => s
  | some ring =>
    if wSeq w = 7 then
      modSm n (fun m => { m with call := none, undo := [] }) (finishOrder ring .ok (BitVec.ofNat 64 (scratch m 0)) s)
    else s

/-- A turn that begins with a word takes the time (R470). -/
def beginTurn (s : Chip) (before after : SmSt) : SmSt :=
  if after.running && !before.running then { after with turnAt := runNs s } else after

/-- A word's effects: ALU, the bus operation's result, the sequencer, then the boundary. -/
def finishWord (n : Nat) (b : BusWait) (cond : Bool) (s : Chip) : Chip :=
  let w := b.word
  let s := runAlu n w s
  let put (m : SmSt) : SmSt :=
    if wBus w = 0 then m
    else match b.value with
      | some v => setScratch (wDst w) v m
      | none => setScratch (wDst w) (scratch m (wDst w) / 65536 * 65536 + b.status) m
  let s := yieldCall n w (modSm n put s)
  settleTraps n (modSm n (fun m => afterWord (wHold w) (beginTurn s m (runSeq w cond m))) s)

/-- A waiting word ends in the cycle its condition is true; a word that does not wait ends at once (R465). -/
def cycleWord (n : Nat) (b : BusWait) (s : Chip) : Chip :=
  let r := condOf n b s
  if wWait b.word && !r.1 then modSm n (fun m => { m with wait := some b }) r.2 else finishWord n b r.1 r.2

/-- An illegal word has no effect of its own and traps (R470). -/
def illegalWord (n w : Nat) (s : Chip) : Chip :=
  settleTraps n (modSm n (fun m =>
    afterWord (wHold w) (markDue 7 { m with m := { m.m with addr := redirect m ((m.m.addr + 1) % 2 ^ 15) } })) s)

/-- Issues the word's bus operation and begins its wait, or ends it. -/
def issueWord (n w : Nat) (inp : MwIn) (s : Chip) : Chip :=
  match busNeeds n w s with
  | [] =>
    let r := busOp n w inp.dma s
    cycleWord n { word := w, done := inp.answered || wBus w = 0, err := r.1.err, governed := r.1.governed, value := r.1.value
                  status := r.1.status } r.2
  | ns => wantDomains ns s

/-- A patch word that is bad again after its re-fetch: the patch set is disabled, the routine abandoned, and the Signalman goes on in ROM
at its dispatcher (R475; log 78). -/
def patchBad (n : Nat) (s : Chip) : Chip :=
  let s := modSm n (fun m => clearSm { m with patched := false }) (abandonCall n .governed s)
  raise .sb (0x50 + n) clsFirmware 2 s

/-- A patch word with a parity error is fetched again from the decrypted patch set, and rewritten from it (R473). A word that the set does not
hold stays (log 78). -/
def refetch (m : SmSt) (k : Nat) : Sparse Nat := match sfind m.image k with | none => m.patch | some w => sins m.patch k w

/-- The Signalman fetches and executes one word, or one more cycle of a word that waits. A word of the control store is the one the
command carries, since the spec does not give the ROM; a word of patch RAM is the stored one. -/
def runWord (n w : Nat) (inp : MwIn) (s : Chip) : Chip :=
  let m := smOf s n
  if !smRuns s n || trapNow m 3 || trapNow m 4 || trapNow m 5 || trapNow m 8 then s
  else match m.wait with
    | some b => if b.word = w then cycleWord n b s else s
    | none =>
      let a := m.m.addr
      let p := if 0x4000 ≤ a then inp.parity else none
      let m := if p = some .clean then { m with patch := refetch m (a - 0x4000) } else m
      if 0x4800 ≤ a then illegalWord n 0 s
      else if 0x4000 ≤ a && p ≠ some .bad && sget 0 m.patch (a - 0x4000) ≠ w then s
      else match p with
        | some .bad => patchBad n s
        | p =>
          let s := if p = some .clean then raise .sb (0x40 + n) clsFirmware 1 (modSm n (fun _ => m) s) else s
          if !smRuns s n then s
          else if wIllegal w then illegalWord n w s
          else issueWord n w inp s

/-- A row of the microword: the command's word with the row's code in the row's field. -/
def runRow (lo wd code n : Nat) (inp : MwIn) (s : State) : Host.Outcome State Fault Refusal :=
  onUnit (decide (n < 16)) s fun s => runWord n (putField inp.word.toNat lo wd code) inp s

/-! The rows of the microword (R466, R468) -/

/-- NEXT: this address + 1 (R466). -/
def execMwSeqNext (sm : Nat) (w : MwIn) (s : State) : Host.Outcome State Fault Refusal := runRow 108 4 0 sm w s

/-- JUMP: TARGET (R466). -/
def execMwSeqJump (sm : Nat) (w : MwIn) (s : State) : Host.Outcome State Fault Refusal := runRow 108 4 1 sm w s

/-- BRANCH: TARGET if the condition is true (R466). -/
def execMwSeqBranch (sm : Nat) (w : MwIn) (s : State) : Host.Outcome State Fault Refusal := runRow 108 4 2 sm w s

/-- CALL: TARGET, the next address pushed (R466). -/
def execMwSeqCall (sm : Nat) (w : MwIn) (s : State) : Host.Outcome State Fault Refusal := runRow 108 4 3 sm w s

/-- RETURN: the top of the micro-stack (R466). -/
def execMwSeqReturn (sm : Nat) (w : MwIn) (s : State) : Host.Outcome State Fault Refusal := runRow 108 4 4 sm w s

/-- LOOP: LC decremented, TARGET while it is not 0 (R466). -/
def execMwSeqLoop (sm : Nat) (w : MwIn) (s : State) : Host.Outcome State Fault Refusal := runRow 108 4 5 sm w s

/-- LDLOOP: LC = IMM[15:0] (R466). -/
def execMwSeqLdloop (sm : Nat) (w : MwIn) (s : State) : Host.Outcome State Fault Refusal := runRow 108 4 6 sm w s

/-- YIELD: the dispatcher, the micro-stack emptied (R463, R466). It ends a trap handler too (log 79). -/
def execMwSeqYield (sm : Nat) (w : MwIn) (s : State) : Host.Outcome State Fault Refusal := runRow 108 4 7 sm w s

/-- TRAPRET: the save frame restored (R466, R471). -/
def execMwSeqTrapret (sm : Nat) (w : MwIn) (s : State) : Host.Outcome State Fault Refusal := runRow 108 4 8 sm w s

/-- No ALU operation (R468). -/
def execMwAluNop (sm : Nat) (w : MwIn) (s : State) : Host.Outcome State Fault Refusal := runRow 79 6 0 sm w s

/-- DST = A (R468). -/
def execMwAluMov (sm : Nat) (w : MwIn) (s : State) : Host.Outcome State Fault Refusal := runRow 79 6 1 sm w s

/-- DST = IMM (R468). -/
def execMwAluImm (sm : Nat) (w : MwIn) (s : State) : Host.Outcome State Fault Refusal := runRow 79 6 2 sm w s

/-- DST = A + B (R468). -/
def execMwAluAdd (sm : Nat) (w : MwIn) (s : State) : Host.Outcome State Fault Refusal := runRow 79 6 3 sm w s

/-- DST = A − B (R468). -/
def execMwAluSub (sm : Nat) (w : MwIn) (s : State) : Host.Outcome State Fault Refusal := runRow 79 6 4 sm w s

/-- DST = A AND B (R468). -/
def execMwAluAnd (sm : Nat) (w : MwIn) (s : State) : Host.Outcome State Fault Refusal := runRow 79 6 5 sm w s

/-- DST = A OR B (R468). -/
def execMwAluOr (sm : Nat) (w : MwIn) (s : State) : Host.Outcome State Fault Refusal := runRow 79 6 6 sm w s

/-- DST = A XOR B (R468). -/
def execMwAluXor (sm : Nat) (w : MwIn) (s : State) : Host.Outcome State Fault Refusal := runRow 79 6 7 sm w s

/-- DST = NOT A (R468). -/
def execMwAluNot (sm : Nat) (w : MwIn) (s : State) : Host.Outcome State Fault Refusal := runRow 79 6 8 sm w s

/-- DST = A << B[5:0] (R468). -/
def execMwAluShl (sm : Nat) (w : MwIn) (s : State) : Host.Outcome State Fault Refusal := runRow 79 6 9 sm w s

/-- DST = A >> B[5:0] (R468). -/
def execMwAluShr (sm : Nat) (w : MwIn) (s : State) : Host.Outcome State Fault Refusal := runRow 79 6 10 sm w s

/-- The flags from A − B (R468). -/
def execMwAluCmp (sm : Nat) (w : MwIn) (s : State) : Host.Outcome State Fault Refusal := runRow 79 6 11 sm w s

/-- The flags from A AND B (R468). -/
def execMwAluTest (sm : Nat) (w : MwIn) (s : State) : Host.Outcome State Fault Refusal := runRow 79 6 12 sm w s

/-- FREAD (R468). -/
def execMwBusFread (sm : Nat) (w : MwIn) (s : State) : Host.Outcome State Fault Refusal := runRow 61 4 1 sm w s

/-- FWRITE (R468, R474). -/
def execMwBusFwrite (sm : Nat) (w : MwIn) (s : State) : Host.Outcome State Fault Refusal := runRow 61 4 2 sm w s

/-- DMA_RD (R468, R474). -/
def execMwBusDmaRd (sm : Nat) (w : MwIn) (s : State) : Host.Outcome State Fault Refusal := runRow 61 4 3 sm w s

/-- DMA_WR (R468, R474). -/
def execMwBusDmaWr (sm : Nat) (w : MwIn) (s : State) : Host.Outcome State Fault Refusal := runRow 61 4 4 sm w s

/-- POST (R468). -/
def execMwBusPost (sm : Nat) (w : MwIn) (s : State) : Host.Outcome State Fault Refusal := runRow 61 4 5 sm w s

/-- FRAME (R468, R474). -/
def execMwBusFrame (sm : Nat) (w : MwIn) (s : State) : Host.Outcome State Fault Refusal := runRow 61 4 6 sm w s

/-- CJOB (R468, R372). -/
def execMwBusCjob (sm : Nat) (w : MwIn) (s : State) : Host.Outcome State Fault Refusal := runRow 61 4 7 sm w s

/-- TREAD: the time in the report format (R468, R391). -/
def execMwBusTread (sm : Nat) (w : MwIn) (s : State) : Host.Outcome State Fault Refusal := runRow 61 4 8 sm w s

/-- The bus operation of a waiting word finishes (R465). -/
def busDone (n : Nat) (s : Chip) : Chip :=
  match (smOf s n).wait with
  | none => s
  | some b => if smRuns s n && !b.done then cycleWord n { b with done := true } s else s

def execMwBusDone (sm : Nat) (s : State) : Host.Outcome State Fault Refusal :=
  onUnit (decide (sm < 16)) s fun s => busDone sm s

/-! The rows of the micro-traps (R470) -/

/-- An event enters the duty event queue. EVENT is due where the queue was empty while a routine runs with its event mask clear. -/
def dutyEvent (n event : Nat) (s : Chip) : Chip :=
  if dead s || !s.boot.done || (smOf s n).fenced then s
  else
    let m := smOf s n
    let s := modSm n (fun m => { m with events := m.events ++ [event] }) s
    if m.events = [] && m.running && !m.mask then
      let s := modSm n (markDue 1) s
      if smRuns s n then settleTraps n s else s
    else s

def execMicrotrapEvent (sm event : Nat) (s : State) : Host.Outcome State Fault Refusal :=
  onUnit (decide (sm < 16) && decide (event < 16)) s fun s => dutyEvent sm event s

/-- The routine at work has run for 10 ms, without the time its Signalman was halted. -/
def watchdogTrap (n : Nat) (s : Chip) : Chip :=
  if smRuns s n && (smOf s n).running && decide (10000000 ≤ elapsed s (smOf s n).turnAt) then settleTraps n (modSm n (markDue 2) s) else s

def execMicrotrapWatchdog (sm : Nat) (s : State) : Host.Outcome State Fault Refusal :=
  onUnit (decide (sm < 16)) s fun s => watchdogTrap sm s

def execMicrotrapBreak (sm : Nat) (s : State) : Host.Outcome State Fault Refusal :=
  onUnit (decide (sm < 16)) s fun s => takeIfNow sm 3 s

/-- A halt the debug port has asked for is taken at the next trap point. -/
def execMicrotrapHalt (sm : Nat) (s : State) : Host.Outcome State Fault Refusal :=
  onUnit (decide (sm < 16)) s fun s => takeIfNow sm 4 s

def execMicrotrapStep (sm : Nat) (s : State) : Host.Outcome State Fault Refusal :=
  onUnit (decide (sm < 16)) s fun s => takeIfNow sm 5 s

def execMicrotrapBracket (sm : Nat) (s : State) : Host.Outcome State Fault Refusal :=
  onUnit (decide (sm < 16)) s fun s => takeIfNow sm 8 s

end Sys2Proof.Machine
end

