-- ==== Sys2Proof/Machine/Debug.lean ====
section
/-!
DEFINITION. MICRO_CALL (R478), the test access port and the debug port (R479 to R482).
-/

namespace Sys2Proof.Machine

/-! MICRO_CALL (R478) -/

/-- STATUS. -/
def microStatus (sm : Nat) (s : Chip) : Status × DWord × Chip :=
  if 16 ≤ sm then (.range, 0, s) else (.ok, BitVec.ofNat 64 (smState s sm), s)

def execMicroCallStatus (ring sm : Nat) (s : State) : Host.Outcome State Fault Refusal :=
  onUnit (decide (ring < 64)) s fun s => endOrder ring (.microCallStatus ring sm) noNeeds (microStatus sm) s

/-- A Signalman starts again at its dispatcher: a fence and a debug halt end, the Order of a routine is abandoned, and its duties
return to it (R476, R478, R483). -/
def restartSm (n : Nat) (s : Chip) : Chip :=
  let s := modSm n (fun m => { clearSm m with fenced := false, halted := false }) (abandonCall n .governed s)
  { s with sb := { s.sb with cover := if s.sb.cover = some n then none else s.sb.cover
                             lapsed := s.sb.lapsed.filter (fun k => ¬ k = n) } }

/-- RESTART. -/
def microRestart (sm : Nat) (s : Chip) : Status × DWord × Chip :=
  if 16 ≤ sm then (.range, 0, s)
  else if sm = 0 || (sm = 3 && s.sb.cover = some 0) then (.busy, 0, s)
  else (.ok, 0, restartSm sm s)

def execMicroCallRestart (ring sm : Nat) (s : State) : Host.Outcome State Fault Refusal :=
  onUnit (decide (ring < 64)) s fun s => endOrder ring (.microCallRestart ring sm) noNeeds (microRestart sm) s

/-- The Signalman is at its dispatcher between two turns and runs. -/
def smIdle (m : SmSt) : Bool :=
  !m.running && m.call.isNone && !m.inTrap && m.wait.isNone && !m.halted && m.steps.isNone

/-- CALL: the routine begins with s0 and s1, and the Order ends at its YIELD. -/
def microCall (ring : Nat) (o : MicroCallOps) (s : Chip) : Ran :=
  if 16 ≤ o.sm then .done .range 0 s
  else if (smOf s o.sm).fenced then .done .fenced 0 s
  else .going (modSm o.sm (fun m =>
    let m := setScratch 1 o.arg1.toNat (setScratch 0 o.arg0.toNat m)
    { m with m := { m.m with addr := redirect m (0x3F00 + o.entry % 256) }, running := true, turnAt := runNs s, call := some ring, undo := [] }) s)

/-- A CALL waits until the Signalman has ended its turn. -/
def callWaits (o : MicroCallOps) (s : Chip) : Bool :=
  decide (o.sm < 16) && !(smOf s o.sm).fenced && !smIdle (smOf s o.sm)

def execMicroCallCall (ring : Nat) (ops : MicroCallOps) (s : State) : Host.Outcome State Fault Refusal :=
  onUnit (decide (ring < 64)) s fun s => if callWaits ops s then s else runOrder ring (.microCallCall ring ops) noNeeds (microCall ring ops) s

/-! The test access port (R479) -/

/-- Loads the instruction register. -/
def tapSelect (ir : Nat) (s : Chip) : Chip := { s with power := { s.power with tapIr := ir } }

/-- The boundary-scan register belongs to the board design package: the pins it drives and samples are left out (log 80). -/
def execTapExtest (s : State) : Host.Outcome State Fault Refusal := onChip s fun s => tapSelect 0x00 s

/-- IDCODE: version 0x0, part 0x5120, the manufacturer code of the board design package, and 1. -/
def idcode : Nat := pack [(28, 4, 0), (12, 16, 0x5120), (1, 11, Config.idcodeMaker.toNat), (0, 1, 1)]

def execTapIdcode (s : State) : Host.Outcome State Fault Refusal := onChip s fun s => emit (.tdo idcode) (tapSelect 0x01 s)

def execTapSamplePreload (s : State) : Host.Outcome State Fault Refusal := onChip s fun s => tapSelect 0x02 s

def execTapDebug (s : State) : Host.Outcome State Fault Refusal := onChip s fun s => tapSelect 0x20 s

/-- Every code without an instruction of its own acts as BYPASS. -/
def execTapBypass (code : Nat) (s : State) : Host.Outcome State Fault Refusal :=
  onChip s fun s => tapSelect (if [0x00, 0x01, 0x02, 0x20].contains (code % 256) then 0xFF else code % 256) s

/-! The debug TAP (R480, R481) -/

/-- The debug TAP answers. -/
def answer (st : Status) (bs : List Byte) (s : Chip) : Chip := emit (.debug st bs) s

/-- A command of the debug TAP reaches it through DEBUG while the device runs. With the vendor lock fuse set it answers LOCKED (R481). -/
def dbg (f : Chip → Chip) (s : Chip) : Chip :=
  if dead s || s.power.tapIr ≠ 0x20 then s else if Config.vendorLock then emit .debugLocked s else f s

/-- A command to a Signalman: `RANGE` if there is no such one. -/
def dbgSm (sm : Nat) (f : Chip → Chip) (s : Chip) : Chip := dbg (fun s => if 16 ≤ sm then answer .range [] s else f s) s

/-- STATUS, which the vendor lock allows. -/
def debugStatus (sm : Nat) (s : Chip) : Chip :=
  if dead s || s.power.tapIr ≠ 0x20 then s
  else if 16 ≤ sm then answer .range [] s
  else answer .ok (leBytes 4 (smState s sm)) s

def execDbgStatus (sm : Nat) (s : State) : Host.Outcome State Fault Refusal := onChip s fun s => debugStatus sm s

/-- HALT: at once where a trap can be taken now, else at the next trap point. A Signalman that is halted or fenced stays so. -/
def debugHalt (n : Nat) (s : Chip) : Chip :=
  answer .ok [] (if smRuns s n then takeIfNow n 4 (modSm n (markDue 4) s) else s)

def execDbgHalt (sm : Nat) (s : State) : Host.Outcome State Fault Refusal := onChip s fun s => dbgSm sm (debugHalt sm) s

/-- A Signalman that goes on is at a boundary: a trap that became due while it was halted is taken there, before the next word is fetched
(R469). -/
def resumeSm (n : Nat) (s : Chip) : Chip :=
  let s := modSm n (fun m => { m with halted := false, turnAt := if m.halted then (m.turnAt + elapsed s m.haltedAt) % 2 ^ 48 else m.turnAt }) s
  if smRuns s n then settleTraps n s else s

/-- RUN: the Signalman goes on; a halt asked for is withdrawn. -/
def debugRun (n : Nat) (s : Chip) : Chip :=
  answer .ok [] (resumeSm n (modSm n (fun m => { m with steps := none, due := m.due.filter (fun k => ¬ k = 4)
                                                        passBp := m.passBp || m.halted }) s))

def execDbgRun (sm : Nat) (s : State) : Host.Outcome State Fault Refusal := onChip s fun s => dbgSm sm (debugRun sm) s

/-- STEP: with the Signalman halted, n words. Otherwise it changes nothing (log 81). -/
def debugStep (n k : Nat) (s : Chip) : Chip :=
  if k = 0 || 65535 < k then answer .badOperand [] s
  else if !(smOf s n).halted then answer .badOperand [] s
  else answer .ok [] (resumeSm n (modSm n (fun m => { m with steps := some k, passBp := true }) s))

def execDbgStep (sm n : Nat) (s : State) : Host.Outcome State Fault Refusal := onChip s fun s => dbgSm sm (debugStep sm n) s

/-- BP_SET and BP_CLR. -/
def debugBp (n k : Nat) (a : Option Nat) (s : Chip) : Chip :=
  if 8 ≤ k then answer .badOperand [] s
  else answer .ok [] (modSm n (fun m => { m with bps := sput none m.bps k (a.map (fun x => x % 2 ^ 15)) }) s)

def execDbgBpSet (sm k addr : Nat) (s : State) : Host.Outcome State Fault Refusal :=
  onChip s fun s => dbgSm sm (debugBp sm k (some addr)) s

def execDbgBpClr (sm k : Nat) (s : State) : Host.Outcome State Fault Refusal := onChip s fun s => dbgSm sm (debugBp sm k none) s

/-- The 160 bytes of a save frame (R471). -/
def frameBytes (m : MicroSt) (cause : Nat) : List Byte :=
  leBytes 2 m.addr ++ leBytes 1 (pack [(0, 1, b2n m.z), (1, 1, b2n m.n), (2, 1, b2n m.c), (3, 1, b2n m.v)]) ++
  leBytes 1 m.stack.length ++ leBytes 2 m.lc ++ leBytes 2 cause ++
  ((span 0 8).map (fun k => leBytes 2 (nth 0 m.stack k))).flatten ++ repl 8 0#8 ++
  ((span 0 16).map (fun k => leBytes 8 (sget 0 m.s k))).flatten

/-- SAVE_READ. -/
def debugSave (n : Nat) (s : Chip) : Chip :=
  let m := smOf s n
  answer .ok (frameBytes m.save m.saveCause) s

def execDbgSaveRead (sm : Nat) (s : State) : Host.Outcome State Fault Refusal := onChip s fun s => dbgSm sm (debugSave sm) s

/-- A place within a Signalman's memories exists. -/
def spaceOk : DbgSpace → Bool
  | .control n a => n < 16 && a < 0x4000
  | .patch n k => n < 16 && k < 2048
  | .trap n k => n < 16 && k < 64
  | .localMem n off len => n < 16 && decide (off + len ≤ 65536)
  | .scratch n r => n < 16 && r < 16
  | .field _ => true

/-- The 8 bytes of a trap entry, as the patch container lays them out (R74). -/
def trapBytes : Option TrapEntry → List Byte
  | none => repl 8 0#8
  | some t => leBytes 2 t.addr ++ leBytes 2 t.target ++ leBytes 1 (b2n t.enable) ++ repl 3 0#8

/-- MEM_READ. A field is read as FIELD_READ reads one word; one of a domain that is off is reached once the domain is on (R50). -/
def debugRead (p : DbgSpace) (s : Chip) : Chip :=
  if !spaceOk p then answer .range [] s
  else match p with
    | .control n a => answer .ok (leBytes 14 (Config.romWord (16384 * n + a)).toNat) s
    | .patch n k => answer .ok (leBytes 14 (sget 0 (smOf s n).patch k)) s
    | .trap n k => answer .ok (trapBytes (sget none (smOf s n).traps k)) s
    | .localMem n off len => answer .ok (locBytes (smOf s n) off len) s
    | .scratch n r => answer .ok (leBytes 8 (scratch (smOf s n) r)) s
    | .field ca => match writeDomains s ca 0 0 with
      | [] =>
        let r := readRange false ca 1 s
        answer r.1 ((r.2.1.map (fun x => leBytes 4 x.toNat)).flatten) r.2.2
      | ns => wantDomains ns s

def execDbgMemRead (space : DbgSpace) (s : State) : Host.Outcome State Fault Refusal := onChip s fun s => dbg (debugRead space) s

/-- MEM_WRITE. The control store is read only. A word of patch RAM or a trap entry takes effect at once (R473). -/
def debugWrite (p : DbgSpace) (value mask : Nat) (bs : List Byte) (s : Chip) : Chip :=
  if !spaceOk p then answer .range [] s
  else match p with
    | .control _ _ => answer .badOperand [] s
    | .patch n k =>
      answer .ok [] (modSm n (fun m => { m with patch := sins m.patch k (leAt bs 0 14), patched := true }) s)
    | .trap n k =>
      let t : TrapEntry := ⟨leAt bs 0 2, leAt bs 2 2, bit (leAt bs 4 1) 0⟩
      answer .ok [] (modSm n (fun m => { m with traps := sins m.traps k (some t), patched := true }) s)
    | .localMem n off len => answer .ok [] (modSm n (putLoc off (bs.take len)) s)
    | .scratch n r => answer .ok [] (modSm n (setScratch r (leAt bs 0 8)) s)
    | .field ca =>
      let v : Word := BitVec.ofNat 32 value
      let k : Word := BitVec.ofNat 32 mask
      match writeDomains s ca v k with
      | [] =>
        let r := writeWord ca v k s
        answer r.1 (leBytes 4 r.2.1.toNat) r.2.2
      | ns => wantDomains ns s

def execDbgMemWrite (space : DbgSpace) (value mask : Nat) (bytes : List Byte) (s : State) : Host.Outcome State Fault Refusal :=
  onChip s fun s => dbg (debugWrite space value mask bytes) s

/-! Traces (R482) -/

/-- The record of one Course: containers, scratch words, system fields in the order of their codes, predicates, action ID and hit,
action data, hashes and Ledger results (R482; log 82). -/
def traceRecord (d : CourseMid) (m : Manifest) : List Byte :=
  let rd (code : Nat) : Nat := readOp m {} code
  let part (n lo count : Nat) : List Byte := ((span lo count).map (fun k => leBytes n (rd k))).flatten
  part 1 0 64 ++ part 2 0x40 96 ++ part 4 0xA0 96 ++ part 4 0x100 32 ++ part 4 0x180 48 ++
  leBytes 4 m.preds ++ leBytes 2 d.action ++ leBytes 2 (b2n d.hit) ++
  ((span 0 8).map (fun k => leBytes 4 (nth 0 d.res.ad k))).flatten ++
  leBytes 4 d.res.hash0 ++ leBytes 8 d.res.hash1 ++ leBytes 4 d.res.lg0 ++ leBytes 4 d.res.lg1 ++ repl 4 0#8

/-- The Courses of a bank on the frame, each with its record. Ledgers are as they stand at every Course. -/
def traceCourses (env : LineEnv) (tables : List TableDecl) (ls : List LedgerInst) : Nat → List Course → LineRun → List Byte × LineRun
  | _, [], r => ([], r)
  | n, c :: cs, r =>
    let d := courseMid env tables n c r
    let r := { courseEnd env n c d r with ledgers := ls }
    let rest := traceCourses env tables ls (n + 1) cs r
    (traceRecord d r.m ++ rest.1, rest.2)

/-- The bank a trace names: 0 current, 1 draining, 2 staged. What is not staged stays as it is at the commit (R214). -/
def traceBank (l : LineSt) (k : Nat) : Option Bank × Option Graph :=
  if k = 0 then (l.curProg, l.curGraph)
  else if k = 1 then (l.drnProg, l.drnGraph)
  else (match l.stgProg with | none => l.curProg | p => p, match l.stgGraph with | none => l.curGraph | g => g)

/-- TRACE_RUN on a Line that is fenced. -/
def traceRun (o : TraceOps) (s : Chip) : Chip :=
  let l := lineOf s o.egress o.line
  let b := traceBank l o.bank
  let bytes := locBytes (smOf s o.sm) o.off o.len
  let prog := b.1.map (fun x => x.prog)
  let p := parseFrame o.egress b.2 prog bytes [] { pktLen := bytes.length }
  let env : LineEnv :=
    { insts := l.insts, binds := (match b.1 with | none => [] | some b => b.binds)
      lbinds := (match b.1 with | none => [] | some b => b.lbinds), cur := decide (o.bank ≠ 1)
      hashKeys := (span 0 4).map (fun k => sget none s.cipher.hash k)
      time := [s.time.ns, s.time.sec % 2 ^ 32, s.time.sec / 2 ^ 32, s.time.frac] }
  let r := traceCourses env (match prog with | none => [] | some g => g.tables) l.ledgers 0
    (match prog with | none => [] | some g => g.courses) { m := p.m, ledgers := l.ledgers, rnd := l.rnd, free := s.free }
  let s := modLine o.egress o.line (fun l => { l with rnd := r.2.rnd }) s
  { s with free := r.2.free
           sb := { s.sb with traces := sput [] s.sb.traces (2 * o.line + b2n o.egress) r.1 } }

/-- TRACE_RUN. -/
def debugTrace (o : TraceOps) (s : Chip) : Chip :=
  if 36 ≤ o.line || 16 ≤ o.sm || 10240 < o.len || 65536 < o.off + o.len then answer .range [] s
  else if 2 < o.bank then answer .badOperand [] s
  else if !isFenced s (lineIsl o.egress o.line) then answer .fenced [] s
  else answer .ok [] (traceRun o s)

def execDbgTraceRun (ops : TraceOps) (s : State) : Host.Outcome State Fault Refusal := onChip s fun s => dbg (debugTrace ops) s

/-- TRACE_READ: the records of the Line's last trace. -/
def debugTraceRead (egress : Bool) (n : Nat) (s : Chip) : Chip :=
  if 36 ≤ n then answer .range [] s else answer .ok (sget [] s.sb.traces (2 * n + b2n egress)) s

def execDbgTraceRead (egress : Bool) (line : Nat) (s : State) : Host.Outcome State Fault Refusal :=
  onChip s fun s => dbg (debugTraceRead egress line) s

end Sys2Proof.Machine
end

