-- ==== Sys2Proof/Machine/Telemetry.lean ====
section
/-!
DEFINITION. Telemetry (file 15): the exporter's messages, the queue depth monitors, dumps, and the Orders DUMP_SET and HIST_SET.
-/

namespace Sys2Proof.Machine

/-! Messages (R417, R418) -/

/-- Writes 16 bits in network order into a frame. -/
def put16At (bs : List Byte) (o v : Nat) : List Byte := overlay bs o (beBytes 2 v)

/-- The frame of a message: ENCAP with its lengths and checksums filled, then the message (R418). The UDP header is the last 8 bytes
of ENCAP. A computed UDP checksum of 0 is sent as 0xFFFF (PRESUMED, RFC 8200, log 72). -/
def encapsulate (x : ExportSt) (msg : List Byte) : List Byte :=
  let len := x.field 0x1C 1
  let ip := x.field 0x1E 1
  let enc := (x.record.drop 0x40).take len
  let udp := len - 8
  let enc := put16At (put16At enc (udp + 4) (8 + msg.length)) (udp + 6) 0
  if x.field 0x1D 1 = 0 then
    let enc := put16At (put16At enc (ip + 2) (len - ip + msg.length)) (ip + 10) 0
    put16At enc (ip + 10) (0xFFFF - onesSum (slice enc ip (udp - ip))) ++ msg
  else
    let enc := put16At enc (ip + 4) (len - ip - 40 + msg.length)
    let pseudo := slice enc (ip + 8) 32 ++ beBytes 4 (8 + msg.length) ++ beBytes 4 17
    let c := 0xFFFF - onesSum (pseudo ++ enc.drop udp ++ msg)
    put16At enc (udp + 6) (if c = 0 then 0xFFFF else c) ++ msg

/-- A message of one set (R417). -/
def ipfixMessage (s : Chip) (x : ExportSt) (set : Nat) (body : List Byte) : List Byte :=
  beBytes 2 0x000A ++ beBytes 2 (20 + body.length) ++ beBytes 4 s.time.sec ++ beBytes 4 x.seq ++ beBytes 4 (x.field 0x14 4) ++
  beBytes 2 set ++ beBytes 2 (4 + body.length) ++ body

/-- Template 256 (R417): identifier and length of each element. -/
def templateBody : List Byte :=
  beBytes 2 256 ++ beBytes 2 6 ++ beBytes 2 10 ++ beBytes 2 4 ++ beBytes 2 14 ++ beBytes 2 4 ++ beBytes 2 89 ++ beBytes 2 1 ++
  beBytes 2 312 ++ beBytes 2 2 ++ beBytes 2 0x8001 ++ beBytes 2 64 ++ beBytes 4 Config.pen.toNat ++ beBytes 2 315 ++ beBytes 2 0xFFFF

/-- Sends the frame of a message of `n` data records from an export port, which it takes at 400 Gbit/s (R418). A port that is configured no
longer takes no frame: its records are lost (log 71). -/
def sendMessage (e n : Nat) (msg : List Byte) (s : Chip) : Chip :=
  let x := exportSt s e
  if (portOf s (x.field 0x04 2)).isNone then countPosts e n false s
  else
    let bytes := encapsulate x msg
    let took := (runNs s + remaining s x.busyTo + (bytes.length + 49) / 50) % 2 ^ 48
    directFrame none (some (e, n)) (queueId (x.field 0x04 2) (x.field 0x03 1)) bytes (modExport e (fun x => { x with busyTo := took }) s)

/-- The export port has sent what it sent last (R418). -/
def exportIdle (s : Chip) (e : Nat) : Bool := decide (remaining s (exportSt s e).busyTo = 0)

/-- How many of a list of records fit a message of `room` bytes. -/
def fitRecords : Nat → List (List Byte) → Nat
  | _, [] => 0
  | room, r :: rs => if r.length ≤ room then 1 + fitRecords (room - r.length) rs else 0

/-- Records that wait go into the next message as far as it holds them (R418). -/
def openMessage (e : Nat) (s : Chip) : Chip :=
  modExport e (fun x =>
    if x.open' ≠ [] then x
    else
      let n := fitRecords (x.field 0x06 2 - 20) x.queued
      { x with open' := x.queued.take n, queued := x.queued.drop n, openAt := if n = 0 then x.openAt else runNs s }) s

/-- The open message is closed and sent (R418). -/
def closeMessage (e : Nat) (s : Chip) : Chip :=
  let x := exportSt s e
  if x.open' = [] then s
  else
    let n := x.open'.length
    sendMessage e n (ipfixMessage s x 256 x.open'.flatten) (modExport e (fun x => { x with open' := [] }) s)

/-- A message is closed: the next record would make it longer than MSG_MAX, or FLUSH_US have passed since its first record (R418). -/
def messageDue (s : Chip) (e : Nat) : Bool :=
  let x := exportSt s e
  exportIdle s e && x.open' ≠ [] && (x.queued ≠ [] || decide (1000 * x.field 0x18 2 ≤ elapsed s x.openAt))

/-- The exporter works: the device runs and its island is not fenced. -/
def exporterUp (s : Chip) : Bool := !dead s && !isFenced s .tm

/-- A message that is due is closed, and the next one opened (R418). -/
def execIpfixMessageClose (portE : Nat) (s : State) : Host.Outcome State Fault Refusal :=
  onUnit (decide (portE < 2)) s fun s =>
    if exporterUp s && messageDue s portE then settle (openMessage portE (closeMessage portE s)) else s

/-- The template is sent in a message of its own (R417, log 73). -/
def sendTemplate (e : Nat) (s : Chip) : Chip :=
  let x := exportSt s e
  if x.field 0 1 = 1 then sendMessage e 0 (ipfixMessage s x 2 templateBody) (modExport e (fun x => { x with templAt := runNs s }) s) else s

/-- TEMPLATE_S seconds have passed since the last template, and the port has sent what it was sending (R417). -/
def templateDue (s : Chip) (e : Nat) : Bool :=
  let x := exportSt s e
  exportIdle s e && decide (1000000000 * x.field 0x1A 2 ≤ elapsed s x.templAt)

def execIpfixTemplateSend (portE : Nat) (s : State) : Host.Outcome State Fault Refusal :=
  onUnit (decide (portE < 2)) s fun s => if exporterUp s && templateDue s portE then settle (sendTemplate portE s) else s

/-! Monitors (R419 to R423) -/

/-- The queues that exist (R29, R223). -/
def queueList (s : Chip) : List Nat :=
  ((portList s).map (fun p => (span 0 20).map (queueId p))).flatten ++ span 10240 36

/-- Each queue's depth goes into its monitor, while the Yard has power (R419). -/
def sampleDepths (s : Chip) : Chip :=
  ((queueList s).filter (fun q => isOn s (.yard (queueYard s q)))).foldl (fun t q => monSample 2 q (depthOf s q) t) s

/-- Every 1 µs (R419). -/
def execQueueDepthSample (s : State) : Host.Outcome State Fault Refusal :=
  onChip s fun s => if dead s then s else sampleDepths s

/-- A monitor whose interval has been captured (R421). -/
def Mon.restart (m : Mon) : Mon := { m with min := max32, max := 0, icount := 0 }

/-- The word CFG of a histogram entry (R422). -/
def Mon.cfg (m : Mon) : Nat := pack [(31, 1, b2n m.linear), (16, 15, m.step), (0, 16, m.base)]

/-- A histogram entry (R422). -/
def monBytes (m : Mon) : List Byte :=
  ((span 0 32).map (fun b => leBytes 8 (sget 0 m.bins b))).flatten ++ leBytes 4 m.min ++ leBytes 4 m.max ++ leBytes 4 m.cfg ++
  leBytes 4 m.icount

/-- Number of monitors of a KIND (R419). -/
def monCount (kind : Nat) : Nat := nth 0 [10276, 512, 10276, 512, 64, 10] kind

/-- The port or queue of a monitor exists (R419). -/
def monExists (s : Chip) (kind idx : Nat) : Bool :=
  if kind = 0 || kind = 2 then queueExists s idx else if kind = 1 then (portOf s idx).isSome else true

/-- The monitors a HIST_SET names: INDEX 0xFFFF is every one of KIND. -/
def monTargets (kind idx : Nat) : List Nat := if idx = 0xFFFF then span 0 (monCount kind) else [idx]

/-- The islands of monitors (R419). -/
def monIslands (s : Chip) (kind : Nat) (idxs : List Nat) : List Isl :=
  (idxs.filterMap (fun i => monOwner s (65536 * kind + i))).eraseDups

/-- A monitor's island is fenced, or no Line serves its queue or port. -/
def monFenced (s : Chip) (kind idx : Nat) : Bool :=
  match monOwner s (65536 * kind + idx) with | none => decide (kind < 2) | some i => isFenced s i

/-- Domains a HIST_SET needs (R50). -/
def histNeeds (kind idx : Nat) (s : Chip) : List Nat :=
  if kind ≤ 5 && (idx = 0xFFFF || decide (idx < monCount kind)) then offDomains s (monIslands s kind (monTargets kind idx)) else []

/-- The checks of R423 that need the device's state. -/
def histChecks (s : Chip) (kind idx : Nat) : Option (Status × Chip) :=
  if idx ≠ 0xFFFF && !monExists s kind idx then some (.notFound, s)
  else match (monTargets kind idx).filter (monFenced s kind) with
    | [] => none
    | i :: _ => some (.fenced, match monOwner s (65536 * kind + i) with | none => s | some x => countFencedReq x s)

/-- KIND or INDEX is out of range (R423). -/
def histRange (kind idx : Nat) : Bool := decide (5 < kind) || (idx ≠ 0xFFFF && decide (monCount kind ≤ idx))

/-- A binning is bad for its KIND (R423). A STEP that CFG has no room for is one too (log 70). -/
def binningBad (o : HistOps) : Bool :=
  if o.linear then decide (o.kind ≤ 1) || o.step = 0 || decide (32768 ≤ o.step)
  else o.step ≠ 0 || o.base = 0 || (decide (o.kind ≤ 1) && decide (1000 < o.base))

/-- Effect of HIST_SET SET (R423). -/
def histSet (o : HistOps) (s : Chip) : Status × DWord × Chip :=
  if histRange o.kind o.index then (.range, 0, s)
  else if binningBad o then (.badOperand, 0, s)
  else match histChecks s o.kind o.index with
    | some (e, s) => (e, 0, s)
    | none => (.ok, 0, (monTargets o.kind o.index).foldl (fun s i =>
        setMon o.kind i { linear := o.linear, step := o.step, base := o.base } s) s)

/-- HIST_SET SET (R423). -/
def execHistSetSet (ring : Nat) (ops : HistOps) (s : State) : Host.Outcome State Fault Refusal :=
  onUnit (decide (ring < 64)) s fun s => endOrder ring (.histSetSet ring ops) (histNeeds ops.kind ops.index) (histSet ops) s

/-- Effect of HIST_SET CLEAR (R423). -/
def histClear (o : HistOps) (s : Chip) : Status × DWord × Chip :=
  if histRange o.kind o.index then (.range, 0, s)
  else if binningBad o then (.badOperand, 0, s)
  else match histChecks s o.kind o.index with
    | some (e, s) => (e, 0, s)
    | none => (.ok, 0, (monTargets o.kind o.index).foldl (fun s i =>
        setMon o.kind i { (monOf s o.kind i).restart with bins := [] } s) s)

/-- HIST_SET CLEAR (R423). -/
def execHistSetClear (ring : Nat) (ops : HistOps) (s : State) : Host.Outcome State Fault Refusal :=
  onUnit (decide (ring < 64)) s fun s => endOrder ring (.histSetClear ring ops) (histNeeds ops.kind ops.index) (histClear ops) s

/-- Effect of HIST_SET READ (R423). -/
def histRead (o : HistReadOps) (s : Chip) : Status × DWord × Chip :=
  if histRange o.kind o.index then (.range, 0, s)
  else if o.index = 0xFFFF || o.payload.len ≠ 272 then (.badOperand, 0, s)
  else match histChecks s o.kind o.index with
    | some (e, s) => (e, 0, s)
    | none => (.ok, 0, writePayload (some o.payload) (monBytes (monOf s o.kind o.index)) s)

/-- HIST_SET READ (R423). -/
def execHistSetRead (ring : Nat) (ops : HistReadOps) (s : State) : Host.Outcome State Fault Refusal :=
  onUnit (decide (ring < 64)) s fun s => endOrder ring (.histSetRead ring ops) (histNeeds ops.kind ops.index) (histRead ops) s

/-! Dumps (R427 to R430) -/

/-- The island at a place of the island section (R428). -/
def dumpIsl (i : Nat) : Option Isl :=
  let d := i / 32
  let k := i % 32
  if 128 ≤ i then islOf (0xC00 + (i - 128))
  else if k < 8 then some (.platform (8 * d + k))
  else if k < 16 then some (.iline (8 * d + (k - 8)))
  else if k = 16 then some (.iline (32 + d))
  else if k < 25 then some (.eline (8 * d + (k - 17)))
  else if k = 25 then some (.eline (32 + d))
  else if k < 28 then some (.yard (2 * d + (k - 26)))
  else if k < 30 then some (.quarry (2 * d + (k - 28)))
  else none

/-- The sections of monitors: section bit, KIND, offset, entries (R428). -/
def dumpSections : List (Nat × Nat × Nat × Nat) :=
  [(1, 1, 0x008000, 512), (2, 3, 0x02A000, 512), (3, 4, 0x04C000, 64), (3, 5, 0x050400, 16), (4, 0, 0x060000, 10276),
   (5, 2, 0x310000, 10276)]

/-- KINDs that a section mask selects. -/
def dumpKinds (sections : Nat) : List Nat := (dumpSections.filter (fun x => bit sections x.1)).map (fun x => x.2.1)

/-- One island's capture (R427, R428). Its capture time, within 50 ns of the tick, is a free value. -/
def captureIsland (i : Isl) (s : Chip) : IslandDump × Chip :=
  let skew : Int := ((freeNext s).toNat % 6553601 : Nat) - 3276800
  ({ cycles := pmcCycles s i
     counts := (span 0 8).map (pmcCnt s i)
     ctls := (span 0 8).map (pmcCtl s i)
     istate := pack [(31, 1, 1), (30, 1, b2n (isFenced s i))]
     skew := unsignedOf 32 skew }, freeTake s)

/-- The captures of every island, by place; `none` for one whose domain is off. -/
def captureIslands (s : Chip) : Sparse (Option IslandDump) × Chip :=
  (span 0 138).foldl (fun (r : Sparse (Option IslandDump) × Chip) k =>
    match dumpIsl k with
    | none => r
    | some i =>
      if isOn r.2 i then let c := captureIsland i r.2; (r.1 ++ [(k, some c.1)], c.2) else (r.1 ++ [(k, none)], r.2)) ([], s)

/-- The monitors of selected KINDs whose island's domain is off (R433). -/
def darkMons (s : Chip) (kinds : List Nat) : NatSet :=
  if (span 0 72).all (fun n => (domainSt s n).on) then []
  else (kinds.map (fun k => ((span 0 (monCount k)).map (fun i => 65536 * k + i)).filter (fun key =>
    match monOwner s key with | none => false | some i => !isOn s i))).flatten

/-- The time of day in ns, with `d` 2^-32 ns added (R380). -/
def dayNs (t : TimeSt) (d : Int) : Int := ((t.sec * 1000000000 + t.ns : Nat) * 2 ^ 32 + t.frac + d) / 2 ^ 32

/-- The multiple of PERIOD_US that the time of day `ns` has reached, in ns (R427). -/
def dumpTime (s : Chip) (ns : Int) : Int := ns / (1000 * s.tm.period : Nat) * (1000 * s.tm.period : Nat)

/-- The clock passes a multiple of PERIOD_US at its next tick (R427). A step that jumps across one, or goes back, is no such passing. -/
def dumpPasses (s : Chip) : Bool :=
  s.tm.dumpEn && !aonLost s && decide (dumpTime s (dayNs s.time 0) < dumpTime s (dayNs s.time (effIncr s.time)))

/-- A dump tick captures what the sections select and restarts the intervals of the monitors it captures (R421, R427). -/
def capture (s : Chip) : Chip :=
  let t := s.tm
  let at' := (dumpTime s (dayNs s.time 0)).toNat % (2 ^ 48 * 1000000000)
  let kinds := dumpKinds t.sections
  let mine (x : Nat × Option Mon) : Bool := kinds.contains (x.1 / 65536)
  let r := if bit t.sections 0 then captureIslands s else ([], s)
  let s := r.2
  let rec' : DumpRec :=
    { ring := t.ring, base := t.base, count := t.count, notify := if t.notify then some t.vector else none
      sections := t.sections, flags := pack [(0, 1, b2n s.time.holdover), (4, 4, s.time.stepCount)], seq := t.seq + 1
      time := report (at' / 1000000000) (at' % 1000000000) 0 s.time.holdover, run := s.time.run, period := t.period
      skipped := t.skipped, seconds := at' / 1000000000
      islands := r.1, mons := t.mons.filter mine, dark := darkMons s kinds }
  let next : Sparse (Option Mon) := t.mons.filterMap (fun x =>
    if mine x then
      match x.2 with
      | none => none
      | some m => if m.restart = resetMon (x.1 / 65536) (x.1 % 65536) then none else some (x.1, some m.restart)
    else some x)
  { s with tm := { s.tm with mons := next, seq := t.seq + 1, skipped := 0, writing := some rec' } }

/-- A dump tick (R427): one that finds the last record still being written is skipped. -/
def dumpTick (s : Chip) : Chip :=
  if !exporterUp s || !s.tm.dumpEn then s
  else if s.tm.writing.isSome then { s with tm := { s.tm with skipped := satAdd max32 s.tm.skipped 1 } }
  else capture s

/-- The block with no command waiting: the Timetable ticks; a multiple of PERIOD_US that it passes captures a dump before the counters take
in this tick; each DRAM channel has a command opportunity (logs 1, 63). -/
def blockTick (s : Chip) : Chip :=
  let t := clockTick s
  tickChannels (pmcTick (if dumpPasses s then dumpTick t else t))

/-- The clock passes a multiple of PERIOD_US: this is the tick of that moment (R427). -/
def execDumpTick (s : State) : Host.Outcome State Fault Refusal := onChip s fun s => if dumpPasses s then blockTick s else s

/-- The header of a record (R428). -/
def dumpHeader (r : DumpRec) : List Byte :=
  leBytes 4 0x50554D44 ++ leBytes 2 1 ++ leBytes 1 r.sections ++ leBytes 1 r.flags ++ leBytes 8 r.seq ++ leBytes 8 r.time ++
  leBytes 8 r.run ++ leBytes 4 r.period ++ leBytes 4 r.skipped ++ leBytes 4 0x5C0040 ++ leBytes 4 0 ++ leBytes 8 r.seconds ++
  leBytes 8 0

/-- An island entry (R428). -/
def islandBytes (x : Option IslandDump) : List Byte :=
  match x with
  | none => repl 0x68 0#8 ++ leBytes 4 (2 ^ 29) ++ repl 20 0#8
  | some d =>
    leBytes 8 d.cycles ++ (d.counts.map (leBytes 8)).flatten ++ (d.ctls.map (leBytes 4)).flatten ++ leBytes 4 d.istate ++
      leBytes 4 d.skew ++ repl 16 0#8

/-- A monitor's entry in a record. -/
def dumpMon (r : DumpRec) (kind idx : Nat) : List Byte :=
  let key := 65536 * kind + idx
  if r.dark.contains key || monCount kind ≤ idx then repl 272 0#8
  else monBytes (match sget none r.mons key with | none => resetMon kind idx | some m => m)

/-- The parts of a record that are written: offset and bytes (R428). -/
def dumpParts (r : DumpRec) : List (Nat × List Byte) :=
  [(0, dumpHeader r)] ++
  (if bit r.sections 0 then r.islands.map (fun x => (0x1000 + 128 * x.1, islandBytes x.2)) else []) ++
  ((dumpSections.filter (fun x => bit r.sections x.1)).map (fun x =>
    (span 0 x.2.2.2).map (fun i => (x.2.2.1 + 272 * i, dumpMon r x.2.1 i)))).flatten ++
  [(0x5C0000, leBytes 8 r.seq ++ repl 56 0#8)]

/-- Byte `x` of a record: 0 where nothing is written (R428, R430). -/
def dumpByte (r : DumpRec) (x : Nat) : Byte :=
  match (dumpParts r).find? (fun p => decide (p.1 ≤ x) && decide (x < p.1 + p.2.length)) with
  | none => 0
  | some p => nth 0#8 p.2 (x - p.1)

/-- Byte `x` of BAR2 (R430): 0 unless PC_COUNTER_USER_ENABLE is 1 (R88), before the first record and past its end. -/
def bar2Byte (s : Chip) (x : Nat) : Byte :=
  if !s.host.counterUser then 0 else match s.tm.last with | none => 0 | some r => dumpByte r x

/-- The record at work is written (R429): to its host buffer, where a region still takes it, and to BAR2. -/
def dumpWritten (s : Chip) : Chip :=
  match s.tm.writing with
  | none => s
  | some r =>
    let s := { s with tm := { s.tm with writing := none, last := some r } }
    if r.count = 0 then s
    else
      let at' := r.base + 0x5C1000 * ((r.seq - 1) % r.count)
      if !payloadOk s r.ring at' 0x5C1000 true then bump .tm 0x0108 1 s
      else
        let s := (dumpParts r).foldl (fun s p => hostWrite (at' + p.1) p.2 s) s
        match r.notify with | none => s | some v => msix v s

/-- A record is written (R429). -/
def execDumpRecordWritten (s : State) : Host.Outcome State Fault Refusal :=
  onChip s fun s => if exporterUp s then dumpWritten s else s

/-! DUMP_SET (R431) -/

/-- A check of DUMP_SET has failed: a fenced exporter answers every DUMP_SET with `FENCED`. -/
def exporterFenced (s : Chip) : Bool := isFenced s .tm

/-- Effect of DUMP_SET OP 0 (R431). -/
def dumpSet (ring : Nat) (o : DumpOps) (s : Chip) : Status × DWord × Chip :=
  if o.periodUs < 100 || 10000000 < o.periodUs || (1000000 % o.periodUs ≠ 0 && o.periodUs % 1000000 ≠ 0) ||
      (o.sections = 0 && o.en) || o.base % 4096 ≠ 0 || 64 < o.count then (.badOperand, 0, s)
  else if 0 < o.count && !payloadOk s ring o.base (0x5C1000 * o.count) true then (.range, 0, s)
  else if exporterFenced s then (.fenced, 0, countFencedReq .tm s)
  else
    let t := { s.tm with dumpEn := o.en, notify := o.notify, base := o.base, period := o.periodUs, sections := o.sections
                         count := o.count, vector := o.vector, ring := ring }
    (.ok, 0, { s with tm := if o.en then { t with seq := 0, skipped := 0 } else t })

/-- DUMP_SET OP 0 (R431). -/
def execDumpSetDump (ring : Nat) (ops : DumpOps) (s : State) : Host.Outcome State Fault Refusal :=
  onUnit (decide (ring < 64)) s fun s => endOrder ring (.dumpSetDump ring ops) noNeeds (dumpSet ring ops) s

/-- A field of an export record lies outside its range (R431). -/
def exportBad (d : List Byte) : Bool :=
  let f := leAt d
  let len := f 0x1C 1
  decide (1 < f 0 1) || decide (7 < f 1 1) || decide (128 < f 2 1) || decide (15 < f 3 1) || decide (f 6 2 < 512) ||
  decide (9000 < f 6 2) || Nat.land (f 0x10 4) (f 0x0C 4) ≠ f 0x10 4 || f 0x18 2 = 0 || decide (1000 < f 0x18 2) ||
  f 0x1A 2 = 0 || decide (3600 < f 0x1A 2) || decide (len < 42) || decide (128 < len) || decide (1 < f 0x1D 1) ||
  (f 0x1E 1 ≠ 14 && f 0x1E 1 ≠ 18) || !allZero (slice d 0x1F 33) || !allZero (slice d (0x40 + len) (128 - len))

/-- Replaces the settings of an export port at a message boundary (R431); one enabled or changed sends its template (R417). -/
def replaceExport (e : Nat) (d : List Byte) (s : Chip) : Chip :=
  let old := (exportSt s e).record
  let s := closeMessage e s
  let s := openMessage e (modExport e (fun x => { x with record := d }) s)
  if d ≠ old then sendTemplate e s else s

/-- Effect of DUMP_SET OP 1 (R431). -/
def exportSet (o : ExportOps) (s : Chip) : Status × DWord × Chip :=
  let d := o.payload.data
  if 1 < o.portE || o.payload.len ≠ 192 || exportBad d then (.badOperand, 0, s)
  else match portOf s (leAt d 4 2) with
    | none => (.notFound, 0, s)
    | some v =>
      if v.maxFrame < leAt d 0x1C 1 + leAt d 6 2 + 4 then (.badOperand, 0, s)
      else if exporterFenced s then (.fenced, 0, countFencedReq .tm s)
      else (.ok, 0, settle (replaceExport o.portE d s))

/-- DUMP_SET OP 1 (R431). -/
def execDumpSetExport (ring : Nat) (ops : ExportOps) (s : State) : Host.Outcome State Fault Refusal :=
  onUnit (decide (ring < 64)) s fun s => endOrder ring (.dumpSetExport ring ops) noNeeds (exportSet ops) s

/-- Effect of DUMP_SET OP 2 (R431). -/
def ioamSet (o : IoamOps) (s : Chip) : Status × DWord × Chip :=
  let d := o.payload.data
  if o.payload.len ≠ 32 || 2 ^ 56 ≤ leAt d 0 8 || leAt d 0x0C 1 = 0 || !allZero (slice d 0x0D 3) || !allZero (slice d 0x18 8) then
    (.badOperand, 0, s)
  else if exporterFenced s then (.fenced, 0, countFencedReq .tm s)
  else (.ok, 0, { s with tm := { s.tm with nodeId := leAt d 0 8, nsdShort := leAt d 8 4, hlBack := leAt d 0x0C 1
                                           nsdWide := leAt d 0x10 8 } })

/-- DUMP_SET OP 2 (R431). -/
def execDumpSetIoam (ring : Nat) (ops : IoamOps) (s : State) : Host.Outcome State Fault Refusal :=
  onUnit (decide (ring < 64)) s fun s => endOrder ring (.dumpSetIoam ring ops) noNeeds (ioamSet ops) s

end Sys2Proof.Machine
end

