-- ==== Sys2Proof/Machine/Endpoint.lean ====
section
/-!
DEFINITION. The PCI Express endpoint (R85, R86): its identity and capabilities, the configuration header, the window BAR2, and the read of a
register that no Order carries.
-/

namespace Sys2Proof.Machine

/-- The items of R85. -/
structure Endpoint where
  vendor : Nat := 0x1F7E
  device : Nat := 0x5120
  classCode : Nat := 0x028000
  /-- Link widths and speeds in Mbit/s per lane it trains to. -/
  widths : List Nat := [8, 4, 2, 1]
  speeds : List Nat := [32000, 16000, 8000, 5000, 2500]
  maxPayload : Nat := 512
  maxRead : Nat := 4096
  tagBits : Nat := 10
  outstanding : Nat := 768
  l0s : Bool := true
  l1 : Bool := true
  l1Substates : Bool := false
  aer : Bool := true
  msixVectors : Nat := 256
  msi : Bool := false
  intx : Bool := false
  srIov : Bool := false
  ats : Bool := false
  pasid : Bool := false
  resizableBar : Bool := false
  /-- Sizes of BAR0 and BAR2 in bytes (R86). -/
  bar0 : Nat := 0x200000
  bar2 : Nat := 0x4000000
deriving DecidableEq, Repr

def endpoint : Endpoint := {}

/-- A word of the configuration header: Vendor ID and Device ID, the class code, and BAR4, BAR5 and the expansion ROM BAR, which read 0 (R85,
R86). The places are those of a PCI header; the revision and every other word are free values (PRESUMED, log 157). -/
def configWord (s : Chip) (off : Nat) : Word :=
  if off = 0x00 then packW [(16, 16, endpoint.device), (0, 16, endpoint.vendor)]
  else if off = 0x08 then packW [(8, 24, endpoint.classCode), (0, 8, (freeNext s).toNat)]
  else if off = 0x20 || off = 0x24 || off = 0x30 then 0
  else BitVec.ofNat 32 (freeNext s).toNat

/-- A word of BAR2: 4 bytes of the most recent dump record (R86, R430). -/
def bar2Word (s : Chip) (off : Nat) : Word :=
  if bellUp s then BitVec.ofNat 32 (leNat ((span off 4).map (bar2Byte s))) else 0

/-- A read of a register outside the Orders: its value goes out, and what the read clears is cleared (R8). -/
def execReadClear (a : RegAddr) (s : State) : Host.Outcome State Fault Refusal :=
  onChip s fun s => match a with
    | .bar0 off => bar0Read off s
    | .bar2 off => emit (.read (bar2Word s off).toNat) s
    | .config off => if barUp s then freeTake (emit (.read (configWord s off).toNat) s) else emit (.read 0) s
    | .cabin ca => directRead ca s

end Sys2Proof.Machine
end

