-- ==== Sys2Proof/Machine/TableOrders.lean ====
section
/-!
DEFINITION. The table Orders (R265 to R270): records, TABLE_ADD, TABLE_DEL, TABLE_MOD, REORDER and TCAM_RAW.
-/

namespace Sys2Proof.Machine

/-! Records (R265) -/

/-- One entry record. -/
structure Rec where
  id : Nat
  action : Nat
  plen : Nat
  rflags : Nat
  prio : Nat
  rsv : Nat
  index : Nat
  location : Nat
  ad : List Nat
  key : Nat
  mask : Nat

/-- Record `k` of a payload. -/
def recAt (data : List Byte) (k : Nat) : Rec :=
  let b := slice data (176 * k) 176
  { id := byteAt b 0, action := byteAt b 1, plen := byteAt b 2, rflags := byteAt b 3, prio := leAt b 4 2, rsv := leAt b 6 2,
    index := leAt b 8 4, location := leAt b 0x0C 4, ad := (span 0 8).map (fun i => leAt b (0x10 + 4 * i) 4),
    key := beNat (slice b 0x30 64), mask := beNat (slice b 0x70 64) }

/-- The rules every record meets, whatever its table. -/
def Rec.common (r : Rec) : Bool :=
  r.id < 64 && r.action < 64 && r.rflags < 2 && r.rsv = 0 && r.location = 0

/-- The rules of a record for its table. Action data words past the table's width are fields it does not use (log 50). -/
def recOk (d : TableDecl) (r : Rec) : Bool :=
  let adOk := (r.ad.drop (if d.adMode = 1 then 0 else d.adWords)).all (fun w => w = 0)
  if 4 ≤ d.tkind then
    adOk && r.key = 0 && r.mask = 0 && r.plen = 0 && r.prio = 0 && r.rflags = 0 && (d.tkind = 4 || r.action = 0)
  else
    adOk && (d.adMode = 1 || r.index = 0) && decide (r.key < 2 ^ d.keyBits) && decide (r.mask < 2 ^ d.keyBits) &&
      (if d.tkind = 2 then decide (r.plen ≤ d.pfxWidth) && decide (r.key / 2 ^ d.pfxLsb % 2 ^ (d.pfxWidth - r.plen) = 0)
       else r.plen = 0) &&
      (d.tkind = 3 || (r.mask = 0 && r.prio = 0))

/-- The entry a record describes, with H and the A bit 0 (log 51). -/
def recEntry (d : TableDecl) (r : Rec) (vis : Nat) : Entry :=
  { key := r.key
    mask := if d.tkind = 2 then lpmMask d r.plen else r.mask
    band := if d.tkind = 2 then r.plen else r.prio
    action := r.action
    ad := if d.adMode = 1 then [] else r.ad.take d.adWords
    index := if d.adMode = 1 then r.index else 0
    static := bit r.rflags 0
    vis := vis }

/-- The record of an entry (R265): INDEX of an indirect table, AD of an inline one, whatever its result word holds. -/
def entryBytes (d : TableDecl) (location : Nat) (e : Entry) : List Byte :=
  leBytes 1 d.id ++ leBytes 1 e.action ++ leBytes 1 (if d.tkind = 2 then e.band else 0) ++
  leBytes 1 (pack [(0, 1, b2n e.static), (1, 1, b2n e.learned), (2, 1, b2n e.hbit), (3, 1, b2n e.abit), (4, 3, e.vis)]) ++
  leBytes 2 (if d.tkind = 3 then e.band else 0) ++ leBytes 2 0 ++ leBytes 4 (if d.adMode = 1 || 4 ≤ d.tkind then e.index else 0) ++
  leBytes 4 location ++
  ((span 0 8).map (fun i => leBytes 4 (nth 0 (if d.adMode = 1 then [] else e.ad.take d.adWords) i))).flatten ++ beBytes 64 (e.key % 2 ^ d.keyBits) ++
  beBytes 64 (if d.tkind = 3 then e.mask % 2 ^ d.keyBits else 0)

/-- The record of a DIRECT or ADATA index. -/
def indexBytes (t : Inst) (i : Nat) : List Byte :=
  let v := directAt t i
  entryBytes t.decl i { key := 0, action := v.1, ad := v.2.take t.decl.adWords, index := i }

/-! Entries of an instance -/

/-- The entry at a location or position answers to a record as DELETE, REPLACE and READ name it: what R265 has unique, the key, with
the prefix length in an LPM table, with the mask in a PRIORITY table. The PRIORITY of the record does not name an entry (log 84). -/
def namedBy (d : TableDecl) (r : Rec) (e : Entry) : Bool :=
  e.valid && e.key = r.key && (if d.tkind = 2 then e.band = r.plen
    else if d.tkind = 3 then e.mask % 2 ^ d.keyBits = r.mask else true)

/-- Visible to the current epoch (R241). -/
def seenNow (e : Entry) : Bool := visible e.vis true

/-- The listed entry that satisfies a test. -/
def entryWhere (t : Inst) (p : Entry → Bool) : Option (Nat × Entry) := t.ents.find? (fun (x : Nat × Entry) => p x.2)

/-- Rewrites an entry where it stands. -/
def setEntry (t : Inst) (loc : Nat) (e : Entry) : Inst := { t with ents := sins t.ents loc e }

/-- Inserts an entry: the instance and the number of entries moved; none if there is no room (R246, R249). -/
def insertEntry (t : Inst) (deep : Bool) (e : Entry) : Option (Inst × Nat) :=
  if t.decl.tkind = 1 then (exactInsert t deep e).map (fun r => (r.1, r.2.2))
  else
    let es := tcamList t
    if es.length < roomOf t.decl then let r := tcamInsert e es; some (tcamLay t r.1, r.2) else none

/-- Removes the entry at a location or position: the instance and the number of entries moved (R249). A RAW table keeps the places of the
others. -/
def removeEntry (t : Inst) (loc : Nat) : Inst × Nat :=
  if t.decl.tkind = 1 || t.raw then ({ t with ents := sdel t.ents loc }, 0)
  else match t.ents.findIdx? (fun (x : Nat × Entry) => x.1 = loc) with
    | none => (t, 0)
    | some i => let r := tcamDelete i (tcamList t); (tcamLay t r.1, r.2)

/-! One record on one instance -/

/-- What a record does to one instance: a status, or the instance after it and the entries moved. -/
abbrev RecFate := Status ⊕ (Inst × Nat)

/-- Puts a record's values into an entry in place; H and the A bit stay. -/
def rewrite (d : TableDecl) (r : Rec) (e : Entry) : Entry :=
  let n := recEntry d r e.vis
  { n with learned := e.learned, hbit := e.hbit, abit := e.abit }

/-- REPLACE of an entry where it stands: ACTION, AD (or the ADATA index) and STATIC (R268); its place, mask and band stay. -/
def rewriteHere (d : TableDecl) (r : Rec) (e : Entry) : Entry :=
  { rewrite d r e with mask := e.mask, indirect := e.indirect, band := e.band }

/-- Changes a STAGED_NEW version in place (R242). A new PRIORITY places it in another band. -/
def restage (deep : Bool) (t : Inst) (r : Rec) (loc : Nat) (e : Entry) : RecFate :=
  let n := { rewrite t.decl r e with learned := false }
  if n.band = e.band then .inr (setEntry t loc n, 0)
  else
    let a := removeEntry t loc
    match insertEntry a.1 deep n with
    | none => .inl .noRoom
    | some b => .inr (b.1, a.2 + b.2)

/-- TABLE_ADD of one record (R266). -/
def addRec (epoch deep : Bool) (t : Inst) (r : Rec) : RecFate :=
  if 4 ≤ t.decl.tkind || !recOk t.decl r then .inl .badOperand
  else if t.raw then .inl .busy
  else
    let same := sameKey t.decl (recEntry t.decl r 0)
    let cur := entryWhere t (fun e => same e && seenNow e)
    let put (vis : Nat) : RecFate := match insertEntry t deep (recEntry t.decl r vis) with | none => .inl .noRoom | some x => .inr x
    if epoch then
      if cur.isSome then .inl .badOperand
      else match entryWhere t (fun e => same e && e.vis = 1) with
        | some (loc, e) => restage deep t r loc e
        | none => put 1
    else match cur with
      | some (loc, e) => if e.learned then .inr (setEntry t loc { rewrite t.decl r e with learned := false }, 0) else .inl .existsAlready
      | none => put 0

/-- TABLE_DEL of one record (R267). -/
def delRec (epoch absentOk : Bool) (t : Inst) (r : Rec) : RecFate :=
  if !recOk t.decl r then .inl .badOperand
  else if 4 ≤ t.decl.tkind then
    if epoch then .inl .badOperand
    else if t.decl.entries ≤ r.index then .inl .range
    else .inr ({ t with direct := sdel t.direct r.index }, 0)
  else if t.raw then .inl .busy
  else
    let cur := entryWhere t (fun e => namedBy t.decl r e && seenNow e)
    let stg := if epoch then entryWhere t (fun e => namedBy t.decl r e && e.vis = 1) else none
    let t' := match cur with
      | some (loc, e) => if epoch then setEntry t loc { e with vis := 2 } else t
      | none => t
    match (if epoch then stg else cur) with
    | some (loc, _) => .inr (removeEntry t' loc)
    | none => if cur.isSome || absentOk then .inr (t', 0) else .inl .notFound

/-- TABLE_MOD REPLACE of one record (R268). -/
def replaceRec (epoch : Bool) (t : Inst) (r : Rec) : RecFate :=
  if !recOk t.decl r then .inl .badOperand
  else if 4 ≤ t.decl.tkind then
    if epoch then .inl .badOperand
    else if t.decl.entries ≤ r.index then .inl .range
    else
      let ad := r.ad.take t.decl.adWords
      let start := if t.decl.tkind = 4 then r.action = 0 && ad = t.initAd.take t.decl.adWords else ad.all (fun w => w = 0)
      .inr ({ t with direct := if start then sdel t.direct r.index else sins t.direct r.index (r.action, ad) }, 0)
  else if t.raw then .inl .busy
  else
    let cur := entryWhere t (fun e => namedBy t.decl r e && seenNow e)
    if epoch then
      match entryWhere t (fun e => namedBy t.decl r e && e.vis = 1) with
      | some (loc, e) => .inr (setEntry t loc { rewriteHere t.decl r e with learned := false }, 0)
      | none => match cur with
        | none => .inl .notFound
        | some (_, e) =>
          let new := { rewriteHere t.decl r e with learned := false, hbit := false, abit := false, vis := 1 }
          match insertEntry t false new with | none => .inl .noRoom | some x => .inr x
    else match cur with
      | some (loc, e) => .inr (setEntry t loc (rewriteHere t.decl r e), 0)
      | none => .inl .notFound

/-! Lists of records (R265) -/

/-- The bank a table Order addresses: the current one, or with EPOCH the staged one where the Line has one (log 48). -/
def orderBank (l : LineSt) (epoch : Bool) : Option Bank := if epoch && l.stgProg.isSome then l.stgProg else l.curProg

/-- The instance a table Order addresses. -/
def orderInst (l : LineSt) (epoch : Bool) (id : Nat) : Option Inst :=
  match orderBank l epoch with | none => none | some b => boundInst l.insts b.binds id

/-- What a record does in each named Line, the lowest first: the first failure, or the instances to put back. -/
def recFates (f : Inst → Rec → RecFate) (egress epoch : Bool) (r : Rec) (s : Chip) : List Nat → Status ⊕ List (Nat × Inst × Nat)
  | [] => .inr []
  | n :: ns =>
    match orderInst (lineOf s egress n) epoch r.id with
    | none => .inl .notFound
    | some t =>
      match f t r with
      | .inl e => .inl e
      | .inr x =>
        match recFates f egress epoch r s ns with
        | .inl e => .inl e
        | .inr l => .inr ((n, x) :: l)

/-- Puts back what a record left: the moves are counted (R264). -/
def putFates (egress : Bool) (l : List (Nat × Inst × Nat)) (s : Chip) : Chip :=
  l.foldl (fun s x => lineCount egress x.1 0x0818 x.2.2 (modInst egress x.1 x.2.1.iid (fun _ => x.2.1) s)) s

/-- What a record does to an instance, and how the engine reads it for that: with an insertion, and by deep search. -/
structure RecWork where
  fate : Inst → Rec → RecFate
  insert : Bool := false
  deep : Bool := false

/-- The bad words that the engines of the named Lines meet as they take up a record (R251, R260). -/
def meetRec (w : RecWork) (egress epoch : Bool) (ns : List Nat) (r : Rec) (x : List TableDefect × Chip) : List TableDefect × Chip :=
  ns.foldl (fun x n =>
    match orderInst (lineOf x.2 egress n) epoch r.id with
    | none => x
    | some t =>
      let mine (d : TableDefect) : Bool := d.1 = n && d.2.1 = r.id
      let m := meetEngine egress n t.iid w.insert w.deep r.key ((x.1.filter mine).map (fun d => d.2.2)) x.2
      (x.1.filter (fun d => !mine d) ++ m.1.map (fun d => (n, r.id, d)), m.2)) x

/-- Applies records in order, each in all named Lines or in none, up to the first that fails: the status, the records applied, the
entries moved and the state. `met` are the bad words not met so far. -/
def applyRecs (w : RecWork) (egress epoch : Bool) (ns : List Nat) :
    List TableDefect → List Rec → Nat → Nat → Chip → Status × Nat × Nat × Chip
  | _, [], n, moved, s => (.ok, n, moved, s)
  | met, r :: rs, n, moved, s =>
    if !r.common then (.badOperand, n, moved, s)
    else
      let m := meetRec w egress epoch ns r (met, s)
      match recFates w.fate egress epoch r m.2 ns with
      | .inl e => (e, n, moved, m.2)
      | .inr l => applyRecs w egress epoch ns m.1 rs (n + 1) (moved + (l.map (fun x => x.2.2)).sum) (putFates egress l m.2)

/-- The records of a list Order. -/
def recsOf (o : TableOps) : List Rec := (span 0 o.count).map (recAt o.payload.data)

/-- The checks of a list Order before its records (log 49). -/
def listCheck (o : TableOps) (s : Chip) : Option (Status × Chip) :=
  let ns := linesOf o.lines
  if o.lines = 0 || o.count = 0 || 1024 < o.count || o.payload.len ≠ 176 * o.count then some (.badOperand, s)
  else match fencedLine s o.egress ns with
    | some n => some (.fenced, countFencedReq (lineIsl o.egress n) s)
    | none => if o.epoch && ns.any (commitWaits s) then some (.busy, s) else none

/-- A list Order whose records change instances. -/
def listOrder (w : RecWork) (withMoves : Bool) (o : TableOps) (met : List TableDefect) (s : Chip) : Status × DWord × Chip :=
  match listCheck o s with
  | some (e, s) => (e, 0, s)
  | none =>
    let r := applyRecs w o.egress o.epoch (linesOf o.lines) met (recsOf o) 0 0 s
    (r.1, packD [(16, 16, if withMoves then satAdd 0xFFFF r.2.2.1 0 else 0), (0, 16, r.2.1)], r.2.2.2)

def execTableAdd (ring : Nat) (ops : TableOps) (met : List TableDefect) (s : State) : Host.Outcome State Fault Refusal :=
  onUnit (decide (ring < 64)) s fun s => endOrder ring (.tableAdd ring ops []) (lineNeeds ops.lines)
    (listOrder { fate := addRec ops.epoch ops.deep, insert := true, deep := ops.deep } true ops met) s

def execTableDel (ring : Nat) (ops : TableOps) (met : List TableDefect) (s : State) : Host.Outcome State Fault Refusal :=
  onUnit (decide (ring < 64)) s fun s => endOrder ring (.tableDel ring ops []) (lineNeeds ops.lines)
    (listOrder { fate := delRec ops.epoch ops.absentOk } false ops met) s

def execTableModReplace (ring : Nat) (ops : TableOps) (met : List TableDefect) (s : State) : Host.Outcome State Fault Refusal :=
  onUnit (decide (ring < 64)) s fun s => endOrder ring (.tableModReplace ring ops []) (lineNeeds ops.lines)
    (listOrder { fate := replaceRec ops.epoch, insert := ops.epoch } false ops met) s

/-! READ and DUMP -/

/-- The first check of the other operations of TABLE_MOD: no EPOCH, and `one` Line where the operation names exactly one. -/
def plainCheck (one : Bool) (o : TableOps) (s : Chip) : Option (Status × Chip) :=
  if o.epoch || (one && (linesOf o.lines).length ≠ 1) then some (.badOperand, s) else listCheck o s

/-- LOCATION of an entry: the EXACT location, or the first slice in the Line of a TCAM entry. -/
def locationOf (t : Inst) (loc : Nat) : Nat := if t.decl.tkind = 1 then loc else entrySlice t loc

/-- READ of one record: a status, or the record reported. -/
def readRec (t : Inst) (r : Rec) : Status ⊕ List Byte :=
  if !recOk t.decl r then .inl .badOperand
  else if 4 ≤ t.decl.tkind then (if t.decl.entries ≤ r.index then .inl .range else .inr (indexBytes t r.index))
  else match entryWhere t (fun e => namedBy t.decl r e && seenNow e) with
    | none => .inl .notFound
    | some (loc, e) => .inr (entryBytes t.decl (locationOf t loc) e)

/-- The bad words of a table that READ or DUMP finds, at the locations it reads (R260, log 166). -/
def meetRead (o : TableOps) (t : Inst) (reads : Nat → Bool) (met : List TableDefect) (s : Chip) : Chip :=
  let n := (linesOf o.lines).headD 0
  (meetAt o.egress n t.iid reads ((met.filter (fun d => d.1 = n && d.2.1 = t.decl.id)).map (fun d => d.2.2)) s).2

/-- READ (R268). -/
def tableRead (o : TableOps) (met : List TableDefect) (s : Chip) : Status × DWord × Chip :=
  match (if o.count ≠ 1 then some (.badOperand, s) else plainCheck true o s) with
  | some (e, s) => (e, 0, s)
  | none =>
    let r := recAt o.payload.data 0
    if !r.common then (.badOperand, 0, s)
    else match orderInst (lineOf s o.egress ((linesOf o.lines).headD 0)) false r.id with
      | none => (.notFound, 0, s)
      | some t =>
        let reads (l : Nat) : Bool := if t.decl.tkind = 1 then (candidates t.decl r.key).contains l else l = r.index
        let s := if recOk t.decl r then meetRead o t reads met s else s
        match (orderInst (lineOf s o.egress ((linesOf o.lines).headD 0)) false r.id).map (fun t => readRec t r) with
        | some (.inr bs) => (.ok, 1, writePayload (some o.payload) bs s)
        | some (.inl e) => (e, 0, s)
        | none => (.notFound, 0, s)

/-- Every valid entry of an instance as DUMP reports it, with its position, in rising order. -/
def dumpList (t : Inst) (start count : Nat) : List (Nat × List Byte) :=
  if 4 ≤ t.decl.tkind then (span start (min (count + 1) (t.decl.entries - start))).map (fun i => (i, indexBytes t i))
  else (t.ents.filter (fun (x : Nat × Entry) => x.2.valid && start ≤ locationOf t x.1)).map
    (fun x => (locationOf t x.1, entryBytes t.decl (locationOf t x.1) x.2))

/-- The bad words of the table that a DUMP may meet. -/
def dumpDefects (o : TableOps) (met : List TableDefect) : List WordDefect :=
  (met.filter (fun d => d.1 = (linesOf o.lines).headD 0 && d.2.1 = (recAt o.payload.data 0).id)).map (fun d => d.2.2)

/-- DUMP (R268). -/
def tableDump (o : TableOps) (met : List TableDefect) (s : Chip) : Status × DWord × Chip :=
  match plainCheck true o s with
  | some (e, s) => (e, 0, s)
  | none =>
    let r := recAt o.payload.data 0
    if !r.common then (.badOperand, 0, s)
    else match orderInst (lineOf s o.egress ((linesOf o.lines).headD 0)) false r.id with
      | none => (.notFound, 0, s)
      | some t =>
        if !recOk t.decl { r with index := 0 } then (.badOperand, 0, s)
        else if 4 ≤ t.decl.tkind && decide (t.decl.entries ≤ r.index) then (.range, 0, s)
        else
          let l := dumpList (withoutBad t (dumpDefects o met)) r.index o.count
          let next := match l.drop o.count with | [] => 0xFFFFFFFF | x :: _ => x.1
          let now := l.take o.count
          let reads (x : Nat) : Bool := decide (r.index ≤ x) && decide (x < next)
          (.ok, packD [(32, 32, next), (0, 16, now.length)],
            writePayload (some o.payload) ((now.map (fun x => x.2)).flatten) (meetRead o t reads met s))

def execTableModRead (ring : Nat) (ops : TableOps) (met : List TableDefect) (s : State) : Host.Outcome State Fault Refusal :=
  onUnit (decide (ring < 64)) s fun s => endOrder ring (.tableModRead ring ops []) (lineNeeds ops.lines) (tableRead ops met) s

def execTableModDump (ring : Nat) (ops : TableOps) (met : List TableDefect) (s : State) : Host.Outcome State Fault Refusal :=
  onUnit (decide (ring < 64)) s fun s => endOrder ring (.tableModDump ring ops []) (lineNeeds ops.lines) (tableDump ops met) s

/-! Ledgers -/

/-- The rules of a Ledger record (R265). -/
def ledgerCommon (r : Rec) : Bool :=
  r.id < 16 && r.action = 0 && r.plen = 0 && r.rflags = 0 && r.prio = 0 && r.rsv = 0 && r.location = 0 && r.key = 0 && r.mask = 0

/-- The instance of a Ledger in the current bank. -/
def orderLedger (l : LineSt) (id : Nat) : Option LedgerInst :=
  match l.curProg with
  | none => none
  | some b => match sfind b.lbinds id with
    | none => none
    | some iid => l.ledgers.find? (fun (g : LedgerInst) => g.iid = iid)

/-- The checks of a Ledger record against its Ledger. Words of AD past the Ledger's width are 0 (log 50). -/
def ledgerRec (g : LedgerInst) (r : Rec) : Option Status :=
  if (r.ad.drop (if g.decl.wide then 2 else 1)).any (fun w => w ≠ 0) then some .badOperand
  else if g.decl.entries ≤ r.index then some .range
  else none

/-- A Ledger record in the named Lines. -/
def ledgerFate (egress : Bool) (r : Rec) (s : Chip) (ns : List Nat) : Option Status :=
  if !ledgerCommon r then some .badOperand
  else ns.findSome? (fun n => match orderLedger (lineOf s egress n) r.id with
    | none => some .notFound
    | some g => ledgerRec g r)

/-- Writes a Ledger entry (R173). -/
def setLedger (egress : Bool) (n : Nat) (r : Rec) (s : Chip) : Chip :=
  modLine egress n (fun l => match orderLedger l r.id with
    | none => l
    | some g =>
      let v := nth 0 r.ad 0 + (if g.decl.wide then nth 0 r.ad 1 * 2 ^ 32 else 0)
      { l with ledgers := l.ledgers.map (fun x => if x.iid = g.iid then { x with vals := sput 0 x.vals r.index v } else x) }) s

/-- LEDGER_WRITE of each record in turn. -/
def ledgerWrites (egress : Bool) (ns : List Nat) : List Rec → Nat → Chip → Status × Nat × Chip
  | [], n, s => (.ok, n, s)
  | r :: rs, n, s =>
    match ledgerFate egress r s ns with
    | some e => (e, n, s)
    | none => ledgerWrites egress ns rs (n + 1) (ns.foldl (fun s k => setLedger egress k r s) s)

/-- LEDGER_WRITE (R268). -/
def ledgerWrite (o : TableOps) (s : Chip) : Status × DWord × Chip :=
  match plainCheck false o s with
  | some (e, s) => (e, 0, s)
  | none => let r := ledgerWrites o.egress (linesOf o.lines) (recsOf o) 0 s; (r.1, packD [(0, 16, r.2.1)], r.2.2)

/-- LEDGER_READ (R268): the entry goes into AD of the record. -/
def ledgerRead (o : TableOps) (s : Chip) : Status × DWord × Chip :=
  match (if o.count ≠ 1 then some (.badOperand, s) else plainCheck true o s) with
  | some (e, s) => (e, 0, s)
  | none =>
    let r := recAt o.payload.data 0
    let n := (linesOf o.lines).headD 0
    match ledgerFate o.egress r s [n] with
    | some e => (e, 0, s)
    | none =>
      let v := match orderLedger (lineOf s o.egress n) r.id with | none => 0 | some g => sget 0 g.vals r.index
      (.ok, 1, writePayload (some o.payload) (overlay (o.payload.data.take 176) 0x10 (leBytes 8 v ++ repl 24 0#8)) s)

def execTableModLedgerWrite (ring : Nat) (ops : TableOps) (s : State) : Host.Outcome State Fault Refusal :=
  onUnit (decide (ring < 64)) s fun s => endOrder ring (.tableModLedgerWrite ring ops) (lineNeeds ops.lines) (ledgerWrite ops) s

def execTableModLedgerRead (ring : Nat) (ops : TableOps) (s : State) : Host.Outcome State Fault Refusal :=
  onUnit (decide (ring < 64)) s fun s => endOrder ring (.tableModLedgerRead ring ops) (lineNeeds ops.lines) (ledgerRead ops) s

/-! TABLE_REHASH REORDER (R269) -/

/-- The entries of a band that a RAW table holds, in position order (log 58). -/
def reorder (t : Inst) : Inst × Nat :=
  let es := tcamList t
  let good := es.filter (fun e => t.decl.tkind ≠ 2 ||
    (decide (e.band ≤ t.decl.pfxWidth) && e.mask % 2 ^ t.decl.keyBits = lpmMask t.decl e.band))
  let bands := ((bandsOf good).mergeSort (fun a b => b ≤ a))
  (tcamLay { t with raw := false } ((bands.map (fun b => good.filter (fun e => e.band = b))).flatten), es.length - good.length)

/-- The first checks of TABLE_REHASH: the instance, or a status. -/
def rehashInst (o : RehashOps) (s : Chip) : (Status × Chip) ⊕ Inst :=
  if 35 < o.line then .inl (.range, s)
  else if isFenced s (lineIsl o.egress o.line) then .inl (.fenced, countFencedReq (lineIsl o.egress o.line) s)
  else match orderInst (lineOf s o.egress o.line) false o.id with
    | none => .inl (.notFound, s)
    | some t => .inr t

/-- The domains of one Line. -/
def lineNeed (egress : Bool) (n : Nat) (s : Chip) : List Nat := if 35 < n then [] else offDomains s [lineIsl egress n]

/-- REORDER. -/
def rehashReorder (o : RehashOps) (s : Chip) : Status × DWord × Chip :=
  match rehashInst o s with
  | .inl (e, s) => (e, 0, s)
  | .inr t =>
    if t.decl.tkind ≠ 2 && t.decl.tkind ≠ 3 then (.badOperand, 0, s)
    else if !t.raw then (.ok, 0, s)
    else let r := reorder t; (.ok, packD [(0, 16, r.2)], modInst o.egress o.line t.iid (fun _ => r.1) s)

def execTableRehashReorder (ring : Nat) (ops : RehashOps) (s : State) : Host.Outcome State Fault Refusal :=
  onUnit (decide (ring < 64)) s fun s => endOrder ring (.tableRehashReorder ring ops) (lineNeed ops.egress ops.line) (rehashReorder ops) s

/-! TCAM_RAW (R270) -/

/-- Bits of a key or mask in slice `k` of an entry of `w` slices, the most significant slice at the lowest position (log 57). -/
def sliceOf (w k x : Nat) : Nat := bits x (64 * (w - 1 - k)) 64
def setSlice (w k v x : Nat) : Nat :=
  let lo := 64 * (w - 1 - k)
  x / 2 ^ (lo + 64) * 2 ^ (lo + 64) + v % 2 ^ 64 * 2 ^ lo + x % 2 ^ lo

/-- An entry position as the slices hold it. The mask of the bits above the key of an entry that Basic Orders placed is not stated, nor
is anything of a position that holds no entry (log 56). -/
def slotAt (t : Inst) (n pos : Nat) : Entry :=
  let w := tcamSlices t.decl
  match sfind t.ents pos with
  | some e => if t.raw then e else { e with mask := e.mask + freeWide n w * 2 ^ t.decl.keyBits % 2 ^ (64 * w) }
  | none =>
    let x := (Config.freeValue (n + 2 * w)).toNat
    { key := freeWide n w, mask := freeWide (n + w) w, valid := false, indirect := some (bit x 62), action := bits x 56 6
      band := bits x 40 16, index := bits x 0 32, ad := [bits x 0 32] }

/-- Free values one position takes. -/
def slotFree (t : Inst) : Nat := 2 * tcamSlices t.decl + 1

/-- The result word of an entry. -/
def resultWord (d : TableDecl) (e : Entry) : Nat :=
  let ind := e.indirect.getD (d.adMode = 1)
  pack [(63, 1, b2n e.valid), (62, 1, b2n ind), (56, 6, e.action), (40, 16, e.band), (0, 32, if ind then e.index else nth 0 e.ad 0)]

/-- An entry with a result word written. The word carries no STATIC and no VIS: the entry is ALL (log 55). -/
def putResult (x : Nat) (e : Entry) : Entry :=
  { e with valid := bit x 63, indirect := some (bit x 62), action := bits x 56 6, band := bits x 40 16, index := bits x 0 32
           ad := [bits x 0 32], static := false, vis := 0 }

/-- The instance that owns a slice of a Line, and the slice's place in it. -/
def sliceOwner (l : LineSt) (slice : Nat) : Option (Inst × Nat) :=
  match l.insts.find? (fun t => t.tcam.contains (slice / 2048)) with
  | none => none
  | some t => match t.tcam.findIdx? (fun b => b = slice / 2048) with
    | none => none
    | some k => some (t, 2048 * k + slice % 2048)

/-- The checks of TCAM_RAW in the card's order; the owning instance and the slice's place in it. -/
def rawCheck (o : TcamRawOps) (s : Chip) : (Status × Chip) ⊕ (Inst × Nat) :=
  if (o.w ≠ 1 && o.w ≠ 2 && o.w ≠ 4 && o.w ≠ 8) || o.slice % o.w ≠ 0 || o.payload.len ≠ 16 * o.w + 8 then .inl (.badOperand, s)
  else if 35 < o.line || 2048 * tcamBlocks o.egress < o.slice + o.w then .inl (.range, s)
  else if isFenced s (lineIsl o.egress o.line) then .inl (.fenced, countFencedReq (lineIsl o.egress o.line) s)
  else match sliceOwner (lineOf s o.egress o.line) o.slice with
    | none => .inl (.notFound, s)
    | some x => .inr x

/-- Read: the stored slices and the result word of the entry position at the first slice. -/
def rawRead (o : TcamRawOps) (s : Chip) : Status × DWord × Chip :=
  match rawCheck o s with
  | .inl (e, s) => (e, 0, s)
  | .inr (t, p) =>
    let w := tcamSlices t.decl
    let slot (q : Nat) : Entry := slotAt t (s.free + (q - p / w) * slotFree t) q
    let bs := ((span p o.w).map (fun j =>
      leBytes 8 (sliceOf w (j % w) (slot (j / w)).key) ++ leBytes 8 (sliceOf w (j % w) (slot (j / w)).mask))).flatten
    (.ok, BitVec.ofNat 64 t.decl.id,
      writePayload (some o.payload) (bs ++ leBytes 8 (resultWord t.decl (slot (p / w)))) { s with free := s.free + o.w * slotFree t })

/-- An instance as the slices hold it, every entry with the mask of its whole width. -/
def rawForm (t : Inst) (n : Nat) : Inst :=
  if t.raw then t
  else { t with raw := true, ents := t.ents.map (fun x => (x.1, slotAt t (n + x.1 * slotFree t) x.1)) }

/-- Writes one slice. -/
def writeSlice (n : Nat) (t : Inst) (j value mask : Nat) : Inst :=
  let w := tcamSlices t.decl
  let e := slotAt t (n + j / w * slotFree t) (j / w)
  setEntry t (j / w) { e with key := setSlice w (j % w) value e.key, mask := setSlice w (j % w) mask e.mask }

/-- Write: the slices, then the result word; the table is RAW. -/
def rawWrite (o : TcamRawOps) (s : Chip) : Status × DWord × Chip :=
  match rawCheck o s with
  | .inl (e, s) => (e, 0, s)
  | .inr (t, p) =>
    let bs := o.payload.data
    let x := leAt bs (16 * o.w) 8
    if bits x 32 8 ≠ 0 then (.badOperand, 0, s)
    else
      let n := s.free
      let r := (span 0 o.w).foldl (fun r k => writeSlice n r (p + k) (leAt bs (16 * k) 8) (leAt bs (16 * k + 8) 8)) (rawForm t n)
      let pos := p / tcamSlices t.decl
      let r := setEntry r pos (putResult x (slotAt r n pos))
      (.ok, BitVec.ofNat 64 t.decl.id,
        modInst o.egress o.line t.iid (fun _ => r) { s with free := n + (roomOf t.decl + o.w) * slotFree t })

def execTcamRawRead (ring : Nat) (ops : TcamRawOps) (s : State) : Host.Outcome State Fault Refusal :=
  onUnit (decide (ring < 64)) s fun s => endOrder ring (.tcamRawRead ring ops) (lineNeed ops.egress ops.line) (rawRead ops) s

def execTcamRawWrite (ring : Nat) (ops : TcamRawOps) (s : State) : Host.Outcome State Fault Refusal :=
  onUnit (decide (ring < 64)) s fun s => endOrder ring (.tcamRawWrite ring ops) (lineNeed ops.egress ops.line) (rawWrite ops) s

end Sys2Proof.Machine
end

