-- ==== Sys2Proof/Machine/Learning.lean ====
section
/-!
DEFINITION. Learning, flap trackers, aging and the TCAM scrubber (R252 to R261, R269 PENDING).
-/

namespace Sys2Proof.Machine

/-! Learning (R252, R256, R257) -/

/-- How one learn ended. -/
inductive Learned where
  | inserted | failed | other
deriving DecidableEq, Repr

/-- LN_FLAP_WINDOW in ns has passed since a tracker started (R256). -/
def trackerOver (s : Chip) (n : Nat) (k : Tracker) : Bool := decide (fieldOf s (.iline n) 0x0840 16 16 * 1000000 ≤ elapsed s k.start)

/-- A moved key meets the flap trackers of its Line that have not expired (R256). -/
def flap (n : Nat) (t : Inst) (key value : Nat) (s : Chip) : Chip :=
  let s := modLine false n (fun l => { l with trackers := l.trackers.filter (fun k => !trackerOver s n k) }) s
  let l := lineOf s false n
  let limit := fieldOf s (.iline n) 0x0840 0 8
  let mine (k : Tracker) : Bool := k.iid = t.iid && k.key = key
  match l.trackers.find? mine with
  | none =>
    if 256 ≤ l.trackers.length then lineCount false n 0x081C 1 s
    else modLine false n (fun l => { l with trackers := l.trackers ++ [⟨t.iid, key, 1, runNs s⟩] }) s
  | some k =>
    if limit < k.count + 1 then
      tableEvent false n t.decl.evq
        { kind := 1, id := t.decl.id, tkind := t.decl.tkind, value := value, count := k.count + 1, keyBits := t.decl.keyBits, key := key }
        (modLine false n (fun l => { l with trackers := l.trackers.filter (fun x => !mine x) }) s)
    else modLine false n (fun l => { l with trackers := l.trackers.map (fun x => if mine x then { x with count := x.count + 1 } else x) }) s

/-- A learn insertion found no place (R257). `keep` says that a BALGER table may keep it. -/
def learnFail (n : Nat) (keep : Bool) (t : Inst) (key value : Nat) (s : Chip) : Chip :=
  let s := lineCount false n 0x0808 1 s
  if !(keep && bit t.decl.tflags 2) || 256 ≤ t.pendingList.length then s
  else
    let due := match t.lastFull with | none => true | some at' => decide (10000 ≤ elapsed s at')
    let s := modInst false n t.iid (fun t => { t with
      pendingList := t.pendingList ++ [(key, value)]
      lastFull := if due then some (runNs s) else t.lastFull }) s
    if due then
      tableEvent false n t.decl.evq
        { kind := 2, id := t.decl.id, tkind := t.decl.tkind, value := value, keyBits := t.decl.keyBits, key := key } s
    else s

/-- One learn of a key with value A on an instance (R252). -/
def learnOne (n : Nat) (deep keep : Bool) (iid key value : Nat) (s : Chip) : Learned × Chip :=
  match instOf s false n iid with
  | none => (.other, s)
  | some t =>
    match exactFind t key true with
    | none =>
      let e : Entry := { key := key, action := t.decl.learnAction, ad := value :: repl (t.decl.adWords - 1) 0, learned := true, hbit := true }
      match insertEntry t deep e with
      | none => (.failed, learnFail n keep t key value s)
      | some r => (.inserted, lineCount false n 0x0818 r.2 (lineCount false n 0x0800 1 (modInst false n iid (fun _ => r.1) s)))
    | some (loc, e) =>
      if e.static then (.other, lineCount false n 0x0810 1 s)
      else if nth 0 e.ad 0 = value then (.other, s)
      else
        let s := modInst false n iid (fun t => setEntry t loc { e with ad := setNth e.ad 0 value, learned := true, hbit := true }) s
        (.other, flap n t key value (lineCount false n 0x0804 1 s))

/-- The update engine of an ingress Line applies the next learn submission (R251, R255). -/
def applyLearn (n : Nat) (met : List WordDefect) (s : Chip) : Chip :=
  match (lineOf s false n).learnQ with
  | [] => s
  | q :: qs =>
    if dead s then s
    else
      let s := (meetEngine false n q.iid true false q.key met (modLine false n (fun l => { l with learnQ := qs }) s)).2
      (learnOne n false true q.iid q.key q.value s).2

def execLearnApply (line : Nat) (met : List WordDefect) (s : State) : Host.Outcome State Fault Refusal :=
  onUnit (decide (line < 36)) s fun s => applyLearn line met s

/-- A flap tracker expires (R256). -/
def execFlapTrackerExpiry (line index : Nat) (s : State) : Host.Outcome State Fault Refusal :=
  onUnit (decide (line < 36)) s fun s => match (lineOf s false line).trackers[index]? with
    | none => s
    | some k =>
      if dead s || !trackerOver s line k then s
      else modLine false line (fun l => { l with trackers := l.trackers.take index ++ l.trackers.drop (index + 1) }) s

/-! TABLE_REHASH PENDING (R269) -/

/-- Learns of a pending list: keys inserted and keys discarded. `met` are the bad words not met so far. -/
def learnAll (n iid : Nat) : List WordDefect → List (Nat × Nat) → Nat → Nat → Chip → Nat × Nat × Chip
  | _, [], a, b, s => (a, b, s)
  | met, (key, value) :: l, a, b, s =>
    let m := meetEngine false n iid true true key met s
    let r := learnOne n true false iid key value m.2
    learnAll n iid m.1 l (a + (if r.1 = .inserted then 1 else 0)) (b + (if r.1 = .failed then 1 else 0)) r.2

/-- PENDING. -/
def rehashPending (o : RehashOps) (met : List WordDefect) (s : Chip) : Status × DWord × Chip :=
  match rehashInst o s with
  | .inl (e, s) => (e, 0, s)
  | .inr t =>
    if o.egress || t.decl.tkind ≠ 1 || !bit t.decl.tflags 2 then (.badOperand, 0, s)
    else
      let r := learnAll o.line t.iid met t.pendingList 0 0 (modInst false o.line t.iid (fun t => { t with pendingList := [] }) s)
      (.ok, packD [(16, 16, r.1), (0, 16, r.2.1)], r.2.2)

def execTableRehashPending (ring : Nat) (ops : RehashOps) (met : List WordDefect) (s : State) : Host.Outcome State Fault Refusal :=
  onUnit (decide (ring < 64)) s fun s => endOrder ring (.tableRehashPending ring ops []) (lineNeed ops.egress ops.line)
    (rehashPending ops met) s

/-! Aging (R258 to R260) -/

/-- The sweeper of an EXACT table visits a location. `hit`: a lookup hits the entry in the clock in which the sweeper writes it (R259). -/
def sweep (eg : Bool) (n iid loc : Nat) (hit : Bool) (find : SweepFind) (s : Chip) : Chip :=
  let ages (t : Inst) : Bool := t.decl.tkind = 1 && bit t.decl.tflags 0 && decide (loc < roomOf t.decl)
  match instOf s eg n iid with
  | none => s
  | some t =>
    if dead s || !ages t then s
    else
      let s := match find with | none => s | some (mask, ctl, rep) => sramBad eg n iid ⟨loc, mask, ctl, rep⟩ s
      match (instOf s eg n iid).bind (fun t => sfind t.ents loc) with
      | none => s
      | some e =>
        if e.vis ≠ 0 || e.static then s
        else if e.hbit then modInst eg n iid (fun t => setEntry t loc { e with hbit := hit, abit := false }) s
        else if hit then modInst eg n iid (fun t => setEntry t loc { e with hbit := true, abit := true }) s
        else if e.abit then lineCount eg n 0x0814 1 (modInst eg n iid (fun t => (removeEntry t loc).1) s)
        else modInst eg n iid (fun t => setEntry t loc { e with abit := true }) s

def execSweeperVisit (line : Nat) (egress : Bool) (iid loc : Nat) (hit : Bool) (defect : SweepFind) (s : State) :
    Host.Outcome State Fault Refusal :=
  onUnit (decide (line < 36)) s fun s => sweep egress line iid loc hit defect s

/-! The TCAM scrubber (R261) -/

/-- The scrubber reads a slice. A slice of no table has no entry to repair. -/
def scrub (egress : Bool) (n slice : Nat) (find : ScrubFind) (s : Chip) : Chip :=
  match find with
  | none => s
  | some (mask, rep) =>
    let i := lineIsl egress n
    let loc := 0x50 + slice / 2048
    if dead s || isFenced s i || 2048 * tcamBlocks egress ≤ slice then s
    else match rep with
      | .clean => raise i loc clsTable 1 s
      | .bad =>
        match sliceOwner (lineOf s egress n) slice with
        | none => raise i loc clsTable 2 s
        | some (t, p) =>
          let pos := p / tcamSlices t.decl
          let e := slotAt t s.free pos
          let s := { s with free := s.free + slotFree t }
          let r := if e.valid then removeEntry t pos else (t, 0)
          let s := raise i loc clsTable 2 (lineCount egress n 0x0818 r.2 (modInst egress n t.iid (fun _ => r.1) s))
          repairEvent egress n t pos mask (some e) s

def execTcamScrub (line : Nat) (egress : Bool) (slice : Nat) (find : ScrubFind) (s : State) : Host.Outcome State Fault Refusal :=
  onUnit (decide (line < 36)) s fun s => scrub egress line slice find s

end Sys2Proof.Machine
end

