-- ==== Sys2Proof/Machine/Power.lean ====
section
/-!
DEFINITION. The commands of power, clocks and temperature (file 02) and the resets of file 03: what each pin, rail or timer event
and each write of a mode does.
-/

namespace Sys2Proof.Machine

/-! Supplies (R43 to R47) -/

/-- Operating range of each watched rail in mV (R43). -/
def railRange : List (Nat × Nat) :=
  [(699, 741), (776, 824), (728, 772), (873, 927), (1164, 1236), (728, 772), (1067, 1133), (582, 618), (825, 875), (1710, 1890)]

/-- The always-on domain starts (R46, R382): nothing outlasts the loss of VDD_AON but the pins and the other rails. -/
def aonStart (smbAddr : Nat) (s : Chip) : Chip :=
  { out := s.out, hostMem := s.hostMem, free := s.free
    power := { railsLost := ndel s.power.railsLost 5, pinHeld := s.power.pinHeld, perst := s.power.perst
               pcieRefLost := s.power.pcieRefLost, temp := s.power.temp, smbAddr := smbAddr % 4 } }

/-- The PPS outputs are low in supply reset (R56). -/
def ppsLow (s : Chip) : Chip :=
  s.time.ppsHigh.foldl (fun s k => ppsFall k s) s

/-- A watched rail is lost (R45): supply reset at once. With VDD_AON the always-on domain goes too, and PC_RST_SUPPLY is not set
(R67). -/
def loseRail (r : Nat) (s : Chip) : Chip :=
  let add (s : Chip) : Chip := { s with power := { s.power with railsLost := nadd s.power.railsLost r, supplyHeld := true } }
  let s := ppsLow s
  if aonLost s then add s
  else if r = 5 then add (aonStart s.power.smbAddr s)
  else if s.power.supplyHeld then add s
  else add (rstCause 5 (systemReset s))

def execSupplyReset (rail : Nat) (s : State) : Host.Outcome State Fault Refusal :=
  onUnit (decide (rail < 10)) s fun s => loseRail rail s

/-- A measured frequency lies within 1,000 ppm of a nominal one (R54). -/
def within1000ppm (hz nominal : Nat) : Bool :=
  decide (nominal * 999 ≤ hz * 1000) && decide (hz * 1000 ≤ nominal * 1001)

/-- TIME_REF_IN is lost (R55, R388): holdover, and the TIME fault. -/
def loseTimeRef (s : Chip) : Chip :=
  let entered := !s.time.holdover
  let s := ppsHold { s with time := { s.time with refLost := true, holdover := true } }
  raise .tt 0x01 clsTime 2 (if entered then ttEvent 2 s else s)

/-- TIME_REF_IN is measured (R54): 10 MHz or 25 MHz within 1,000 ppm, else it is a lost input. `none`: it shows no edge. -/
def measureRef (hz : Option Nat) (s : Chip) : Chip :=
  match hz with
  | none => loseTimeRef s
  | some f =>
    if within1000ppm f 10000000 then { s with time := { s.time with refLost := false, refFreq := false } }
    else if within1000ppm f 25000000 then { s with time := { s.time with refLost := false, refFreq := true } }
    else loseTimeRef s

def execSupplyResetRelease (ref : Option Nat) (s : State) : Host.Outcome State Fault Refusal :=
  onChip s fun s => if s.power.supplyHeld && !aonLost s then
      measureRef ref (bootRelease { s with power := { s.power with supplyHeld := false, railsLost := [] } })
    else s

def execColdStart (smbAddr : Nat) (s : State) : Host.Outcome State Fault Refusal :=
  onChip s fun s => aonStart smbAddr s

/-! Resets of system scope (R63 to R65) -/

def execSystemResetPin (s : State) : Host.Outcome State Fault Refusal :=
  onChip s fun s => if s.power.pinHeld then s
    else
      let hold (s : Chip) : Chip := { s with power := { s.power with pinHeld := true } }
      if aonLost s then hold s else hold (rstCause 0 (systemReset s))

def execSysRstNRelease (s : State) : Host.Outcome State Fault Refusal :=
  onChip s fun s => if s.power.pinHeld then bootRelease { s with power := { s.power with pinHeld := false } } else s

def execChipResetRequest (value mask : Word) (s : State) : Host.Outcome State Fault Refusal :=
  onChip s fun s => directWrite (caddr .sb 0x0100) value mask s

/-- An Order on some ring has written `SB_CHIP_RST` and its completion is still to be written (R65). -/
def chipRstPending (s : Chip) : Bool :=
  s.host.rings.any (fun x => match x.2.running with
    | none => false
    | some o => !o.orphan && o.outcome.isSome && (match o.cmd with
      | some (.fieldWrite _ ops) => ops.entries.any (fun e => e.caddr = caddr .sb 0x0100)
      | _ => false))

def execChipResetStart (s : State) : Host.Outcome State Fault Refusal :=
  onChip s fun s => if s.power.chipReset && !dead s && !chipRstPending s then bootRelease (rstCause 1 (systemReset s)) else s

/-! PCI Express resets (R66, R78) -/

/-- A mailbox read in progress is abandoned (R78). -/
def mailboxAbort (s : Chip) : Chip :=
  if s.boot.reading then
    { s with boot := { s.boot with reading := false, stage := 0x03, error := 0x0B, mbLo := 0, mbHi := 0, mbLen := 0 } }
  else s

/-- A ring after a reset of the host interface state: an Order at work runs on unseen. -/
def RingSt.hostReset (v : RingSt) : RingSt :=
  { running := v.running.map (fun o => { o with orphan := true }) }

/-- Resets the host interface state (R66). -/
def hostReset (s : Chip) : Chip :=
  let h := s.host
  let rings := (h.rings.map (fun x => (x.1, x.2.hostReset))).filter (fun x => x.2 ≠ {})
  let alive := (rings.map (fun x => match x.2.running with | none => [] | some o => [o.seq])).flatten
  { s with host := { h with rings := rings, dma := [], regions := [], msix := [], msixPending := [], hostFrames := [],
                            fences := h.fences.filter alive.contains } }

def execPcieFundamentalReset (s : State) : Host.Outcome State Fault Refusal :=
  onChip s fun s => if s.power.perst then s
    else
      let s := { s with power := { s.power with perst := true, linkUp := false } }
      if aonLost s then s
      else if dead s then rstCause 2 s
      else resetIsland .pc (hostReset (mailboxAbort (rstCause 2 s)))

/-- The link trains once PERST_N is high and the PCIe island runs (R63, R69). -/
def linkTrain (s : Chip) : Chip :=
  if hostUp s && s.boot.stage ≠ 0 && s.boot.stage ≠ 0x0F then { s with power := { s.power with linkUp := true } } else s

def execPerstNRelease (s : State) : Host.Outcome State Fault Refusal :=
  onChip s fun s => if s.power.perst then linkTrain { s with power := { s.power with perst := false, pcieRefLost := false } } else s

def execPcieLinkDown (s : State) : Host.Outcome State Fault Refusal :=
  onChip s fun s => mailboxAbort { s with power := { s.power with linkUp := false } }

def execFunctionLevelReset (s : State) : Host.Outcome State Fault Refusal :=
  onChip s fun s => if barUp s then hostReset (rstCause 3 s) else s

/-- The TAPs are reset (R63, R479). -/
def execTestReset (s : State) : Host.Outcome State Fault Refusal :=
  onChip s fun s => { s with power := { s.power with tapIr := 0x01 } }

/-! Power domains (R49 to R52) -/

/-- The condition under which an AUTO domain is switched off (R49). A Line pair prepared for a Platform with a configured port
counts as serving it (log 22). -/
def offCondition (s : Chip) (n : Nat) : Bool :=
  let ports (k : Nat) : Bool := portsOn s k ≠ []
  if n < 36 then
    (match servedBy s n with | none => true | some k => !ports k) &&
      (match preparedFor s n with | none => true | some k => !ports k) &&
      !isFenced s (.iline n) && !isFenced s (.eline n)
  else if 44 ≤ n && n < 52 then !(quarryOf s (n - 44)).enabled && (quarryOf s (n - 44)).disabling = []
  else if 52 ≤ n && n < 68 then
    !ports (2 * (n - 52)) && !ports (2 * (n - 52) + 1) && ((domainTile n).isNone || !(domainSt s (n + 1)).on)
  else false

/-- The islands of a domain hold no frame of a live epoch (R49), and an ingress Line none that it has still to stamp. -/
def domainEmpty (s : Chip) (n : Nat) : Bool :=
  (islandsOf n).all (fun i => !(heldFrames s).any (fun h => h.1 = i.code && !isStale s h.2) &&
    (match i with | .iline k => !s.pkt.rx.any (fun f => f.line = k && !f.siding) | _ => true))

/-- The stale frames that a Line pair holds when its domain goes off are dropped with EPOCH_STALE (DESIGN CHOICE, log 149). -/
def dropStaleHeld (n : Nat) (s : Chip) : Chip :=
  if n < 36 then clearEline dropStale n (clearIline dropStale n s) else s

def execDomainAutoOff (n : Nat) (s : State) : Host.Outcome State Fault Refusal :=
  onUnit (decide (n < 72)) s fun s =>
    if !dead s && s.boot.done && (domainSt s n).on && (domainSt s n).mode = .auto && offCondition s n && domainEmpty s n then
      domainOff n (dropStaleHeld n s)
    else s

/-- The Signal Box switches on the domain that is needed next. Domain 53 + 2t waits for domain 52 + 2t, which is then needed first
(R50). -/
def powerUp (n : Nat) (env : TrainEnv) (s : Chip) : Chip :=
  match domainChain s n with
  | k :: _ => if k = n then domainOn n env s else { s with power := { s.power with wanted := k :: s.power.wanted } }
  | [] => { s with power := { s.power with wanted := s.power.wanted.filter (fun x => x ≠ n) } }

def execDomainPowerUp (n : Nat) (env : TrainEnv) (s : State) : Host.Outcome State Fault Refusal :=
  onUnit (decide (n < 72)) s fun s => if !dead s && s.power.wanted.head? = some n then powerUp n env s else s

/-- A write of SB_PD_MODE alone (R51, R52). -/
def writePdMode (n mode : Nat) (s : Chip) : Chip :=
  directWrite (caddr .sb (0x2000 + 4 * n)) (BitVec.ofNat 32 (mode * 2 ^ 29)) 0x60000000#32 s

def execPdModeAuto (n : Nat) (s : State) : Host.Outcome State Fault Refusal :=
  onUnit (decide (n < 72)) s fun s => writePdMode n 0 s

def execPdModeForceOn (n : Nat) (env : TrainEnv) (s : State) : Host.Outcome State Fault Refusal :=
  onUnit (decide (n < 72)) s fun s => if dead s then s else writePdMode n 1 ((domainChain s n).foldl (fun s k => domainOn k env s) s)

def execPdModeForceOff (n : Nat) (s : State) : Host.Outcome State Fault Refusal :=
  onUnit (decide (n < 72)) s fun s => writePdMode n 2 s

/-! Rails, references and temperature (R47, R54, R55, R59) -/

def execRailOutOfRange (rail : Nat) (s : State) : Host.Outcome State Fault Refusal :=
  onUnit (decide (rail < 10)) s fun s => if unrecorded s || s.power.railsOut.contains rail then s
    else raise .ks (0x10 + rail) clsPower 2 { s with power := { s.power with railsOut := nadd s.power.railsOut rail } }

def execVddFuseHigh (s : State) : Host.Outcome State Fault Refusal :=
  onChip s fun s => if unrecorded s || s.power.fuseHigh then s
    else raise .ks 0x1A clsPower 0 { s with power := { s.power with fuseHigh := true } }

def execRefclkSysLost (s : State) : Host.Outcome State Fault Refusal :=
  onChip s fun s => if unrecorded s || s.power.sysLost then s
    else raise .ks 0x30 clsPower 4 { s with power := { s.power with sysLost := true } }

/-- REFCLK_TILE is lost: the 64 lanes of the Tile go down (R55), and its four Platforms are fenced (R448). -/
def loseTileClock (t : Nat) (s : Chip) : Chip :=
  if unrecorded s || s.power.tileLost.contains t then s
  else
    let s := { s with power := { s.power with tileLost := nadd s.power.tileLost t } }
    let s := tileDown t s
    if isOn s (.platform (4 * t)) then raise (.platform (4 * t)) 0x30 clsLane 3 s else s

def execRefclkTileLost (tile : Nat) (s : State) : Host.Outcome State Fault Refusal :=
  onUnit (decide (tile < 8)) s fun s => loseTileClock tile s

def execTimeRefLost (s : State) : Host.Outcome State Fault Refusal :=
  onChip s fun s => if s.time.refLost || aonLost s then s else loseTimeRef s

def execTimeRefReturn (hz : Nat) (s : State) : Host.Outcome State Fault Refusal :=
  onChip s fun s => if !s.time.refLost || aonLost s then s else measureRef (some hz) s

def execPcieRefclkLost (s : State) : Host.Outcome State Fault Refusal :=
  onChip s fun s => mailboxAbort { s with power := { s.power with linkUp := false, pcieRefLost := true } }

/-- One sample of the sensors and the rail monitors (R59, R419): T is the highest reading, and a rail back in its range no longer
stands against R47. -/
def sampleTemperature (sensors : List Int) (rails : List Nat) (s : Chip) : Chip :=
  let s := (sensors.zip (span 0 64)).foldl (fun s x => monSample 4 x.2 x.1 s) s
  let rs := rails.zip (span 0 10)
  let s := rs.foldl (fun s x => monSample 5 x.2 x.1 s) s
  let back := (rs.filter (fun x => let g := nth (0, 0) railRange x.2; decide (g.1 ≤ x.1) && decide (x.1 ≤ g.2))).map (fun x => x.2)
  let t := match sensors with | [] => s.power.temp | v :: vs => vs.foldl max v
  thermal { s with power := { s.power with temp := t, railsOut := s.power.railsOut.filter (fun r => !back.contains r) } }

def execTemperatureSample (sensors : List Int) (rails : List Nat) (s : State) : Host.Outcome State Fault Refusal :=
  onChip s fun s => if aonLost s then s else sampleTemperature sensors rails s

def execKsTjCtrlWrite (value mask : Word) (s : State) : Host.Outcome State Fault Refusal :=
  onChip s fun s => directWrite (caddr .ks 0x0400) value mask s

/-- The address the SMBus target answers at (R57). -/
def smbusAddr (s : Chip) : Nat := 0x58 + s.power.smbAddr

/-- SMBus block read of command 0x20 at an address (R57, R446): zeros while the Keystone's island is in reset. Another address is not
the target's, which then stays silent. -/
def execSmbusSummaryRead (addr : Nat) (s : State) : Host.Outcome State Fault Refusal :=
  onChip s fun s => if aonLost s || addr ≠ smbusAddr s then s else emit (.smbus (leBytes 4 (if dead s then 0 else ksSummary s))) s

/-- The Causeway link of a Tile trains under a running UNIT_UNFENCE of one of its Platforms (R456). -/
def causewayRetrains (s : Chip) (t : Nat) : Bool := (span (4 * t) 4).any (fun k => (cabOf s (.platform k)).repair)

/-- A Causeway link loses its framing in service, or as a repair trains it (R18, R462). -/
def execCausewayFramingLost (tile : Nat) (s : State) : Host.Outcome State Fault Refusal :=
  onUnit (decide (tile < 8)) s fun s =>
    if dead s || ((sget none s.ports.causeway tile).isNone && !causewayRetrains s tile) then s else causewayFail tile s

end Sys2Proof.Machine
end

