-- ==== Sys2Proof/Machine/QueueOrders.lean ====
section
/-!
DEFINITION. MIRROR_SET (R312) and QUEUE_SET (R320).
-/

namespace Sys2Proof.Machine

/-! MIRROR_SET -/

/-- A mirror session. -/
def sessionOf (s : Chip) (k : Nat) : Option Session := sget none s.pkt.sessions k

/-- The sessions a port is attached to, for one direction. -/
def sourcesOf (s : Chip) (egress : Bool) (p : Nat) : NatSet := sget [] (if egress then s.pkt.egSrc else s.pkt.inSrc) p

/-- Replaces them. -/
def setSources (egress : Bool) (p : Nat) (l : NatSet) (s : Chip) : Chip :=
  modPkt (fun k => if egress then { k with egSrc := sput [] k.egSrc p l } else { k with inSrc := sput [] k.inSrc p l }) s

/-- Detaches a session from every port of a source map. -/
def detachAll (k : Nat) (m : Sparse NatSet) : Sparse NatSet :=
  (m.map (fun x => (x.1, ndel x.2 k))).filter (fun x => x.2 ≠ [])

/-- DELETE. -/
def mirrorDelete (k : Nat) (s : Chip) : Status × DWord × Chip :=
  if 63 < k then (.range, 0, s)
  else if (sessionOf s k).isNone then (.notFound, 0, s)
  else (.ok, 0, modPkt (fun x => { x with sessions := sput none x.sessions k none, inSrc := detachAll k x.inSrc,
                                          egSrc := detachAll k x.egSrc }) s)

/-- SET. -/
def mirrorSet (o : MirrorSetOps) (s : Chip) : Status × DWord × Chip :=
  if 63 < o.session || 15 < o.tc || (0 < o.trunc && o.trunc < 64) || 10240 < o.trunc then (.range, 0, s)
  else if (portOf s o.dest).isNone then (.notFound, 0, s)
  else (.ok, 0, modPkt (fun x => { x with sessions := sput none x.sessions o.session (some ⟨o.dest, o.tc, o.trunc⟩) }) s)

/-- ATTACH. -/
def mirrorAttach (o : MirrorAttachOps) (s : Chip) : Status × DWord × Chip :=
  if 63 < o.session then (.range, 0, s)
  else if (portOf s o.port).isNone || (sessionOf s o.session).isNone then (.notFound, 0, s)
  else
    let l := sourcesOf s o.egress o.port
    if l.contains o.session then (.existsAlready, 0, s)
    else if 2 ≤ l.length then (.noRoom, 0, s)
    else (.ok, 0, setSources o.egress o.port (nadd l o.session) s)

/-- DETACH. -/
def mirrorDetach (o : MirrorAttachOps) (s : Chip) : Status × DWord × Chip :=
  if 63 < o.session then (.range, 0, s)
  else if (portOf s o.port).isNone || (sessionOf s o.session).isNone then (.notFound, 0, s)
  else
    let l := sourcesOf s o.egress o.port
    if l.contains o.session then (.ok, 0, setSources o.egress o.port (ndel l o.session) s) else (.notFound, 0, s)

def execMirrorSetDelete (ring session : Nat) (s : State) : Host.Outcome State Fault Refusal :=
  onUnit (decide (ring < 64)) s fun s => endOrder ring (.mirrorSetDelete ring session) noNeeds (mirrorDelete session) s

def execMirrorSetSet (ring : Nat) (ops : MirrorSetOps) (s : State) : Host.Outcome State Fault Refusal :=
  onUnit (decide (ring < 64)) s fun s => endOrder ring (.mirrorSetSet ring ops) noNeeds (mirrorSet ops) s

def execMirrorSetAttach (ring : Nat) (ops : MirrorAttachOps) (s : State) : Host.Outcome State Fault Refusal :=
  onUnit (decide (ring < 64)) s fun s => endOrder ring (.mirrorSetAttach ring ops) noNeeds (mirrorAttach ops) s

def execMirrorSetDetach (ring : Nat) (ops : MirrorAttachOps) (s : State) : Host.Outcome State Fault Refusal :=
  onUnit (decide (ring < 64)) s fun s => endOrder ring (.mirrorSetDetach ring ops) noNeeds (mirrorDetach ops) s

/-! QUEUE_SET -/

/-- The Platform's Order is answered `FENCED` by the Platform, or by the Line pair that serves it; no Line serving it counts as that
(log 47). -/
def queueFence (s : Chip) (k : Nat) : Option Isl :=
  if isFenced s (.platform k) then some (.platform k)
  else match servingLine s k with
    | none => some (.platform k)
    | some n => if isFenced s (.eline n) then some (.eline n) else if isFenced s (.iline n) then some (.iline n) else none

/-- The domains a QUEUE_SET of a port needs (R50). -/
def queueNeeds (p : Nat) (s : Chip) : List Nat :=
  if 511 < p then []
  else offDomains s (.platform (platformOf p) ::
    (match servingLine s (platformOf p) with | none => [] | some n => [.iline n]))

/-- A value of the port policy record lies outside its range (R320). -/
def recordBad (bs : List Byte) : Bool :=
  2 < byteAt bs 0x00 || 7 < byteAt bs 0x01 || 1 < byteAt bs 0x02 || byteAt bs 0x03 ≠ 0 || 10000 < leAt bs 0x04 2 ||
    50000 < leAt bs 0x06 2 || (slice bs 0x08 8).any (fun b => 7 < b.toNat) || (slice bs 0x10 8).any (fun b => 100 < b.toNat) ||
    (slice bs 0x18 64).any (fun b => 7 < b.toNat) || !zeros bs 0x58 0x7F

/-- `PF_PRIO_CTRL` of a record. -/
def recordPrio (bs : List Byte) : Word :=
  packW ([(30, 2, byteAt bs 0), (27, 3, byteAt bs 1), (26, 1, byteAt bs 2)] ++
    (span 0 8).map (fun k => (3 * k, 3, byteAt bs (8 + k))))

/-- `PF_DSCP_MAP` w of a record. -/
def recordDscp (bs : List Byte) (w : Nat) : Word :=
  packW ((span 0 (if w = 6 then 4 else 10)).map (fun e => (3 * e, 3, byteAt bs (0x18 + 10 * w + e))))

/-- OP 0. -/
def queuePolicy (o : QueuePortOps) (s : Chip) : Status × DWord × Chip :=
  if (portOf s o.port).isNone then (.notFound, 0, s)
  else if o.len ≠ 128 || recordBad o.record then (.badOperand, 0, s)
  else match queueFence s (platformOf o.port) with
    | some i => (.fenced, 0, countFencedReq i s)
    | none =>
      let i := Isl.platform (platformOf o.port)
      let b := 0x1000 + 0x40 * laneIndex o.port
      let bs := o.record
      let quota := (span 0 8).foldl (fun m g => sput 0 m g (byteAt bs (0x10 + g))) []
      let s := modPort o.port (fun v => { v with policy := { peerNs := leAt bs 4 2, propNs := leAt bs 6 2, quotaPct := quota } }) s
      let s := deriveWord i (b + 4) (recordPrio bs) s
      let s := (span 0 7).foldl (fun s w => deriveWord i (b + 0x10 + 4 * w) (recordDscp bs w) s) s
      (.ok, 0, settle (derivePlan (commitIsl i s).2))

def execQueueSetPort (ring : Nat) (ops : QueuePortOps) (s : State) : Host.Outcome State Fault Refusal :=
  onUnit (decide (ring < 64)) s fun s => endOrder ring (.queueSetPort ring ops) (queueNeeds ops.port) (queuePolicy ops) s

/-- A queue and its values as OP 1 may refuse them, in the card's order. -/
def queueCheck (o : QueueQueueOps) (s : Chip) : Option Status :=
  let siding := decide (10240 ≤ o.queue)
  let odd (rate burst : Nat) : Bool := decide ((rate = 0) ≠ (burst = 0))
  if 10275 < o.queue then some .range
  else if !queueExists s o.queue then some .notFound
  else if 3200000 < o.minRate || 3200000 < o.maxRate || 1023 < o.minBurst || 1023 < o.maxBurst then some .range
  else if odd o.minRate o.minBurst || odd o.maxRate o.maxBurst || (o.maxRate ≠ 0 && o.maxRate < o.minRate) || o.weight = 0 ||
      7 < o.level || (7 < o.pfcPri && o.pfcPri ≠ 0xFF) || 100 < o.limitPct ||
      (siding && ((o.limitPct ≠ 0 && o.limitPct ≠ 50) || o.pfcPri ≠ 0xFF)) then some .badOperand
  else none

/-- The Platform of a queue: its port's, or the one that the Line pair of a Siding queue serves. -/
def queuePlatform (s : Chip) (q : Nat) : Option Nat :=
  match queuePort q with | some p => some (platformOf p) | none => servedBy s (q - 10240)

/-- What fences a QUEUE_SET of a queue: its Platform or the Line pair that serves it; for the Siding queue of a pair that serves none,
the egress Line that holds its words. -/
def queueIslFence (s : Chip) (q : Nat) : Option Isl :=
  match queuePlatform s q with
  | some k => queueFence s k
  | none => if isFenced s (.eline (q - 10240)) then some (.eline (q - 10240)) else none

/-- Writes the three scheduling words of a queue at the Line that serves it, its buckets filled under the old ones first (R302). -/
def writeSched (q : Nat) (cfg lo hi : Word) (s : Chip) : Chip :=
  match queueLine s q with
  | none => s
  | some n =>
    let put (o : Nat) (w : Word) (s : Chip) : Chip := deriveWord (.eline n) (schedWordAt n q o % 2 ^ 32) w s
    fillBuckets q (put 8 hi (put 4 lo (put 0 cfg (fillBuckets q s))))

/-- OP 1. -/
def queueValues (o : QueueQueueOps) (s : Chip) : Status × DWord × Chip :=
  match queueCheck o s with
  | some e => (e, 0, s)
  | none => match queueIslFence s o.queue with
    | some i => (.fenced, 0, countFencedReq i s)
    | none =>
      let pri := if o.pfcPri = 0xFF then 0xF else o.pfcPri
      let s := writeSched o.queue (packW [(24, 4, pri), (8, 8, o.weight), (0, 3, o.level)])
        (packW [(10, 22, o.minRate), (0, 10, o.minBurst)]) (packW [(10, 22, o.maxRate), (0, 10, o.maxBurst)]) s
      let s := modQueueSt o.queue (fun v => { v with limitPct := if o.limitPct = 0 then 50 else o.limitPct }) s
      let s := match queuePlatform s o.queue with | none => s | some k => (commitIsl (.platform k) s).2
      (.ok, 0, settle (derivePlan s))

/-- The domains OP 1 needs. -/
def queueQueueNeeds (q : Nat) (s : Chip) : List Nat :=
  if 10275 < q then []
  else match queuePort q with
    | some p => queueNeeds p s
    | none => offDomains s (.eline (q - 10240) :: (match servedBy s (q - 10240) with | none => [] | some k => [.platform k]))

def execQueueSetQueue (ring : Nat) (ops : QueueQueueOps) (s : State) : Host.Outcome State Fault Refusal :=
  onUnit (decide (ring < 64)) s fun s => endOrder ring (.queueSetQueue ring ops) (queueQueueNeeds ops.queue) (queueValues ops) s

/-- OP 2: a group becomes a mask of configured ports. -/
def groupSet (o : QueueMcOps) (s : Chip) : Status × DWord × Chip :=
  let m := leNat (o.payload.data.take 64)
  if o.payload.len ≠ 64 then (.badOperand, 0, s)
  else if (maskPorts m).any (fun p => (portOf s p).isNone) then (.notFound, 0, s)
  else (.ok, 0, modPkt (fun k => { k with groups := sput 0 k.groups o.group m }) s)

/-- OP 3: the mask of a group, and how many members it has. -/
def groupRead (o : QueueMcOps) (s : Chip) : Status × DWord × Chip :=
  let m := mcMask s o.group
  if o.payload.len ≠ 64 then (.badOperand, 0, s)
  else (.ok, packD [(0, 16, (maskPorts m).length)], writePayload (some o.payload) (leBytes 64 m) s)

def execQueueSetMcSet (ring : Nat) (ops : QueueMcOps) (s : State) : Host.Outcome State Fault Refusal :=
  onUnit (decide (ring < 64)) s fun s => endOrder ring (.queueSetMcSet ring ops) noNeeds (groupSet ops) s

def execQueueSetMcRead (ring : Nat) (ops : QueueMcOps) (s : State) : Host.Outcome State Fault Refusal :=
  onUnit (decide (ring < 64)) s fun s => endOrder ring (.queueSetMcRead ring ops) noNeeds (groupRead ops) s

end Sys2Proof.Machine
end

