-- ==== Sys2Proof/Machine/Start.lean ====
section
/-!
DEFINITION. Patch containers (R74, R75), the boot sequence (R69 to R82) and the mailbox (R77).
-/

namespace Sys2Proof.Machine

/-! Patch containers -/

/-- Number of ones of a fuse word. -/
def onesOf (n x : Nat) : Nat := ((span 0 n).filter (bit x)).length

/-- The lowest SVN that is accepted (R71). -/
def minSvn : Nat := onesOf 63 Config.minSvnFuse.toNat

/-- The checks of a container's header, body length, signature and tag in the order of R75: the error code of the first that
fails. `size` is PC_MBOX_LEN of a mailbox container. -/
def containerError (c : List Byte) (size : Option Nat) : Option Nat :=
  let f (off n : Nat) : Nat := leAt c off n
  let len := f 8 4
  let body := slice c 0x100 len
  let sigOk := ecdsaOk (Config.signKey (f 0x0F 1)) (c.take (0x100 + len)) (leAt c (0x100 + len) 48) (leAt c (0x130 + len) 48)
  let aad := toNats (c.take 0x14)
  let rk := roundKeys (bytesBE 32 Config.patchKey.toNat)
  let tag := gcmTag rk (gcmJ0 (toNats (slice c 0x14 12))) aad (toNats body)
  if f 0 4 ≠ 0x54504645 || f 4 2 ≠ 1 || f 6 2 ≠ 0x100 || 3 < f 0x0F 1 || 63 < f 0x10 1 || 1 < f 0x11 1 || f 0x12 2 = 0 ||
      64 < f 0x12 2 || !allZero (slice c 0x30 208) then some 0x01
  else if f 0x0C 2 ≠ 0x5120 || f 0x0E 1 ≠ 0xA0 then some 0x02
  else if bit Config.revoked.toNat (f 0x0F 1) then some 0x03
  else if f 0x10 1 < minSvn then some 0x04
  else if len % 16 ≠ 0 || len < 16 || 524288 < len || c.length < 352 + len ||
      (match size with | none => false | some n => n ≠ 352 + len) then some 0x05
  else if !sigOk then some 0x06
  else if tag ≠ toNats (slice c 0x20 16) then some 0x07
  else none

/-- The decrypted body of a container (R74). -/
def containerBody (c : List Byte) : List Byte :=
  ofNats (gcmCrypt (roundKeys (bytesBE 32 Config.patchKey.toNat)) (toNats (slice c 0x14 12)) (toNats (slice c 0x100 (leAt c 8 4))))

/-- One item of a patch segment is well formed (R74). -/
def patchItemOk (kind : Nat) (b : List Byte) : Bool :=
  if kind = 1 then leAt b 14 2 = 0
  else leAt b 0 2 < 16384 && leAt b 2 2 < 2048 && leAt b 4 1 < 2 && allZero (b.drop 5)

/-- Loads one item into the Signalmen of a segment's mask (R74). -/
def loadItem (mask kind index : Nat) (b : List Byte) (s : Chip) : Chip :=
  ((span 0 16).filter (bit mask)).foldl (fun s n => modSm n (fun m =>
    let m := { m with patched := true }
    if kind = 1 then { m with patch := sins m.patch index (leAt b 0 14), image := sins m.image index (leAt b 0 14) }
    else { m with traps := sins m.traps index (some ⟨leAt b 0 2, leAt b 2 2, bit (leAt b 4 1) 0⟩) }) s) s

/-- The `n` segments at the head of a body: each as mask, kind, start and items; `none` where one is out of range (R74, R75). -/
def patchSegments : Nat → List Byte → Option (List (Nat × Nat × Nat × List (List Byte)))
  | 0, b => if allZero b then some [] else none
  | n + 1, b =>
    let kind := leAt b 2 1
    let start := leAt b 4 2
    let count := leAt b 6 2
    let items := (span 0 count).map (fun k => slice b (16 + 16 * k) 16)
    if b.length < 16 + 16 * count || (kind ≠ 1 && kind ≠ 2) || leAt b 3 1 ≠ 0 || !allZero (slice b 8 8) ||
        (if kind = 1 then 2048 else 64) ≤ start || (if kind = 1 then 2048 else 64) < start + count || !items.all (patchItemOk kind) then none
    else (patchSegments n (b.drop (16 + 16 * count))).map (fun l => (leAt b 0 2, kind, start, items) :: l)

/-- Loads every segment. -/
def loadSegments (l : List (Nat × Nat × Nat × List (List Byte))) (s : Chip) : Chip :=
  l.foldl (fun s g => ((span 0 g.2.2.2.length).zip g.2.2.2).foldl (fun s x => loadItem g.1 g.2.1 (g.2.2.1 + x.1) x.2 s) s) s

/-- Checks a container and loads it (R75): `inl` the error code, `inr` the state with the patch set in place. -/
def loadContainer (c : List Byte) (size : Option Nat) (s : Chip) : Nat ⊕ Chip :=
  match containerError c size with
  | some e => .inl e
  | none => match patchSegments (leAt c 0x12 2) (containerBody c) with
    | none => .inl 0x08
    | some l => .inr { loadSegments l s with boot := { s.boot with svn := leAt c 0x10 1 } }

/-! The boot sequence -/

/-- Changes the boot state. -/
def modBoot (f : BootSt → BootSt) (s : Chip) : Chip := { s with boot := f s.boot }

/-- The test types quick BIST runs on an island (R80, R484): memories of Yards and Line pairs, trained Causeway links. -/
def quickType (s : Chip) : Isl → Option Nat
  | .yard _ => some 1 | .iline _ => some 1 | .eline _ => some 1
  | .platform k => if k % 4 = 0 && (sget none s.ports.causeway (k / 4)).isSome then some 4 else none
  | _ => none

/-- Keeps the result of one quick BIST. The spec states neither how many patterns it has nor its signature: free values. -/
def quickResult (i : Isl) (type : Nat) (o : BistOutcome) (s : Chip) : Chip :=
  let exp := bistExpected i type
  let total := (freeNext s).toNat
  let s := freeTake s
  let other := (freeNext s).toNat
  let s := freeTake s
  let dur := (freeNext s).toNat
  let s := freeTake s
  let st : Status := match o with | .fail => .bistFail | .incomplete => .incomplete | _ => .ok
  bistKeep i 0xFF (bistRecord type 0xFF st (if o = .pass then exp else other % 2 ^ 32) exp dur
    (if o = .incomplete then other else total) total (if o = .pass then 0xFFFFFFFF else other / 2 ^ 32) 0 (nowTs s)) s

/-- What quick BIST does with one block (R81): a failed one stays fenced with its S3 fault, one refused raises an S0 fault. A block
that passes keeps CAB_GEN, whether or not its test fenced it meanwhile (DESIGN CHOICE, log 148). -/
def quickOne (i : Isl) (o : BistOutcome) (s : Chip) : Chip :=
  match quickType s i with
  | none => s
  | some type => match o with
    | .pass => quickResult i type .pass s
    | .conditions => raise i 0xF1 clsBist 0 s
    | o => raise i 0xF0 clsBist 3 (quickResult i type o (bistFence i 0xFF type s))

/-- Every target of quick BIST, with what it meets; those the environment does not name pass (R80, R484). -/
def quickBist (found : List (Nat × BistOutcome)) (s : Chip) : Chip :=
  let named := found.map (fun x => x.1)
  let targets : List Isl := ((span 0 8).map .yard ++ (span 0 36).map .iline ++ (span 0 8).map (fun t => .platform (4 * t)))
  let isNamed (i : Isl) : Bool := named.contains i.code || (match i with | .iline n => named.contains (Isl.eline n).code | _ => false)
  let s := (targets.filter (fun i => !isNamed i)).foldl (fun s i => quickOne i .pass s) s
  found.foldl (fun s x => match islOf x.1 with | none => s | some i => quickOne i x.2 s) s

/-- The Signalmen start at their dispatchers (R75, R463). -/
def startSms (s : Chip) : Chip :=
  (span 0 16).foldl (fun s n => modSm n (fun m => { m with m := { addr := redirect m 0x0100 } }) s) s

/-- Steps 6 to 8 (R69): Causeway training, quick BIST if selected, READY. -/
def bootFinish (quick romOnly : Bool) (env : BootEnv) (s : Chip) : Chip :=
  let s := startSms (modBoot (fun b => { b with stage := 0x04, reading := false }) s)
  let s := (span 0 8).foldl (fun s t => trainCauseway t env.causeway s) s
  let s := if quick then quickBist env.bist (modBoot (fun b => { b with stage := 0x05 }) s) else s
  bootEvent (errUpdate (modBoot (fun b => { b with stage := if romOnly then 0x07 else 0x06, done := true }) s))

/-- The boot goes on without patches (R76, R77). -/
def bootRomOnly (env : BootEnv) (s : Chip) : Chip :=
  bootFinish Config.quickBist true env (raise .sb 0x60 clsFirmware 2 s)

/-- Step 5 from QSPI flash (R76). -/
def bootFlash (env : BootEnv) (s : Chip) : Chip :=
  let s := modBoot (fun b => { b with stage := 0x02 }) s
  match env.flash with
  | none => bootRomOnly env (modBoot (fun b => { b with error := 0x09 }) s)
  | some (a, b) => match loadContainer a none s with
    | .inr s => bootFinish (bit (leAt a 0x11 1) 0) false env s
    | .inl e =>
      let s := modBoot (fun b => { b with error := e }) s
      match loadContainer b none s with
      | .inr s => bootFinish (bit (leAt b 0x11 1) 0) false env s
      | .inl e => bootRomOnly env (modBoot (fun b => { b with error := e }) s)

/-- The boot sequence from its first step (R69 to R73): to READY, to the mailbox wait, or to HALTED. -/
def bootRun (env : BootEnv) (s : Chip) : Chip :=
  let s := { s with boot := { bootSrc := env.bootSrc } }
  if !env.fusesGood then rstCause 4 (modBoot (fun b => { b with stage := 0x0F, error := 0x0A }) s)
  else
    let s := linkTrain (modBoot (fun b => { b with stage := 0x01 }) s)
    if env.bootSrc then modBoot (fun b => { b with stage := 0x03 }) s else bootFlash env s

def execBootSequence (env : BootEnv) (s : State) : Host.Outcome State Fault Refusal :=
  onChip s fun s => if s.boot.pending && !dead s then bootRun env s else s

/-! The mailbox (R77, R78) -/

/-- A container read through the mailbox is checked; a rejected one leaves the stage at 0x03 with its code. A size outside the bounds
of R77 is refused before the header is looked at (DESIGN CHOICE, log 147). -/
def mailboxLoad (bytes : List Byte) (env : BootEnv) (s : Chip) : Chip :=
  let s := modBoot (fun b => { b with reading := false }) s
  if s.boot.mbLen < 368 || 524640 < s.boot.mbLen then modBoot (fun b => { b with error := 0x05 }) s
  else match loadContainer (bytes.take s.boot.mbLen) (some s.boot.mbLen) s with
    | .inr s => bootFinish (bit (leAt bytes 0x11 1) 0) false env s
    | .inl e => modBoot (fun b => { b with error := e }) s

/-- A write of PC_MBOX_CTRL with PC_MBOX_GO set. A read that has started ends by `.finished`. The stage stays 0x03 while the container
is read (log 145), and PC_MBOX_LEN is written whether or not GO is ignored (log 146): DESIGN CHOICES both. -/
def mailboxGo (len : Nat) (read : MailboxRead) (env : BootEnv) (s : Chip) : Chip :=
  if !barUp s then s
  else match read with
    | .finished bytes => if s.boot.reading then mailboxLoad bytes env s else s
    | _ =>
      if s.boot.reading && read = .dmaError then modBoot (fun b => { b with reading := false, error := 0x0B }) s
      else
        let go := s.boot.stage = 0x03 && !s.boot.reading
        let s := modBoot (fun b => { b with mbLen := len % 2 ^ 20 }) s
        if !go then s
        else if s.boot.mbLen = 0 then bootRomOnly env s
        else match read with
          | .whole bytes => mailboxLoad bytes env s
          | .started => modBoot (fun b => { b with reading := true }) s
          | _ => modBoot (fun b => { b with error := 0x0B }) s

def execMailboxGo (len : Nat) (read : MailboxRead) (env : BootEnv) (s : State) : Host.Outcome State Fault Refusal :=
  onChip s fun s => mailboxGo len read env s

end Sys2Proof.Machine
end

