-- ==== Sys2Proof/Machine/TimeOrders.lean ====
section
/-!
DEFINITION. The Timetable's Orders and events (R383 to R390, R402 to R405). The clock itself stands in `Machine/Clock.lean`: a command that marks the
moment of an event of the clock does what the tick of that moment does (log 171).
-/

namespace Sys2Proof.Machine

/-- Changes the Timetable. -/
def modTime (f : TimeSt → TimeSt) (s : Chip) : Chip := { s with time := f s.time }

/-- The nominal increment in 2^-32 ns (R380). -/
def incrNominal : Nat := 0xCCCCCCCD

/-- D cut so that the effective increment stays within R383 over a base. -/
def cutSlew (base : Nat) (d : Int) : Int := max ((incrMin : Int) - base) (min ((incrMax : Int) - base) d)

/-- LEAVE_HOLDOVER: clears TT_HOLDOVER while `TIME_REF_IN` is present (R388). -/
def leaveHoldover (leave : Bool) (s : Chip) : Chip :=
  if leave && !s.time.refLost then modTime (fun t => { t with holdover := false }) s else s

/-- LEAVE_HOLDOVER is refused: the reference is lost. -/
def leaveRefused (leave : Bool) (s : Chip) : Bool := leave && s.time.refLost

/-- The holdover watchdog restarts (R388). -/
def restartWdog (s : Chip) : Chip := modTime (fun t => { t with wdogStart := t.run }) s

/-- `GOVERNED` where a bound changed what was asked for, else `OK`. -/
def governedIf (b : Bool) : Status := if b then .governed else .ok

/-- Effect of TIME_FREQ (R386), whose clamp the governor counts (R474): a slew in progress keeps its D, cut to the clamp for the new base (R384). -/
def timeFreq (ops : TimeFreqOps) (s : Chip) : Status × DWord × Chip :=
  let inc := limit incrMin incrMax ops.increment
  let gov := inc ≠ ops.increment || leaveRefused ops.leave s
  let s := if inc ≠ ops.increment then countClamp (executor s 2) s else s
  let s := leaveHoldover ops.leave (restartWdog (modTime (fun t =>
    { t with incr := inc, slew := t.slew.map (fun w => { w with d := cutSlew inc w.d }) }) s))
  (governedIf gov, BitVec.ofNat 64 (pack [(63, 1, b2n s.time.holdover), (0, 40, inc)]), s)

/-- TIME_FREQ (R386). -/
def execTimeFreq (ring : Nat) (ops : TimeFreqOps) (s : State) : Host.Outcome State Fault Refusal :=
  onUnit (decide (ring < 64)) s fun s => endOrder ring (.timeFreq ring ops) noNeeds (timeFreq ops) s

/-- D of a rate and a sign (R384): rounded to the nearest 2^-32 ns. -/
def slewOf (rate : Nat) (up : Bool) : Int :=
  let n : Nat := (incrNominal * rate * 2 + 1000000) / 2000000
  if up then n else -n

/-- The rate a D stands for, in ppm, to the nearest (DEDUCED from the rounding of R384, log 69). -/
def rateOf (d : Int) : Nat := (d.natAbs * 2000000 + incrNominal) / (2 * incrNominal)

/-- Effect of TIME_SLEW (R387). -/
def timeSlew (ops : TimeSlewOps) (s : Chip) : Status × DWord × Chip :=
  let want := slewOf ops.rate (decide (0 < ops.offset))
  let d := cutSlew s.time.incr want
  if 65536000000000 < ops.offset.natAbs || ops.rate = 0 || 1000 < ops.rate ||
      (ops.offset ≠ 0 && (if 0 < ops.offset then d ≤ 0 else 0 ≤ d)) then (.range, 0, s)
  else
    let cut := ops.offset ≠ 0 && d ≠ want
    let gov := cut || leaveRefused ops.leave s
    let res := BitVec.ofNat 64 (pack [(48, 16, if cut then rateOf d else ops.rate), (0, 48, unsignedOf 48 (slewRem s))])
    let w : Option Slew := if ops.offset = 0 then none else some ⟨ops.offset * 65536, d⟩
    let s := if cut then countClamp (executor s 2) s else s
    (governedIf gov, res, leaveHoldover ops.leave (restartWdog (modTime (fun t => { t with slew := w }) s)))

/-- TIME_SLEW (R387). -/
def execTimeSlew (ring : Nat) (ops : TimeSlewOps) (s : State) : Host.Outcome State Fault Refusal :=
  onUnit (decide (ring < 64)) s fun s => endOrder ring (.timeSlew ring ops) noNeeds (timeSlew ops) s

/-- A step of the clock (R385): the slew in progress ends, its remainder discarded, and TT_STEP_COUNT rises. -/
def stepClock (f : TimeSt → TimeSt) (leave : Bool) (s : Chip) : Status × DWord × Chip :=
  (governedIf (leaveRefused leave s), BitVec.ofNat 64 (nowTs s),
    leaveHoldover leave (modTime (fun t => { f t with slew := none, stepCount := (t.stepCount + 1) % 16 }) s))

/-- Effect of TIME_STEP MODE 0 (R389). -/
def timeStepAbs (ops : TimeStepAbsOps) (s : Chip) : Status × DWord × Chip :=
  if 999999999 < ops.ns then (.range, 0, s)
  else stepClock (fun t => { t with sec := ops.seconds % 2 ^ 48, ns := ops.ns, frac := 0 }) ops.leave s

/-- TIME_STEP MODE 0 (R389). -/
def execTimeStepAbsolute (ring : Nat) (ops : TimeStepAbsOps) (s : State) : Host.Outcome State Fault Refusal :=
  onUnit (decide (ring < 64)) s fun s => endOrder ring (.timeStepAbsolute ring ops) noNeeds (timeStepAbs ops) s

/-- Effect of TIME_STEP MODE 1 (R389): the fraction stays (R385). -/
def timeStepRel (ops : TimeStepRelOps) (s : Chip) : Status × DWord × Chip :=
  let t : Int := (s.time.sec : Int) * 1000000000 + s.time.ns + ops.offset
  if t < 0 || (2 ^ 48 * 1000000000 : Int) ≤ t then (.range, 0, s)
  else stepClock (moveClock (ops.offset * 2 ^ 32)) ops.leave s

/-- TIME_STEP MODE 1 (R389). -/
def execTimeStepRelative (ring : Nat) (ops : TimeStepRelOps) (s : State) : Host.Outcome State Fault Refusal :=
  onUnit (decide (ring < 64)) s fun s => endOrder ring (.timeStepRelative ring ops) noNeeds (timeStepRel ops) s

/-- The 48-byte record of TIME_READ (R405). -/
def timeRecord (s : Chip) : List Byte :=
  let t := s.time
  leBytes 6 t.sec ++
  leBytes 2 (pack [(0, 1, b2n t.holdover), (1, 1, b2n t.refLost), (2, 1, b2n t.slew.isSome), (4, 4, t.stepCount)]) ++
  leBytes 4 t.ns ++ leBytes 4 t.frac ++ leBytes 8 t.incr ++ leBytes 8 (unsignedOf 64 (slewRem s)) ++ leBytes 8 t.run ++
  leBytes 8 0

/-- Effect of TIME_READ (R405). -/
def timeRead (payload : Option Payload) (s : Chip) : Status × DWord × Chip :=
  match payload with
  | none => (.ok, BitVec.ofNat 64 (nowTs s), s)
  | some p => if p.len ≠ 48 then (.badOperand, 0, s) else (.ok, 0, writePayload (some p) (timeRecord s) s)

/-- TIME_READ (R405). -/
def execTimeRead (ring : Nat) (payload : Option Payload) (s : State) : Host.Outcome State Fault Refusal :=
  onUnit (decide (ring < 64)) s fun s => endOrder ring (.timeRead ring payload) noNeeds (timeRead payload) s

/-- A slew ends: the tick that adds the remainder of its offset (R384). While more than D is left no tick ends it. -/
def execSlewEnd (s : State) : Host.Outcome State Fault Refusal :=
  onChip s fun s => if slewDone s.time then blockTick s else s

/-- TT_HOLD_WDOG ms have passed since the watchdog's starting point (R388); before that, or with TT_HOLD_WDOG 0, nothing happens. -/
def execHoldoverWatchdog (s : State) : Host.Outcome State Fault Refusal :=
  onChip s fun s => if aonLost s || !wdogDue s then s else wdogEnter s

/-- A write of `TT_CTRL` that no Order carries (R388). -/
def execTtHoldWdogWrite (value mask : Word) (s : State) : Host.Outcome State Fault Refusal :=
  onChip s fun s => directWrite (caddr .tt 0x0104) value mask s

/-- A copy after one more loop measurement, in 2^-16 ns (R390): one that differs from the one before by more than 0.5 ns unlocks
it, and two that agree within 0.1 ns lock it. -/
def measureCopy (delay : Nat) (c : CopyLock) : CopyLock :=
  let gap := match c.meas with | [] => none | m :: _ => some (((delay : Int) - m).natAbs)
  { locked := match gap with
      | none => false
      | some g => if c.locked then decide (g ≤ 32768) else decide (10 * g ≤ 65536)
    meas := [delay] }

/-- A copy's loop is measured: one that unlocks raises its fault (R390, R406). -/
def loopMeasure (copy : TimeCopy) (delay : Nat) (s : Chip) : Chip :=
  match copy with
  | .tile t =>
    if dead s || (sget none s.ports.causeway t).isNone then s
    else
      let c := tileCopy s t
      let c' := measureCopy delay c
      let s := modTime (fun x => { x with tile := sput {} x.tile t c' }) s
      if c.locked && !c'.locked then raise (.platform (4 * t)) 0x70 clsTime 2 s else s
  | .egress n =>
    if dead s || !isOn s (.eline n) then s
    else
      let c := egressCopy s n
      let c' := measureCopy delay c
      let s := modTime (fun x => { x with egress := sput {} x.egress n c' }) s
      if c.locked && !c'.locked then raise (.eline n) 0x90 clsTime 2 s else s

/-- A copy of the time measures its loop (R390). -/
def execTimeCopyLoopMeasure (copy : TimeCopy) (delay : Nat) (s : State) : Host.Outcome State Fault Refusal :=
  onUnit (match copy with | .tile t => decide (t < 8) | .egress n => decide (n < 36)) s fun s => loopMeasure copy delay s

/-! Pulses (R402, R403) -/

/-- The capture of a rising edge on `PPS_IN[k]` (R402). -/
def ppsCapture (k : Nat) (s : Chip) : Chip :=
  let p := sget {} s.time.pps k
  let n := satAdd 0xFFFF p.count 1
  if p.new then
    modTime (fun t => { t with pps := sput {} t.pps k { p with overrun := true, count := n } }) s
  else
    let at' := moveClock (-(signedWord s (caddr .tt (0x012C + 16 * k))) * 65536) s.time
    let ts := report at'.sec at'.ns at'.frac s.time.holdover
    let v : PpsIn := { ts := ts, new := true, overrun := false, step := s.time.stepCount, count := n }
    ttEvent k (modTime (fun t => { t with pps := sput {} t.pps k v }) s)

/-- A rising edge on `PPS_IN[k]` (R402). -/
def execPpsInCapture (k : Nat) (s : State) : Host.Outcome State Fault Refusal :=
  onUnit (decide (k < 2)) s fun s => if aonLost s then s else ppsCapture k s

/-- The tick at which the clock passes the target of `PPS_OUT[k]` (R403). A step across a target makes none. -/
def execPpsOutPulse (k : Nat) (s : State) : Host.Outcome State Fault Refusal :=
  onUnit (decide (k < 2)) s fun s => if ppsRises s k then blockTick s else s

/-- The tick at which WIDTH µs after its edge `PPS_OUT[k]` falls (R403). -/
def execPpsOutPulseEnd (k : Nat) (s : State) : Host.Outcome State Fault Refusal :=
  onUnit (decide (k < 2)) s fun s => if ppsFalls s k then blockTick s else s

end Sys2Proof.Machine
end

