-- ==== Sys2Proof/Machine/Dispatch.lean ====
section
/-!
DEFINITION. The meaning of each command: one arm per row of the opcode table.
-/

namespace Sys2Proof.Machine

def exec (i : Instr) (s : State) : Host.Outcome State Fault Refusal :=
  match i with
  | .supplyReset rail => Sys2Proof.Machine.execSupplyReset rail s
  | .supplyResetRelease ref => Sys2Proof.Machine.execSupplyResetRelease ref s
  | .systemResetPin => Sys2Proof.Machine.execSystemResetPin s
  | .sysRstNRelease => Sys2Proof.Machine.execSysRstNRelease s
  | .chipResetRequest value mask => Sys2Proof.Machine.execChipResetRequest value mask s
  | .chipResetStart => Sys2Proof.Machine.execChipResetStart s
  | .pcieFundamentalReset => Sys2Proof.Machine.execPcieFundamentalReset s
  | .functionLevelReset => Sys2Proof.Machine.execFunctionLevelReset s
  | .testReset => Sys2Proof.Machine.execTestReset s
  | .bootSequence env => Sys2Proof.Machine.execBootSequence env s
  | .mailboxGo len read env => Sys2Proof.Machine.execMailboxGo len read env s
  | .domainAutoOff n => Sys2Proof.Machine.execDomainAutoOff n s
  | .domainPowerUp n env => Sys2Proof.Machine.execDomainPowerUp n env s
  | .pdModeAuto n => Sys2Proof.Machine.execPdModeAuto n s
  | .pdModeForceOn n env => Sys2Proof.Machine.execPdModeForceOn n env s
  | .pdModeForceOff n => Sys2Proof.Machine.execPdModeForceOff n s
  | .railOutOfRange rail => Sys2Proof.Machine.execRailOutOfRange rail s
  | .vddFuseHigh => Sys2Proof.Machine.execVddFuseHigh s
  | .refclkSysLost => Sys2Proof.Machine.execRefclkSysLost s
  | .refclkTileLost tile => Sys2Proof.Machine.execRefclkTileLost tile s
  | .timeRefLost => Sys2Proof.Machine.execTimeRefLost s
  | .timeRefReturn hz => Sys2Proof.Machine.execTimeRefReturn hz s
  | .pcieRefclkLost => Sys2Proof.Machine.execPcieRefclkLost s
  | .temperatureSample sensors rails => Sys2Proof.Machine.execTemperatureSample sensors rails s
  | .ksTjCtrlWrite value mask => Sys2Proof.Machine.execKsTjCtrlWrite value mask s
  | .smbusSummaryRead addr => Sys2Proof.Machine.execSmbusSummaryRead addr s
  | .ringEnable ring cfg => Sys2Proof.Machine.execRingEnable ring cfg s
  | .ringDisable ring cfg => Sys2Proof.Machine.execRingDisable ring cfg s
  | .ringTailDoorbell ring index fences => Sys2Proof.Machine.execRingTailDoorbell ring index fences s
  | .cplHeadDoorbell ring index => Sys2Proof.Machine.execCplHeadDoorbell ring index s
  | .dmaQueueEnable q cfg => Sys2Proof.Machine.execDmaQueueEnable q cfg s
  | .dmaQueueDisable q cfg => Sys2Proof.Machine.execDmaQueueDisable q cfg s
  | .dmaQueueDoorbell q bell => Sys2Proof.Machine.execDmaQueueDoorbell q bell s
  | .orderStart ring o => Sys2Proof.Machine.execOrderStart ring o s
  | .orderPending ring => Sys2Proof.Machine.execOrderPending ring s
  | .orderCompletion ring => Sys2Proof.Machine.execOrderCompletion ring s
  | .msixUnmask vector => Sys2Proof.Machine.execMsixUnmask vector s
  | .w1cClear a value => Sys2Proof.Machine.execW1cClear a value s
  | .readClear a => Sys2Proof.Machine.execReadClear a s
  | .registerWrite a value mask posted => Sys2Proof.Machine.execRegisterWrite a value mask posted s
  | .fieldRead ring ops => Sys2Proof.Machine.execFieldRead ring ops s
  | .fieldWrite ring ops => Sys2Proof.Machine.execFieldWrite ring ops s
  | .blockCommit ring islands => Sys2Proof.Machine.execBlockCommit ring islands s
  | .hostFrameDescriptor q bytes => Sys2Proof.Machine.execHostFrameDescriptor q bytes s
  | .hostFrameCompletion q => Sys2Proof.Machine.execHostFrameCompletion q s
  | .toHostDelivery q => Sys2Proof.Machine.execToHostDelivery q s
  | .portSet ring ops => Sys2Proof.Machine.execPortSet ring ops s
  | .portState ring ops => Sys2Proof.Machine.execPortState ring ops s
  | .failoverSet ring ops => Sys2Proof.Machine.execFailoverSet ring ops s
  | .laneTuneSetTx ring ops => Sys2Proof.Machine.execLaneTuneSetTx ring ops s
  | .laneTuneFreezeRx ring lane => Sys2Proof.Machine.execLaneTuneFreezeRx ring lane s
  | .laneTuneRelease ring lane => Sys2Proof.Machine.execLaneTuneRelease ring lane s
  | .laneTuneReadTx ring lane => Sys2Proof.Machine.execLaneTuneReadTx ring lane s
  | .laneTuneReadBest ring lane => Sys2Proof.Machine.execLaneTuneReadBest ring lane s
  | .anAgreement port partner => Sys2Proof.Machine.execAnAgreement port partner s
  | .laneTrainingDone port => Sys2Proof.Machine.execLaneTrainingDone port s
  | .trainFail lane best margin => Sys2Proof.Machine.execTrainFail lane best margin s
  | .backoffExpiry port => Sys2Proof.Machine.execBackoffExpiry port s
  | .portAligned port skewNs => Sys2Proof.Machine.execPortAligned port skewNs s
  | .skewRetry port skewNs => Sys2Proof.Machine.execSkewRetry port skewNs s
  | .losDetected lane => Sys2Proof.Machine.execLosDetected lane s
  | .lolDetected lane => Sys2Proof.Machine.execLolDetected lane s
  | .losCleared lane => Sys2Proof.Machine.execLosCleared lane s
  | .lockRegained lane => Sys2Proof.Machine.execLockRegained lane s
  | .relockTimeout lane => Sys2Proof.Machine.execRelockTimeout lane s
  | .remoteFaultReceived port => Sys2Proof.Machine.execRemoteFaultReceived port s
  | .remoteFaultCleared port => Sys2Proof.Machine.execRemoteFaultCleared port s
  | .rateMatchOverrun lane => Sys2Proof.Machine.execRateMatchOverrun lane s
  | .eyeMarginUpdate lane mv => Sys2Proof.Machine.execEyeMarginUpdate lane mv s
  | .wtrExpiry group port => Sys2Proof.Machine.execWtrExpiry group port s
  | .quietEntry port => Sys2Proof.Machine.execQuietEntry port s
  | .quietRequestReceived port => Sys2Proof.Machine.execQuietRequestReceived port s
  | .quietAnswerTimeout port => Sys2Proof.Machine.execQuietAnswerTimeout port s
  | .quietBeacon port => Sys2Proof.Machine.execQuietBeacon port s
  | .standbyLost port => Sys2Proof.Machine.execStandbyLost port s
  | .quietWake port => Sys2Proof.Machine.execQuietWake port s
  | .wakeBurstReceived port => Sys2Proof.Machine.execWakeBurstReceived port s
  | .wakeRelock port => Sys2Proof.Machine.execWakeRelock port s
  | .quietReentry port => Sys2Proof.Machine.execQuietReentry port s
  | .pfcFrameReceived port classes quanta => Sys2Proof.Machine.execPfcFrameReceived port classes quanta s
  | .pauseFrameReceived port => Sys2Proof.Machine.execPauseFrameReceived port s
  | .pauseExpiry port prio => Sys2Proof.Machine.execPauseExpiry port prio s
  | .xoffRefresh port prio => Sys2Proof.Machine.execXoffRefresh port prio s
  | .mgmtFrameReceived lane bytes => Sys2Proof.Machine.execMgmtFrameReceived lane bytes s
  | .frameReceive f => Sys2Proof.Machine.execFrameReceive f s
  | .ingressLinePass line half d => Sys2Proof.Machine.execIngressLinePass line half d s
  | .copyFormation half d => Sys2Proof.Machine.execCopyFormation half d s
  | .lastCellWritten fid => Sys2Proof.Machine.execLastCellWritten fid s
  | .transmitOpportunity sel env => Sys2Proof.Machine.execTransmitOpportunity sel env s
  | .egressMirrorWrite half d => Sys2Proof.Machine.execEgressMirrorWrite half d s
  | .transmitComplete port => Sys2Proof.Machine.execTransmitComplete port s
  | .copyDiscardWalk cid => Sys2Proof.Machine.execCopyDiscardWalk cid s
  | .sidingReentry line => Sys2Proof.Machine.execSidingReentry line s
  | .mirrorSetDelete ring session => Sys2Proof.Machine.execMirrorSetDelete ring session s
  | .mirrorSetSet ring ops => Sys2Proof.Machine.execMirrorSetSet ring ops s
  | .mirrorSetAttach ring ops => Sys2Proof.Machine.execMirrorSetAttach ring ops s
  | .mirrorSetDetach ring ops => Sys2Proof.Machine.execMirrorSetDetach ring ops s
  | .queueSetPort ring ops => Sys2Proof.Machine.execQueueSetPort ring ops s
  | .queueSetQueue ring ops => Sys2Proof.Machine.execQueueSetQueue ring ops s
  | .queueSetMcSet ring ops => Sys2Proof.Machine.execQueueSetMcSet ring ops s
  | .queueSetMcRead ring ops => Sys2Proof.Machine.execQueueSetMcRead ring ops s
  | .programLoad ring ops => Sys2Proof.Machine.execProgramLoad ring ops s
  | .parserLoad ring ops => Sys2Proof.Machine.execParserLoad ring ops s
  | .epochCommit ring ops => Sys2Proof.Machine.execEpochCommit ring ops s
  | .epochCommitProceed => Sys2Proof.Machine.execEpochCommitProceed s
  | .epochCommitTimeout => Sys2Proof.Machine.execEpochCommitTimeout s
  | .epochDrained => Sys2Proof.Machine.execEpochDrained s
  | .epochAgeLimit => Sys2Proof.Machine.execEpochAgeLimit s
  | .epochStatusSummary ring => Sys2Proof.Machine.execEpochStatusSummary ring s
  | .epochStatusBank ring ops => Sys2Proof.Machine.execEpochStatusBank ring ops s
  | .tableAdd ring ops met => Sys2Proof.Machine.execTableAdd ring ops met s
  | .tableDel ring ops met => Sys2Proof.Machine.execTableDel ring ops met s
  | .tableModReplace ring ops met => Sys2Proof.Machine.execTableModReplace ring ops met s
  | .tableModRead ring ops met => Sys2Proof.Machine.execTableModRead ring ops met s
  | .tableModLedgerWrite ring ops => Sys2Proof.Machine.execTableModLedgerWrite ring ops s
  | .tableModLedgerRead ring ops => Sys2Proof.Machine.execTableModLedgerRead ring ops s
  | .tableModDump ring ops met => Sys2Proof.Machine.execTableModDump ring ops met s
  | .tableRehashPending ring ops met => Sys2Proof.Machine.execTableRehashPending ring ops met s
  | .tableRehashReorder ring ops => Sys2Proof.Machine.execTableRehashReorder ring ops s
  | .tcamRawRead ring ops => Sys2Proof.Machine.execTcamRawRead ring ops s
  | .tcamRawWrite ring ops => Sys2Proof.Machine.execTcamRawWrite ring ops s
  | .learnApply line met => Sys2Proof.Machine.execLearnApply line met s
  | .flapTrackerExpiry line index => Sys2Proof.Machine.execFlapTrackerExpiry line index s
  | .sweeperVisit line egress iid loc hit defect => Sys2Proof.Machine.execSweeperVisit line egress iid loc hit defect s
  | .tcamScrub line egress slice find => Sys2Proof.Machine.execTcamScrub line egress slice find s
  | .segmentWrite queue d => Sys2Proof.Machine.execSegmentWrite queue d s
  | .segmentAccepted seg => Sys2Proof.Machine.execSegmentAccepted seg s
  | .prefetchRequest queue => Sys2Proof.Machine.execPrefetchRequest queue s
  | .segmentReturn seg env => Sys2Proof.Machine.execSegmentReturn seg env s
  | .spillReturnAdmission queue => Sys2Proof.Machine.execSpillReturnAdmission queue s
  | .dramRefresh channel => Sys2Proof.Machine.execDramRefresh channel s
  | .mr4Poll channel rank high => Sys2Proof.Machine.execMr4Poll channel rank high s
  | .rowIdlePrecharge channel bank => Sys2Proof.Machine.execRowIdlePrecharge channel bank s
  | .selfRefreshEntry quarry => Sys2Proof.Machine.execSelfRefreshEntry quarry s
  | .selfRefreshExit quarry => Sys2Proof.Machine.execSelfRefreshExit quarry s
  | .zqCalibration channel => Sys2Proof.Machine.execZqCalibration channel s
  | .dqsOscMeasure channel drift => Sys2Proof.Machine.execDqsOscMeasure channel drift s
  | .dramRetrain channel env => Sys2Proof.Machine.execDramRetrain channel env s
  | .mapRebuild quarry => Sys2Proof.Machine.execMapRebuild quarry s
  | .spillSetEnable ring ops env => Sys2Proof.Machine.execSpillSetEnable ring ops env s
  | .spillSetDisable ring ops => Sys2Proof.Machine.execSpillSetDisable ring ops s
  | .spillDisableDone quarry => Sys2Proof.Machine.execSpillDisableDone quarry s
  | .spillDisableTimeout quarry => Sys2Proof.Machine.execSpillDisableTimeout quarry s
  | .spillSetQueue ring ops => Sys2Proof.Machine.execSpillSetQueue ring ops s
  | .dramTrainRetrain ring ops => Sys2Proof.Machine.execDramTrainRetrain ring ops s
  | .dramTrainOsc ring ops drift => Sys2Proof.Machine.execDramTrainOsc ring ops drift s
  | .dramTrainRead ring ops => Sys2Proof.Machine.execDramTrainRead ring ops s
  | .dramTrainSet ring ops => Sys2Proof.Machine.execDramTrainSet ring ops s
  | .keyWrite ring ops => Sys2Proof.Machine.execKeyWrite ring ops s
  | .keyErase ring ops => Sys2Proof.Machine.execKeyErase ring ops s
  | .saSetSecy ring ops => Sys2Proof.Machine.execSaSetSecy ring ops s
  | .saSetInstall ring ops => Sys2Proof.Machine.execSaSetInstall ring ops s
  | .saSetEnableTx ring ops => Sys2Proof.Machine.execSaSetEnableTx ring ops s
  | .saSetRetire ring ops => Sys2Proof.Machine.execSaSetRetire ring ops s
  | .saSetRead ring ops => Sys2Proof.Machine.execSaSetRead ring ops s
  | .cipherJob ring ops => Sys2Proof.Machine.execCipherJob ring ops s
  | .lookasideJobRun engine env => Sys2Proof.Machine.execLookasideJobRun engine env s
  | .timeFreq ring ops => Sys2Proof.Machine.execTimeFreq ring ops s
  | .timeSlew ring ops => Sys2Proof.Machine.execTimeSlew ring ops s
  | .timeStepAbsolute ring ops => Sys2Proof.Machine.execTimeStepAbsolute ring ops s
  | .timeStepRelative ring ops => Sys2Proof.Machine.execTimeStepRelative ring ops s
  | .timeRead ring payload => Sys2Proof.Machine.execTimeRead ring payload s
  | .slewEnd => Sys2Proof.Machine.execSlewEnd s
  | .holdoverWatchdog => Sys2Proof.Machine.execHoldoverWatchdog s
  | .ttHoldWdogWrite value mask => Sys2Proof.Machine.execTtHoldWdogWrite value mask s
  | .timeCopyLoopMeasure copy delay => Sys2Proof.Machine.execTimeCopyLoopMeasure copy delay s
  | .ppsInCapture k => Sys2Proof.Machine.execPpsInCapture k s
  | .ppsOutPulse k => Sys2Proof.Machine.execPpsOutPulse k s
  | .ppsOutPulseEnd k => Sys2Proof.Machine.execPpsOutPulseEnd k s
  | .queueDepthSample => Sys2Proof.Machine.execQueueDepthSample s
  | .ipfixMessageClose portE => Sys2Proof.Machine.execIpfixMessageClose portE s
  | .ipfixTemplateSend portE => Sys2Proof.Machine.execIpfixTemplateSend portE s
  | .dumpTick => Sys2Proof.Machine.execDumpTick s
  | .dumpRecordWritten => Sys2Proof.Machine.execDumpRecordWritten s
  | .dumpSetDump ring ops => Sys2Proof.Machine.execDumpSetDump ring ops s
  | .dumpSetExport ring ops => Sys2Proof.Machine.execDumpSetExport ring ops s
  | .dumpSetIoam ring ops => Sys2Proof.Machine.execDumpSetIoam ring ops s
  | .histSetSet ring ops => Sys2Proof.Machine.execHistSetSet ring ops s
  | .histSetRead ring ops => Sys2Proof.Machine.execHistSetRead ring ops s
  | .histSetClear ring ops => Sys2Proof.Machine.execHistSetClear ring ops s
  | .ksErrCtrlWrite value mask => Sys2Proof.Machine.execKsErrCtrlWrite value mask s
  | .handshakeTimeout waiting silent records => Sys2Proof.Machine.execHandshakeTimeout waiting silent records s
  | .faultAck ring classes => Sys2Proof.Machine.execFaultAck ring classes s
  | .faultClear ring ops => Sys2Proof.Machine.execFaultClear ring ops s
  | .unitFence ring ops => Sys2Proof.Machine.execUnitFence ring ops s
  | .unitUnfence ring ops env => Sys2Proof.Machine.execUnitUnfence ring ops env s
  | .reliefAutoPrepare district => Sys2Proof.Machine.execReliefAutoPrepare district s
  | .reliefAssignAssign ring ops => Sys2Proof.Machine.execReliefAssignAssign ring ops s
  | .reliefAssignReturn ring ops => Sys2Proof.Machine.execReliefAssignReturn ring ops s
  | .reliefAssignGo ring platform => Sys2Proof.Machine.execReliefAssignGo ring platform s
  | .mwSeqNext sm w => Sys2Proof.Machine.execMwSeqNext sm w s
  | .mwSeqJump sm w => Sys2Proof.Machine.execMwSeqJump sm w s
  | .mwSeqBranch sm w => Sys2Proof.Machine.execMwSeqBranch sm w s
  | .mwSeqCall sm w => Sys2Proof.Machine.execMwSeqCall sm w s
  | .mwSeqReturn sm w => Sys2Proof.Machine.execMwSeqReturn sm w s
  | .mwSeqLoop sm w => Sys2Proof.Machine.execMwSeqLoop sm w s
  | .mwSeqLdloop sm w => Sys2Proof.Machine.execMwSeqLdloop sm w s
  | .mwSeqYield sm w => Sys2Proof.Machine.execMwSeqYield sm w s
  | .mwSeqTrapret sm w => Sys2Proof.Machine.execMwSeqTrapret sm w s
  | .mwAluNop sm w => Sys2Proof.Machine.execMwAluNop sm w s
  | .mwAluMov sm w => Sys2Proof.Machine.execMwAluMov sm w s
  | .mwAluImm sm w => Sys2Proof.Machine.execMwAluImm sm w s
  | .mwAluAdd sm w => Sys2Proof.Machine.execMwAluAdd sm w s
  | .mwAluSub sm w => Sys2Proof.Machine.execMwAluSub sm w s
  | .mwAluAnd sm w => Sys2Proof.Machine.execMwAluAnd sm w s
  | .mwAluOr sm w => Sys2Proof.Machine.execMwAluOr sm w s
  | .mwAluXor sm w => Sys2Proof.Machine.execMwAluXor sm w s
  | .mwAluNot sm w => Sys2Proof.Machine.execMwAluNot sm w s
  | .mwAluShl sm w => Sys2Proof.Machine.execMwAluShl sm w s
  | .mwAluShr sm w => Sys2Proof.Machine.execMwAluShr sm w s
  | .mwAluCmp sm w => Sys2Proof.Machine.execMwAluCmp sm w s
  | .mwAluTest sm w => Sys2Proof.Machine.execMwAluTest sm w s
  | .mwBusFread sm w => Sys2Proof.Machine.execMwBusFread sm w s
  | .mwBusFwrite sm w => Sys2Proof.Machine.execMwBusFwrite sm w s
  | .mwBusDmaRd sm w => Sys2Proof.Machine.execMwBusDmaRd sm w s
  | .mwBusDmaWr sm w => Sys2Proof.Machine.execMwBusDmaWr sm w s
  | .mwBusPost sm w => Sys2Proof.Machine.execMwBusPost sm w s
  | .mwBusFrame sm w => Sys2Proof.Machine.execMwBusFrame sm w s
  | .mwBusCjob sm w => Sys2Proof.Machine.execMwBusCjob sm w s
  | .mwBusTread sm w => Sys2Proof.Machine.execMwBusTread sm w s
  | .mwBusDone sm => Sys2Proof.Machine.execMwBusDone sm s
  | .microtrapEvent sm event => Sys2Proof.Machine.execMicrotrapEvent sm event s
  | .microtrapWatchdog sm => Sys2Proof.Machine.execMicrotrapWatchdog sm s
  | .microtrapBreak sm => Sys2Proof.Machine.execMicrotrapBreak sm s
  | .microtrapHalt sm => Sys2Proof.Machine.execMicrotrapHalt sm s
  | .microtrapStep sm => Sys2Proof.Machine.execMicrotrapStep sm s
  | .microtrapBracket sm => Sys2Proof.Machine.execMicrotrapBracket sm s
  | .microCallStatus ring sm => Sys2Proof.Machine.execMicroCallStatus ring sm s
  | .microCallRestart ring sm => Sys2Proof.Machine.execMicroCallRestart ring sm s
  | .microCallCall ring ops => Sys2Proof.Machine.execMicroCallCall ring ops s
  | .tapExtest => Sys2Proof.Machine.execTapExtest s
  | .tapIdcode => Sys2Proof.Machine.execTapIdcode s
  | .tapSamplePreload => Sys2Proof.Machine.execTapSamplePreload s
  | .tapDebug => Sys2Proof.Machine.execTapDebug s
  | .tapBypass code => Sys2Proof.Machine.execTapBypass code s
  | .dbgStatus sm => Sys2Proof.Machine.execDbgStatus sm s
  | .dbgHalt sm => Sys2Proof.Machine.execDbgHalt sm s
  | .dbgRun sm => Sys2Proof.Machine.execDbgRun sm s
  | .dbgStep sm n => Sys2Proof.Machine.execDbgStep sm n s
  | .dbgBpSet sm k addr => Sys2Proof.Machine.execDbgBpSet sm k addr s
  | .dbgBpClr sm k => Sys2Proof.Machine.execDbgBpClr sm k s
  | .dbgSaveRead sm => Sys2Proof.Machine.execDbgSaveRead sm s
  | .dbgMemRead space => Sys2Proof.Machine.execDbgMemRead space s
  | .dbgMemWrite space value mask bytes => Sys2Proof.Machine.execDbgMemWrite space value mask bytes s
  | .dbgTraceRun ops => Sys2Proof.Machine.execDbgTraceRun ops s
  | .dbgTraceRead egress line => Sys2Proof.Machine.execDbgTraceRead egress line s
  | .bistRunRun ring ops cond => Sys2Proof.Machine.execBistRunRun ring ops cond s
  | .bistRunRead ring ops => Sys2Proof.Machine.execBistRunRead ring ops s
  | .bistRunAbort ring ops => Sys2Proof.Machine.execBistRunAbort ring ops s
  | .bistRunEnd target find => Sys2Proof.Machine.execBistRunEnd target find s
  | .bistConditionLost target clock supply => Sys2Proof.Machine.execBistConditionLost target clock supply s
  | .coldStart smbAddr => Sys2Proof.Machine.execColdStart smbAddr s
  | .causewayFramingLost tile => Sys2Proof.Machine.execCausewayFramingLost tile s
  | .alignmentLost port lane => Sys2Proof.Machine.execAlignmentLost port lane s
  | .pcieLinkDown => Sys2Proof.Machine.execPcieLinkDown s
  | .perstNRelease => Sys2Proof.Machine.execPerstNRelease s

end Sys2Proof.Machine
end

