-- ==== Sys2Proof/WellFormed.lean ====
section
/-!
DEFINITION. Well-formed commands: every unit a command names outside an Order's operands lies in the ranges of R27, R43,
R48, R92, R120, R149 and R372. An Order's operands are not restricted here: the device answers a bad one with a status.
-/

namespace Sys2Proof

/-- The command names units that exist. -/
def Instr.wf (i : Instr) : Bool :=
  match i with
  | .supplyReset rail => decide (rail < 10)
  | .supplyResetRelease _ => true
  | .systemResetPin => true
  | .sysRstNRelease => true
  | .chipResetRequest _ _ => true
  | .chipResetStart => true
  | .pcieFundamentalReset => true
  | .functionLevelReset => true
  | .testReset => true
  | .bootSequence _ => true
  | .mailboxGo _ _ _ => true
  | .domainAutoOff n => decide (n < 72)
  | .domainPowerUp n _ => decide (n < 72)
  | .pdModeAuto n => decide (n < 72)
  | .pdModeForceOn n _ => decide (n < 72)
  | .pdModeForceOff n => decide (n < 72)
  | .railOutOfRange rail => decide (rail < 10)
  | .vddFuseHigh => true
  | .refclkSysLost => true
  | .refclkTileLost tile => decide (tile < 8)
  | .timeRefLost => true
  | .timeRefReturn _ => true
  | .pcieRefclkLost => true
  | .temperatureSample _ _ => true
  | .ksTjCtrlWrite _ _ => true
  | .smbusSummaryRead _ => true
  | .ringEnable ring _ => decide (ring < 64)
  | .ringDisable ring _ => decide (ring < 64)
  | .ringTailDoorbell ring _ _ => decide (ring < 64)
  | .cplHeadDoorbell ring _ => decide (ring < 64)
  | .dmaQueueEnable q _ => decide (q < 32)
  | .dmaQueueDisable q _ => decide (q < 32)
  | .dmaQueueDoorbell q _ => decide (q < 32)
  | .orderStart ring _ => decide (ring < 64)
  | .orderPending ring => decide (ring < 64)
  | .orderCompletion ring => decide (ring < 64)
  | .msixUnmask vector => decide (vector < 256)
  | .w1cClear _ _ => true
  | .readClear _ => true
  | .registerWrite _ _ _ _ => true
  | .fieldRead ring _ => decide (ring < 64)
  | .fieldWrite ring _ => decide (ring < 64)
  | .blockCommit ring _ => decide (ring < 64)
  | .hostFrameDescriptor q _ => decide (16 ≤ q) && decide (q < 32)
  | .hostFrameCompletion q => decide (16 ≤ q) && decide (q < 32)
  | .toHostDelivery q => decide (q < 16)
  | .portSet ring _ => decide (ring < 64)
  | .portState ring _ => decide (ring < 64)
  | .failoverSet ring _ => decide (ring < 64)
  | .laneTuneSetTx ring _ => decide (ring < 64)
  | .laneTuneFreezeRx ring _ => decide (ring < 64)
  | .laneTuneRelease ring _ => decide (ring < 64)
  | .laneTuneReadTx ring _ => decide (ring < 64)
  | .laneTuneReadBest ring _ => decide (ring < 64)
  | .anAgreement port _ => decide (port < 512)
  | .laneTrainingDone port => decide (port < 512)
  | .trainFail lane _ _ => decide (lane < 512)
  | .backoffExpiry port => decide (port < 512)
  | .portAligned port _ => decide (port < 512)
  | .skewRetry port _ => decide (port < 512)
  | .losDetected lane => decide (lane < 512)
  | .lolDetected lane => decide (lane < 512)
  | .losCleared lane => decide (lane < 512)
  | .lockRegained lane => decide (lane < 512)
  | .relockTimeout lane => decide (lane < 512)
  | .remoteFaultReceived port => decide (port < 512)
  | .remoteFaultCleared port => decide (port < 512)
  | .rateMatchOverrun lane => decide (lane < 512)
  | .eyeMarginUpdate lane _ => decide (lane < 512)
  | .wtrExpiry group port => decide (group < 1024) && decide (port < 512)
  | .quietEntry port => decide (port < 512)
  | .quietRequestReceived port => decide (port < 512)
  | .quietAnswerTimeout port => decide (port < 512)
  | .quietBeacon port => decide (port < 512)
  | .standbyLost port => decide (port < 512)
  | .quietWake port => decide (port < 512)
  | .wakeBurstReceived port => decide (port < 512)
  | .wakeRelock port => decide (port < 512)
  | .quietReentry port => decide (port < 512)
  | .pfcFrameReceived port _ _ => decide (port < 512)
  | .pauseFrameReceived port => decide (port < 512)
  | .pauseExpiry port prio => decide (port < 512) && decide (prio < 8)
  | .xoffRefresh port prio => decide (port < 512) && decide (prio < 8)
  | .mgmtFrameReceived lane _ => decide (lane < 4)
  | .frameReceive f => decide (f.port < 512)
  | .ingressLinePass line half _ => decide (line < 36) && decide (half < 2)
  | .copyFormation half _ => decide (half < 2)
  | .lastCellWritten _ => true
  | .transmitOpportunity sel _ => (match sel with | .port p => decide (p < 512) | .siding n => decide (n < 36))
  | .egressMirrorWrite half _ => decide (half < 2)
  | .transmitComplete port => decide (port < 512)
  | .copyDiscardWalk _ => true
  | .sidingReentry line => decide (line < 36)
  | .mirrorSetDelete ring _ => decide (ring < 64)
  | .mirrorSetSet ring _ => decide (ring < 64)
  | .mirrorSetAttach ring _ => decide (ring < 64)
  | .mirrorSetDetach ring _ => decide (ring < 64)
  | .queueSetPort ring _ => decide (ring < 64)
  | .queueSetQueue ring _ => decide (ring < 64)
  | .queueSetMcSet ring _ => decide (ring < 64)
  | .queueSetMcRead ring _ => decide (ring < 64)
  | .programLoad ring _ => decide (ring < 64)
  | .parserLoad ring _ => decide (ring < 64)
  | .epochCommit ring _ => decide (ring < 64)
  | .epochCommitProceed => true
  | .epochCommitTimeout => true
  | .epochDrained => true
  | .epochAgeLimit => true
  | .epochStatusSummary ring => decide (ring < 64)
  | .epochStatusBank ring _ => decide (ring < 64)
  | .tableAdd ring _ _ => decide (ring < 64)
  | .tableDel ring _ _ => decide (ring < 64)
  | .tableModReplace ring _ _ => decide (ring < 64)
  | .tableModRead ring _ _ => decide (ring < 64)
  | .tableModLedgerWrite ring _ => decide (ring < 64)
  | .tableModLedgerRead ring _ => decide (ring < 64)
  | .tableModDump ring _ _ => decide (ring < 64)
  | .tableRehashPending ring _ _ => decide (ring < 64)
  | .tableRehashReorder ring _ => decide (ring < 64)
  | .tcamRawRead ring _ => decide (ring < 64)
  | .tcamRawWrite ring _ => decide (ring < 64)
  | .learnApply line _ => decide (line < 36)
  | .flapTrackerExpiry line _ => decide (line < 36)
  | .sweeperVisit line _ _ _ _ _ => decide (line < 36)
  | .tcamScrub line _ _ _ => decide (line < 36)
  | .segmentWrite queue _ => decide (queue < 10276)
  | .segmentAccepted _ => true
  | .prefetchRequest queue => decide (queue < 10276)
  | .segmentReturn _ _ => true
  | .spillReturnAdmission queue => decide (queue < 10276)
  | .dramRefresh channel => decide (channel < 32)
  | .mr4Poll channel rank _ => decide (channel < 32) && decide (rank < 4)
  | .rowIdlePrecharge channel bank => decide (channel < 32) && decide (bank < 16)
  | .selfRefreshEntry quarry => decide (quarry < 8)
  | .selfRefreshExit quarry => decide (quarry < 8)
  | .zqCalibration channel => decide (channel < 32)
  | .dqsOscMeasure channel _ => decide (channel < 32)
  | .dramRetrain channel _ => decide (channel < 32)
  | .mapRebuild quarry => decide (quarry < 8)
  | .spillSetEnable ring _ _ => decide (ring < 64)
  | .spillSetDisable ring _ => decide (ring < 64)
  | .spillDisableDone quarry => decide (quarry < 8)
  | .spillDisableTimeout quarry => decide (quarry < 8)
  | .spillSetQueue ring _ => decide (ring < 64)
  | .dramTrainRetrain ring _ => decide (ring < 64)
  | .dramTrainOsc ring _ _ => decide (ring < 64)
  | .dramTrainRead ring _ => decide (ring < 64)
  | .dramTrainSet ring _ => decide (ring < 64)
  | .keyWrite ring _ => decide (ring < 64)
  | .keyErase ring _ => decide (ring < 64)
  | .saSetSecy ring _ => decide (ring < 64)
  | .saSetInstall ring _ => decide (ring < 64)
  | .saSetEnableTx ring _ => decide (ring < 64)
  | .saSetRetire ring _ => decide (ring < 64)
  | .saSetRead ring _ => decide (ring < 64)
  | .cipherJob ring _ => decide (ring < 64)
  | .lookasideJobRun engine _ => decide (engine < 4)
  | .timeFreq ring _ => decide (ring < 64)
  | .timeSlew ring _ => decide (ring < 64)
  | .timeStepAbsolute ring _ => decide (ring < 64)
  | .timeStepRelative ring _ => decide (ring < 64)
  | .timeRead ring _ => decide (ring < 64)
  | .slewEnd => true
  | .holdoverWatchdog => true
  | .ttHoldWdogWrite _ _ => true
  | .timeCopyLoopMeasure copy _ => (match copy with | .tile t => decide (t < 8) | .egress n => decide (n < 36))
  | .ppsInCapture k => decide (k < 2)
  | .ppsOutPulse k => decide (k < 2)
  | .ppsOutPulseEnd k => decide (k < 2)
  | .queueDepthSample => true
  | .ipfixMessageClose portE => decide (portE < 2)
  | .ipfixTemplateSend portE => decide (portE < 2)
  | .dumpTick => true
  | .dumpRecordWritten => true
  | .dumpSetDump ring _ => decide (ring < 64)
  | .dumpSetExport ring _ => decide (ring < 64)
  | .dumpSetIoam ring _ => decide (ring < 64)
  | .histSetSet ring _ => decide (ring < 64)
  | .histSetRead ring _ => decide (ring < 64)
  | .histSetClear ring _ => decide (ring < 64)
  | .ksErrCtrlWrite _ _ => true
  | .handshakeTimeout _ _ _ => true
  | .faultAck ring _ => decide (ring < 64)
  | .faultClear ring _ => decide (ring < 64)
  | .unitFence ring _ => decide (ring < 64)
  | .unitUnfence ring _ _ => decide (ring < 64)
  | .reliefAutoPrepare district => decide (district < 4)
  | .reliefAssignAssign ring _ => decide (ring < 64)
  | .reliefAssignReturn ring _ => decide (ring < 64)
  | .reliefAssignGo ring _ => decide (ring < 64)
  | .mwSeqNext sm _ => decide (sm < 16)
  | .mwSeqJump sm _ => decide (sm < 16)
  | .mwSeqBranch sm _ => decide (sm < 16)
  | .mwSeqCall sm _ => decide (sm < 16)
  | .mwSeqReturn sm _ => decide (sm < 16)
  | .mwSeqLoop sm _ => decide (sm < 16)
  | .mwSeqLdloop sm _ => decide (sm < 16)
  | .mwSeqYield sm _ => decide (sm < 16)
  | .mwSeqTrapret sm _ => decide (sm < 16)
  | .mwAluNop sm _ => decide (sm < 16)
  | .mwAluMov sm _ => decide (sm < 16)
  | .mwAluImm sm _ => decide (sm < 16)
  | .mwAluAdd sm _ => decide (sm < 16)
  | .mwAluSub sm _ => decide (sm < 16)
  | .mwAluAnd sm _ => decide (sm < 16)
  | .mwAluOr sm _ => decide (sm < 16)
  | .mwAluXor sm _ => decide (sm < 16)
  | .mwAluNot sm _ => decide (sm < 16)
  | .mwAluShl sm _ => decide (sm < 16)
  | .mwAluShr sm _ => decide (sm < 16)
  | .mwAluCmp sm _ => decide (sm < 16)
  | .mwAluTest sm _ => decide (sm < 16)
  | .mwBusFread sm _ => decide (sm < 16)
  | .mwBusFwrite sm _ => decide (sm < 16)
  | .mwBusDmaRd sm _ => decide (sm < 16)
  | .mwBusDmaWr sm _ => decide (sm < 16)
  | .mwBusPost sm _ => decide (sm < 16)
  | .mwBusFrame sm _ => decide (sm < 16)
  | .mwBusCjob sm _ => decide (sm < 16)
  | .mwBusTread sm _ => decide (sm < 16)
  | .mwBusDone sm => decide (sm < 16)
  | .microtrapEvent sm event => decide (sm < 16) && decide (event < 16)
  | .microtrapWatchdog sm => decide (sm < 16)
  | .microtrapBreak sm => decide (sm < 16)
  | .microtrapHalt sm => decide (sm < 16)
  | .microtrapStep sm => decide (sm < 16)
  | .microtrapBracket sm => decide (sm < 16)
  | .microCallStatus ring _ => decide (ring < 64)
  | .microCallRestart ring _ => decide (ring < 64)
  | .microCallCall ring _ => decide (ring < 64)
  | .bistRunRun ring _ _ => decide (ring < 64)
  | .bistRunRead ring _ => decide (ring < 64)
  | .bistRunAbort ring _ => decide (ring < 64)
  | .tapExtest => true
  | .tapIdcode => true
  | .tapSamplePreload => true
  | .tapDebug => true
  | .tapBypass _ => true
  | .dbgStatus _ => true
  | .dbgHalt _ => true
  | .dbgRun _ => true
  | .dbgStep _ _ => true
  | .dbgBpSet _ _ _ => true
  | .dbgBpClr _ _ => true
  | .dbgSaveRead _ => true
  | .dbgMemRead _ => true
  | .dbgMemWrite _ _ _ _ => true
  | .dbgTraceRun _ => true
  | .dbgTraceRead _ _ => true
  | .bistRunEnd _ _ => true
  | .bistConditionLost _ _ _ => true
  | .coldStart _ => true
  | .causewayFramingLost tile => decide (tile < 8)
  | .alignmentLost port lane => decide (port < 512) && decide (lane < 512)
  | .pcieLinkDown => true
  | .perstNRelease => true

end Sys2Proof
end

