-- ==== Sys2Proof/Safety.lean ====
section
/-!
DEFINITION. What counts as a safe state, and the words statements are made of: what a command does to the chip, and when an
Order is at work.
-/

namespace Sys2Proof.Machine

/-- Host memory stands in canonical form: addresses strictly rise. An unlisted address holds no value, so no entry repeats it. -/
def Memory.wf (m : List Host.Cell) : Bool := srising none m

/-- Every command that waits is well formed. -/
abbrev QueueWf (s : State) : Prop := s.pending.all Instr.wf = true

/-- The command runs on `s` to its end: its next state holds the chip `t` and the same queue. -/
def Becomes (c : Instr) (s : State) (t : Chip) : Prop := exec c s = .next { s with chip := t }

/-- An Order is at work on a ring: the device runs, the Order asks for this command, has no status yet, its effect has not begun, and
no Signalman it runs on is halted (R463, R480). -/
def AtWork (s : State) (ring : Nat) (c : Instr) : Prop :=
  ring < 64 ∧ dead s.chip = false ∧ orderHalted s.chip c = false ∧
    ∃ o, (ringOf s.chip ring).running = some o ∧ o.cmd = some c ∧ o.outcome = none ∧ o.begun = false

/-- The Order at work on a ring runs to its end: it takes a status and a result, and the chip becomes what its effect leaves. -/
def Ends (c : Instr) (s : State) (ring : Nat) (st : Status) (res : DWord) (t : Chip) : Prop :=
  Becomes c s (finishOrder ring st res t)

/-- An island answers: the device runs, the island has power and is not fenced (R25, R50). -/
def Answers (s : Chip) (i : Isl) : Prop := dead s = false ∧ isFenced s i = false ∧ isOn s i = true

/-- What a reset of system scope leaves (R46, R63, R68, R419): the Timetable with its words, its Cabin and its counters, the monitors of the
sensors, host memory and what was sent stay; everything outside the always-on domain is at its reset value, the outputs of recovered clocks
low (R56). -/
def KeepsAlwaysOn (s t : Chip) : Prop :=
  t.time = { s.time with tile := [], egress := [] } ∧ t.hostMem = s.hostMem ∧ t.out = s.out ∧
  t.host = {} ∧ t.ports = { recclkLow := recclkFrom s (fun _ => true) } ∧ t.pkt = {} ∧ t.cipher = {} ∧ t.sb = {} ∧ t.bist = {} ∧
  t.shadow = [] ∧ t.tm = { mons := s.tm.mons.filter (fun x => 4 * 65536 ≤ x.1) } ∧
  (∀ ca, sfind t.live ca = if ca / 2 ^ 32 = Isl.tt.code then sfind s.live ca else none) ∧
  (∀ ca, sfind t.staged ca = if ca / 2 ^ 32 = Isl.tt.code then sfind s.staged ca else none) ∧
  (∀ i : Isl, cabOf t i = if i.code = Isl.tt.code then cabOf s i else {}) ∧ t.faults = { cabs := t.faults.cabs } ∧
  (∀ i, clockNow t i = if i = .tt then clockNow s i else 0) ∧
  (∀ n, domainSt t n = if s.power.tripped then domainSt s n else {}) ∧ t.power.wanted = [] ∧ t.power.railsOut = [] ∧
  t.power.fuseHigh = false ∧ t.power.sysLost = false ∧ t.power.tileLost = [] ∧ t.power.chipReset = false ∧ t.power.linkUp = false ∧
  t.power.warned = false ∧ t.power.level = 0 ∧ t.power.temp = s.power.temp

/-- A reset cause is recorded (R67): its bit is 1, and the other bits stay. -/
def CauseSet (k : Nat) (s t : Chip) : Prop :=
  ∀ j, bit t.power.rstCause j = (bit s.power.rstCause j || decide (j = k))

/-- The host interface state of R66 is reset: every ring and packet DMA queue is disabled with its pointers at 0, no region is
valid, the MSI-X table is at its reset value; an Order still at work runs on, its completion to be discarded. -/
def HostReset (s t : Chip) : Prop :=
  (∀ r, ∃ run, ringOf t r = { running := run } ∧ ∀ o, run = some o → o.orphan = true) ∧
  t.host.dma = [] ∧ t.host.regions = [] ∧ t.host.msix = [] ∧ t.host.msixPending = [] ∧ t.host.hostFrames = [] ∧
  t.host.counterUser = s.host.counterUser ∧ t.host.evRing = s.host.evRing ∧ t.host.evBoot = s.host.evBoot ∧
  t.host.dmaDrop = s.host.dmaDrop

/-- A mailbox read in progress is abandoned (R78); none in progress leaves the boot state alone. -/
def MailboxAbandoned (s t : Chip) : Prop :=
  t.boot = if s.boot.reading then { s.boot with reading := false, stage := 0x03, error := 0x0B, mbLo := 0, mbHi := 0, mbLen := 0 }
    else s.boot

/-- A Signalman stands between two words of its control store with nothing due (R463 to R470): it runs, no word waits, no bracket is open,
no trap is due, and the debug port has set no breakpoint and asked for no step. -/
def SmReady (s : Chip) (n : Nat) : Prop :=
  n < 16 ∧ smRuns s n = true ∧ (smOf s n).wait = none ∧ (smOf s n).m.addr < 0x4000 ∧ (smOf s n).due = [] ∧
  (smOf s n).bracket = 0 ∧ (smOf s n).bps = [] ∧ (smOf s n).steps = none

/-- A microword without HOLD, WAIT or a condition of its own (R464): it ends at once with its condition true. -/
def PlainWord (w : Nat) : Prop := wHold w = false ∧ wWait w = false ∧ wCond w = 0 ∧ wCneg w = false

/-- Commands that leave alone what stands outside the forwarding device: the boot state, host memory, the results of self-test, the last word
access without an Order, and the supplies, references, pins and domains. The commands named here may change some of it; every other command
changes at most which domains are wanted on (R50). -/
def innerCommand : Instr → Bool
  | .supplyReset .. | .supplyResetRelease .. | .systemResetPin | .sysRstNRelease | .chipResetRequest .. | .chipResetStart
  | .pcieFundamentalReset | .functionLevelReset | .testReset | .bootSequence .. | .mailboxGo .. | .domainAutoOff .. | .domainPowerUp ..
  | .pdModeAuto .. | .pdModeForceOn .. | .pdModeForceOff .. | .railOutOfRange .. | .vddFuseHigh | .refclkSysLost | .refclkTileLost ..
  | .pcieRefclkLost | .temperatureSample .. | .ksTjCtrlWrite .. | .orderPending .. | .orderCompletion .. | .w1cClear .. | .readClear ..
  | .registerWrite .. | .fieldRead .. | .fieldWrite .. | .hostFrameCompletion .. | .toHostDelivery .. | .mgmtFrameReceived ..
  | .ingressLinePass .. | .transmitOpportunity .. | .queueSetMcRead .. | .tableModRead .. | .tableModLedgerRead .. | .tableModDump ..
  | .tableRehashPending .. | .tcamRawRead .. | .learnApply .. | .tableAdd .. | .tableDel .. | .tableModReplace ..
  | .sweeperVisit .. | .tcamScrub .. | .saSetRead .. | .lookasideJobRun ..
  | .timeRead .. | .ttHoldWdogWrite .. | .dumpRecordWritten | .histSetRead .. | .ksErrCtrlWrite .. | .unitUnfence ..
  | .reliefAutoPrepare .. | .mwSeqNext .. | .mwSeqJump .. | .mwSeqBranch .. | .mwSeqCall .. | .mwSeqReturn .. | .mwSeqLoop ..
  | .mwSeqLdloop .. | .mwSeqYield .. | .mwSeqTrapret .. | .mwAluNop .. | .mwAluMov .. | .mwAluImm .. | .mwAluAdd .. | .mwAluSub ..
  | .mwAluAnd .. | .mwAluOr .. | .mwAluXor .. | .mwAluNot .. | .mwAluShl .. | .mwAluShr .. | .mwAluCmp .. | .mwAluTest ..
  | .mwBusFread .. | .mwBusFwrite .. | .mwBusDmaRd .. | .mwBusDmaWr .. | .mwBusPost .. | .mwBusFrame .. | .mwBusCjob .. | .mwBusTread ..
  | .tapExtest | .tapIdcode | .tapSamplePreload | .tapDebug | .tapBypass .. | .dbgMemWrite .. | .bistRunRun .. | .bistRunRead ..
  | .bistRunAbort .. | .bistRunEnd .. | .bistConditionLost .. | .coldStart .. | .pcieLinkDown | .perstNRelease => false
  | _ => true

end Sys2Proof.Machine
end

