-- ==== Sys2Proof/Certificates/Slice0/Obligations.lean ====
section
/-!
DEFINITION. The statements for the provers. `Becomes c s t` says that command `c` runs on `s` to a next state with the chip `t` and
the same queue; `Ends` says it of an Order at work, with its status and result (Safety.lean).
-/

open Sys2Proof Sys2Proof.Machine

/-! The block -/

/-- A step of a queue with a command at its front is that command's meaning on the state with the queue's rest (how a block
runs; log 1). -/
def Obligations.StepRunsFront : Prop :=
  ∀ (s : State) (c : Instr) (rest : List Instr), s.pending = c :: rest → step s = exec c { s with pending := rest }

/-- With no command waiting and VDD_AON good, a step is one tick of the Timetable (the model's choice for the empty queue, log 1):
the clock moves by the base increment in units of 2^-32 ns, carrying into its ns and seconds, and the run count by the same
increment in units of 2^-16 ns with the finer part kept (R380, R381, R383). No slew is in progress here. The queue stays empty; the boot
state, host memory, the self-test results, the supplies, pins and domains, and the last word access stay; holdover is not left. -/
def Obligations.EmptyQueueTicks : Prop :=
  ∀ s : State, s.pending = [] → aonLost s.chip = false → s.chip.time.slew = none →
    ∃ c : Chip, step s = .next { s with chip := c } ∧
      (let t := c.time
       ((t.sec * 1000000000 + t.ns) * 2 ^ 32 + t.frac) =
         ((s.chip.time.sec * 1000000000 + s.chip.time.ns) * 2 ^ 32 + s.chip.time.frac + s.chip.time.incr)
           % (2 ^ 48 * 1000000000 * 2 ^ 32) ∧
       t.ns < 1000000000 ∧ t.frac < 2 ^ 32 ∧
       t.run * 65536 + t.runFrac =
         (s.chip.time.run % 2 ^ 64 * 65536 + s.chip.time.runFrac + s.chip.time.incr) % (2 ^ 64 * 65536) ∧
       t.incr = s.chip.time.incr ∧ t.slew = none ∧ (s.chip.time.holdover = true → t.holdover = true)) ∧
      c.boot = s.chip.boot ∧ c.hostMem = s.chip.hostMem ∧ c.bist = s.chip.bist ∧ c.lastWrite = s.chip.lastWrite ∧
      { c.power with wanted := [] } = { s.chip.power with wanted := [] }

/-- A command runs to a next state exactly when it is well formed: its units lie in the ranges of R27. No state, no operand and no mode stops
a well-formed command, and a command that names no unit of the device stops. No command touches the queue it was taken from. -/
def Obligations.QueueUntouched : Prop :=
  (∀ (c : Instr) (s : State), (c.wf = true → ∃ t : Chip, Becomes c s t) ∧
     (c.wf = false → exec c s = .fault .noSuchUnit)) ∧
  (∀ (c : Instr) (s t : State), exec c s = .next t → t.pending = s.pending)

/-- The invariant of the block: while every waiting command is well formed, every step answers a next state, and every command that still
waits is well formed; so the block never stops. Well-formed commands are carried out in turn, first in, first out, and none is left out:
after `k` steps the first `k` commands are gone, and after one step for each command that waited the queue is empty. -/
def Obligations.StepKeepsQueueWf : Prop :=
  (∀ s : State, QueueWf s → ∃ t : State, step s = .next t ∧ QueueWf t ∧ t.pending = s.pending.tail) ∧
  (∀ (s : State) (k : Nat), QueueWf s → ∃ t : State, Host.Core.run core k s = .next t ∧ t.pending = s.pending.drop k)

/-- The machine right after reset: no command waits, supply reset holds the device (R45), the reset cause is the power-on bit
(R67), the Timetable stands at 0 and free runs from its reset increment (R382, R383), no word is written, no port
is configured, and host memory is in canonical form. -/
def Obligations.ResetState : Prop :=
  QueueWf State.reset ∧ State.reset.pending = [] ∧ Memory.wf State.reset.chip.hostMem = true ∧
  State.reset.chip.live = [] ∧ State.reset.chip.staged = [] ∧ State.reset.chip.shadow = [] ∧
  inReset State.reset.chip = true ∧ State.reset.chip.power.rstCause = 0x40 ∧
  State.reset.chip.time.sec = 0 ∧ State.reset.chip.time.ns = 0 ∧ State.reset.chip.time.run = 0 ∧
  State.reset.chip.time.incr = 0xCCCCCCCD ∧
  State.reset.chip.boot.done = false ∧ State.reset.chip.boot.stage = 0 ∧ portList State.reset.chip = []

/-! Power, resets and start-up (files 02 and 03) -/

/-- A reset of system scope by a lost rail other than VDD_AON, by `SYS_RST_N` or by a requested chip reset (R45, R63, R67, R68): only the
always-on domain keeps its state, the reset's cause is recorded and counted, and the boot state is at its start; in supply reset the PPS
outputs fall (R56); a chip reset is followed by the boot sequence, and waits while an Order that requested it has still to write its
completion (R65). VDD_AON becoming good, and its loss, return even the always-on domain to its reset values (R46, R67, R382): the
clock and the run count are 0, the increment is nominal, no slew is active, holdover is 1, and only the cold-start cause is recorded. -/
def Obligations.SystemScopeResets : Prop :=
  (∀ s : State, aonLost s.chip = false →
     (∀ rail, rail < 10 → rail ≠ 5 → s.chip.power.supplyHeld = false →
       ∃ t, Becomes (.supplyReset rail) s t ∧ KeepsAlwaysOn (ppsLow s.chip) t ∧ t.time.ppsHigh = [] ∧ CauseSet 5 s.chip t ∧
         inReset t = true ∧
         t.power.rstCount = min 255 (s.chip.power.rstCount + 1) ∧ t.boot = {}) ∧
     (s.chip.power.pinHeld = false →
       ∃ t, Becomes .systemResetPin s t ∧ KeepsAlwaysOn s.chip t ∧ CauseSet 0 s.chip t ∧ inReset t = true ∧
         t.power.rstCount = min 255 (s.chip.power.rstCount + 1) ∧ t.boot = {}) ∧
     (s.chip.power.chipReset = true → dead s.chip = false → chipRstPending s.chip = true → Becomes .chipResetStart s s.chip) ∧
     (s.chip.power.chipReset = true → dead s.chip = false → chipRstPending s.chip = false →
       ∃ t, Becomes .chipResetStart s t ∧ KeepsAlwaysOn s.chip t ∧ CauseSet 1 s.chip t ∧ t.power.chipReset = false ∧
         t.power.rstCount = min 255 (s.chip.power.rstCount + 1) ∧ t.boot = { pending := true })) ∧
  (∀ s : State,
     (∀ addr, ∃ t, Becomes (.coldStart addr) s t ∧ t.time = {} ∧ t.live = [] ∧ t.power.rstCause = 0x40 ∧ t.power.rstCount = 0 ∧
       inReset t = true ∧ t.boot = {} ∧ t.faults = {} ∧ t.hostMem = s.chip.hostMem) ∧
     (aonLost s.chip = false → ∃ t, Becomes (.supplyReset 5) s t ∧ t.time = {} ∧ t.live = [] ∧ t.power.rstCause = 0x40 ∧
       aonLost t = true ∧ inReset t = true ∧ t.boot = {} ∧ t.faults = {} ∧ t.hostMem = s.chip.hostMem))

/-- Releasing a source of system scope (R45, R63, R64, R69): the source holds the device no longer, and with no other source in force the boot
sequence starts again from its first step; with the supplies, TIME_REF_IN is measured (R54): 10 MHz or 25 MHz within 1,000 ppm is taken as
the reference, anything else is a lost input with its TIME fault at S2 and holdover. Nothing else changes. A write of `SB_CHIP_RST` while
the Signal Box answers (R65): 0x0000A5A5 requests the chip reset with status OK, any other value is refused with BAD_OPERAND and has no
effect. Nothing else changes but what counters of field accesses count. -/
def Obligations.ResetReleases : Prop :=
  (∀ s : State,
     (s.chip.power.supplyHeld = true → aonLost s.chip = false →
       let u : Chip := { s.chip with
         power := { s.chip.power with supplyHeld := false, railsLost := [] }
         boot := if s.chip.power.pinHeld then s.chip.boot else { pending := true } }
       (∀ hz, 9990000 ≤ hz ∧ hz ≤ 10010000 →
         Becomes (.supplyResetRelease (some hz)) s { u with time := { u.time with refLost := false, refFreq := false } }) ∧
       (∀ hz, 24975000 ≤ hz ∧ hz ≤ 25025000 →
         Becomes (.supplyResetRelease (some hz)) s { u with time := { u.time with refLost := false, refFreq := true } }) ∧
       (∀ ref, (∀ hz, ref = some hz → ¬ (9990000 ≤ hz ∧ hz ≤ 10010000) ∧ ¬ (24975000 ≤ hz ∧ hz ≤ 25025000)) →
         ∃ v, Becomes (.supplyResetRelease ref) s (raise .tt 0x01 clsTime 2 v) ∧ v.time.refLost = true ∧ v.time.holdover = true ∧
           v.power = u.power ∧ v.boot = u.boot ∧ v.pkt = u.pkt ∧ v.ports = u.ports)) ∧
     (s.chip.power.pinHeld = true →
       Becomes .sysRstNRelease s { s.chip with
         power := { s.chip.power with pinHeld := false }
         boot := if s.chip.power.supplyHeld then s.chip.boot else { pending := true } })) ∧
  (∀ (s : State) (value mask : Word), Answers s.chip .sb → mask = 0xFFFFFFFF#32 →
     let u := pmcCount .sb 0x02 0 s.chip
     Becomes (.chipResetRequest value mask) s
       (if value = 0xA5A5#32 then { u with power := { u.power with chipReset := true }, lastWrite := some (.ok, 0) }
       else { u with lastWrite := some (.badOperand, 0) }))

/-- The resets of the PCI Express side (R63, R66, R67, R78): `PERST_N` and a function-level reset return the host interface state
to its reset values and record their cause; `PERST_N` takes the link down and abandons a mailbox read; the device runs on. The
release of `PERST_N` lets the link train once the boot sequence has released the PCIe island (R69); it, the loss of the link or of its
reference, and the test reset change only what is named. -/
def Obligations.PcieResets : Prop :=
  ∀ s : State,
    (s.chip.power.perst = false → dead s.chip = false → aonLost s.chip = false →
      ∃ t, Becomes .pcieFundamentalReset s t ∧ HostReset s.chip t ∧ CauseSet 2 s.chip t ∧ MailboxAbandoned s.chip t ∧
        t.power.perst = true ∧ t.power.linkUp = false ∧ t.pkt = s.chip.pkt ∧ t.ports = s.chip.ports ∧ t.time = s.chip.time) ∧
    (barUp s.chip = true →
      ∃ t, Becomes .functionLevelReset s t ∧ HostReset s.chip t ∧ CauseSet 3 s.chip t ∧ t.boot = s.chip.boot ∧
        t.power.linkUp = s.chip.power.linkUp ∧ t.pkt = s.chip.pkt ∧ t.ports = s.chip.ports ∧ t.time = s.chip.time ∧
        t.live = s.chip.live) ∧
    (s.chip.power.perst = true → Becomes .perstNRelease s { s.chip with
      power := { s.chip.power with perst := false, pcieRefLost := false
                                   linkUp := s.chip.power.linkUp || (!dead s.chip && s.chip.boot.stage ≠ 0 && s.chip.boot.stage ≠ 0x0F) } }) ∧
    (∃ t, Becomes .pcieLinkDown s t ∧ MailboxAbandoned s.chip t ∧
      t = { s.chip with boot := t.boot, power := { s.chip.power with linkUp := false } }) ∧
    (∃ t, Becomes .pcieRefclkLost s t ∧ MailboxAbandoned s.chip t ∧
      t = { s.chip with boot := t.boot, power := { s.chip.power with linkUp := false, pcieRefLost := true } }) ∧
    Becomes .testReset s { s.chip with power := { s.chip.power with tapIr := 0x01 } }

/-- An AUTO domain that meets its condition of R49 with no frame of a live epoch in its islands is switched off: the domain alone, and its
islands' fields return to their reset values (R50, R113). A domain kept on by FORCE_ON, and one whose condition is not met, stays. The next
domain an Order needs is switched on (R50): it alone comes on, its power-up events count one more and saturate at 0xFFFF, and it is needed
no longer; domain 53 + 2t waits while domain 52 + 2t is off, which is then needed first. -/
def Obligations.DomainPower : Prop :=
  (∀ (s : State) (n : Nat), n < 72 → dead s.chip = false → s.chip.boot.done = true → (domainSt s.chip n).on = true →
     if (domainSt s.chip n).mode = .auto ∧ offCondition s.chip n = true ∧ domainEmpty s.chip n = true then
       ∃ t, Becomes (.domainAutoOff n) s t ∧ (domainSt t n).on = false ∧
         (∀ m, m ≠ n → domainSt t m = domainSt s.chip m) ∧
         (∀ i ∈ islandsOf n, ∀ ca, ca / 2 ^ 32 = i.code → sfind t.live ca = none ∧ sfind t.staged ca = none)
     else Becomes (.domainAutoOff n) s s.chip) ∧
  (∀ (s : State) (n : Nat) (env : TrainEnv), n < 72 → dead s.chip = false → s.chip.power.wanted.head? = some n →
     (domainSt s.chip n).on = false →
     let waits : Prop := 52 ≤ n ∧ n < 68 ∧ n % 2 = 1 ∧ (domainSt s.chip (n - 1)).on = false
     (¬ waits → ∃ t, Becomes (.domainPowerUp n env) s t ∧ (domainSt t n).on = true ∧
       (domainSt t n).ups = min 0xFFFF ((domainSt s.chip n).ups + 1) ∧ ¬ n ∈ t.power.wanted ∧
       (∀ m, m ≠ n → domainSt t m = domainSt s.chip m)) ∧
     (waits → Becomes (.domainPowerUp n env) s
       { s.chip with power := { s.chip.power with wanted := (n - 1) :: s.chip.power.wanted } }))

/-- The modes of a domain (R51, R52), the Signal Box answering: AUTO and FORCE_ON are taken with OK; FORCE_OFF of domains 68 to 71 is
governed and the mode stays AUTO; of a domain with an island that is not fenced, and of domain 52 + 2t while domain 53 + 2t is on, it is
BUSY and changes nothing but what counters of field accesses count; else the domain goes off with mode FORCE_OFF and its islands stay
fenced. No other domain changes its mode. -/
def Obligations.DomainModes : Prop :=
  ∀ (s : State) (n : Nat), n < 72 → Answers s.chip .sb →
    let held : Prop := 52 ≤ n ∧ n < 68 ∧ n % 2 = 0 ∧ (domainSt s.chip (n + 1)).on = true
    let others (t : Chip) : Prop := ∀ m, m ≠ n → (domainSt t m).mode = (domainSt s.chip m).mode
    (∃ t, Becomes (.pdModeAuto n) s t ∧ (domainSt t n).mode = .auto ∧ (domainSt t n).on = (domainSt s.chip n).on ∧
      (t.lastWrite.map (fun x => x.1)) = some .ok ∧ others t) ∧
    (∀ env, ∃ t, Becomes (.pdModeForceOn n env) s t ∧ (domainSt t n).mode = .forceOn ∧ (domainSt t n).on = true ∧
        (t.lastWrite.map (fun x => x.1)) = some .ok ∧ others t) ∧
    (68 ≤ n → ∃ t, Becomes (.pdModeForceOff n) s t ∧ (domainSt t n).mode = .auto ∧
      (t.lastWrite.map (fun x => x.1)) = some .governed ∧ others t) ∧
    (n < 68 → (∃ i ∈ islandsOf n, isFenced s.chip i = false) ∨ held →
      ∃ w, Becomes (.pdModeForceOff n) s { pmcCount .sb 0x02 0 s.chip with lastWrite := some (.busy, w) }) ∧
    (n < 68 → (∀ i ∈ islandsOf n, isFenced s.chip i = true) → ¬ held →
      ∃ t, Becomes (.pdModeForceOff n) s t ∧ (domainSt t n).on = false ∧ (domainSt t n).mode = .forceOff ∧
        (∀ i ∈ islandsOf n, isFenced t i = true) ∧ (t.lastWrite.map (fun x => x.1)) = some .ok ∧ others t)

/-- Rails and references (R47, R55), the device running past step 3 of its boot (R82) and the event new: a rail out of range raises a POWER fault at
S2 in the Keystone, VDD_FUSE high one at S0, the loss of REFCLK_SYS one at S4; the loss of REFCLK_TILE takes the 64 lanes of its Tile down and
raises a LANE fault at S3 in the Tile's first Platform, which must have power. The time reference (R54, R55, R388), VDD_AON good: its loss enters
holdover at once, holds the PPS outputs with STOP_HOLD low, and raises a TIME fault at S2 in the Timetable; its return at 10 or 25 MHz within 1,000
ppm takes the reference back with the frequency measured, and holdover stays. -/
def Obligations.SupplyFaults : Prop :=
  (∀ s : State, dead s.chip = false → s.chip.boot.pending = false →
     (∀ rail, rail < 10 → s.chip.power.railsOut.contains rail = false →
       Becomes (.railOutOfRange rail) s (raise .ks (0x10 + rail) clsPower 2
         { s.chip with power := { s.chip.power with railsOut := nadd s.chip.power.railsOut rail } })) ∧
     (s.chip.power.fuseHigh = false →
       Becomes .vddFuseHigh s (raise .ks 0x1A clsPower 0 { s.chip with power := { s.chip.power with fuseHigh := true } })) ∧
     (s.chip.power.sysLost = false →
       Becomes .refclkSysLost s (raise .ks 0x30 clsPower 4 { s.chip with power := { s.chip.power with sysLost := true } })) ∧
     (∀ tile, tile < 8 → s.chip.power.tileLost.contains tile = false → isOn s.chip (.platform (4 * tile)) = true →
       ∃ u, Becomes (.refclkTileLost tile) s (raise (.platform (4 * tile)) 0x30 clsLane 3 u) ∧
         u.power = { s.chip.power with tileLost := nadd s.chip.power.tileLost tile } ∧
         ∀ l, l / 64 = tile → (laneOf u l).lock = false ∧ (laneOf u l).los = true)) ∧
  (∀ s : State, aonLost s.chip = false →
     (s.chip.time.refLost = false →
       ∃ u, Becomes .timeRefLost s (raise .tt 0x01 clsTime 2 u) ∧
         u.time = { s.chip.time with
           refLost := true, holdover := true, events := u.time.events, ppsHigh := u.time.ppsHigh, ppsLeft := u.time.ppsLeft } ∧
         (∀ k ∈ u.time.ppsHigh, ppsStopped u k = false) ∧ u.pkt = s.chip.pkt ∧ u.ports = s.chip.ports ∧
         (if s.chip.time.holdover = false then bit u.time.events 2 = true else u.time.events = s.chip.time.events)) ∧
     (s.chip.time.refLost = true → ∀ hz,
       (9990000 ≤ hz ∧ hz ≤ 10010000 → Becomes (.timeRefReturn hz) s
         { s.chip with time := { s.chip.time with refLost := false, refFreq := false } }) ∧
       (24975000 ≤ hz ∧ hz ≤ 25025000 → Becomes (.timeRefReturn hz) s
         { s.chip with time := { s.chip.time with refLost := false, refFreq := true } })))

/-- A sample of the sensors sets T to the highest reading in 1/8 °C (R59), and a write of `KS_TJ_CTRL` with the Keystone answering
takes effect within its bounds (R59): the throttle threshold is held to 95 to 108 °C and the warning threshold to no more than the
throttle threshold. An SMBus read at the address of R57 sends the four bytes of the summary word, zeros while the Keystone is in reset
(R446); the device does not answer at another address. -/
def Obligations.Temperature : Prop :=
  ∀ s : State, aonLost s.chip = false →
    (∀ (v : Int) (vs : List Int) (rails : List Nat), ∃ t, Becomes (.temperatureSample (v :: vs) rails) s t ∧
      (t.power.temp = v ∨ t.power.temp ∈ vs) ∧ v ≤ t.power.temp ∧ ∀ x ∈ vs, x ≤ t.power.temp) ∧
    (∀ addr, Becomes (.smbusSummaryRead addr) s (if addr = 0x58 + s.chip.power.smbAddr then { s.chip with
      out := s.chip.out ++ [.smbus (leBytes 4 (if dead s.chip then 0 else ksSummary s.chip))] } else s.chip)) ∧
    (Answers s.chip .ks → s.chip.power.temp < 960 → ∀ value mask : Word, mask &&& 0x00FFFF01#32 ≠ 0 →
      ∃ t, Becomes (.ksTjCtrlWrite value mask) s t ∧
        (liveW t (caddr .ks 0x0400)).toNat = clampTj (mergeW (liveW s.chip (caddr .ks 0x0400)) value (mask &&& 0x00FFFF01#32)).toNat)

/-- The boot sequence (R69, R71, R73, R76, R77), released and the device out of reset: it samples `BOOT_SRC`; bad fuses halt it in stage 0x0F with
code 0x0A and cause bit 4; in mailbox mode it waits in stage 0x03; else it ends READY (0x06) where a copy in flash passes the checks of R75, and
READY without patches (0x07) where none does, with code 0x09 where no copy can be read from flash. `PC_MBOX_GO` while the mailbox is awaited (R77,
R78): length 0 ends the boot without patches; any other length starts a read, which a PCI Express error ends with code 0x0B and a length outside 368
to 524,640 with code 0x05, the mailbox still awaited. -/
def Obligations.BootSequence : Prop :=
  (∀ (s : State) (env : BootEnv), s.chip.boot.pending = true → dead s.chip = false →
     ∃ t, Becomes (.bootSequence env) s t ∧ t.boot.pending = false ∧ t.boot.bootSrc = env.bootSrc ∧
       (if env.fusesGood = false then
         t.boot.stage = 0x0F ∧ t.boot.error = 0x0A ∧ t.boot.done = false ∧ CauseSet 4 s.chip t
       else if env.bootSrc = true then t.boot.stage = 0x03 ∧ t.boot.error = 0 ∧ t.boot.done = false
       else
         let good (c : List Byte) : Prop :=
           containerError c none = none ∧ (patchSegments (leAt c 0x12 2) (containerBody c)).isSome = true
         t.boot.done = true ∧
         (∀ a b, env.flash = some (a, b) → (good a ∨ good b → t.boot.stage = 0x06) ∧ (¬ good a → ¬ good b → t.boot.stage = 0x07)) ∧
         (env.flash = none → t.boot.stage = 0x07 ∧ t.boot.error = 0x09))) ∧
  (∀ (s : State) (len : Nat) (env : BootEnv), barUp s.chip = true → s.chip.boot.stage = 0x03 → s.chip.boot.reading = false →
     (len % 2 ^ 20 = 0 → ∃ t, Becomes (.mailboxGo len .started env) s t ∧ t.boot.done = true ∧ t.boot.stage = 0x07) ∧
     (len % 2 ^ 20 ≠ 0 → Becomes (.mailboxGo len .started env) s
       { s.chip with boot := { s.chip.boot with mbLen := len % 2 ^ 20, reading := true } }) ∧
     (len % 2 ^ 20 ≠ 0 → Becomes (.mailboxGo len .dmaError env) s
       { s.chip with boot := { s.chip.boot with mbLen := len % 2 ^ 20, error := 0x0B } }) ∧
     (len % 2 ^ 20 ≠ 0 → len % 2 ^ 20 < 368 ∨ 524640 < len % 2 ^ 20 → ∀ bytes, Becomes (.mailboxGo len (.whole bytes) env) s
       { s.chip with boot := { s.chip.boot with mbLen := len % 2 ^ 20, error := 0x05, reading := false } }))

/-! The host interface (file 04) -/

/-- Enabling a ring or packet DMA queue that is disabled, with a level other than 3 and a size in its range (R92 to R95, R120): it takes the fields
of the written word, its indexes are 0, its completion phase is 1 and nothing is issued. Other rings and queues are unchanged. A configuration
outside those bounds is refused as a whole and recorded as an error, whether it enables or disables. Disabling a ring or queue (R94, R120): it goes
out of service at once, what it had issued or posted and not started is discarded, and an Order at work goes on. -/
def Obligations.RingEnable : Prop :=
  (∀ (s : State) (cfg : Word), bellUp s.chip = true → bits cfg.toNat 24 2 ≠ 3 → 6 ≤ bits cfg.toNat 8 5 →
     (∀ n, n < 64 → (ringOf s.chip n).enable = false → bits cfg.toNat 8 5 ≤ 16 →
       ∃ t, Becomes (.ringEnable n cfg) s t ∧ (∀ m, m ≠ n → ringOf t m = ringOf s.chip m) ∧ t.host.dma = s.chip.host.dma ∧
         ringOf t n = { ringOf s.chip n with
           enable := true, level := bits cfg.toNat 24 2, vector := bits cfg.toNat 16 8, log2 := bits cfg.toNat 8 5
           waybill := false, head := 0, cplTail := 0, tail := 0, cplHead := 0, phase := true, stopped := false, issued := []
           descs := [] }) ∧
     (∀ q, q < 32 → (dmaOf s.chip q).enable = false → bits cfg.toNat 8 5 ≤ 14 →
       ∃ t, Becomes (.dmaQueueEnable q cfg) s t ∧ (∀ m, m ≠ q → dmaOf t m = dmaOf s.chip m) ∧ t.host.rings = s.chip.host.rings ∧
         dmaOf t q = { dmaOf s.chip q with
           enable := true, level := bits cfg.toNat 24 2, vector := bits cfg.toNat 16 8, log2 := bits cfg.toNat 8 5
           waybill := bit cfg.toNat 0, head := 0, cplTail := 0, tail := 0, cplHead := 0, phase := true, stopped := false
           issued := [], descs := [] })) ∧
  (∀ (s : State) (cfg : Word), bellUp s.chip = true → bits cfg.toNat 24 2 ≠ 3 → 6 ≤ bits cfg.toNat 8 5 →
     (∀ n, n < 64 → (ringOf s.chip n).enable = true → bits cfg.toNat 8 5 ≤ 16 →
       ∃ t, Becomes (.ringDisable n cfg) s t ∧ (∀ m, m ≠ n → ringOf t m = ringOf s.chip m) ∧ t.host.dma = s.chip.host.dma ∧
         (ringOf t n).enable = false ∧ (ringOf t n).issued = [] ∧ (ringOf t n).running = (ringOf s.chip n).running) ∧
     (∀ q, q < 32 → (dmaOf s.chip q).enable = true → bits cfg.toNat 8 5 ≤ 14 →
       ∃ t, Becomes (.dmaQueueDisable q cfg) s t ∧ (∀ m, m ≠ q → dmaOf t m = dmaOf s.chip m) ∧
         t.host.rings = s.chip.host.rings ∧ (dmaOf t q).enable = false ∧ (dmaOf t q).descs = [])) ∧
  (∀ (s : State) (cfg : Word), bellUp s.chip = true →
     (∀ n, n < 64 → bits cfg.toNat 24 2 = 3 ∨ bits cfg.toNat 8 5 < 6 ∨ 16 < bits cfg.toNat 8 5 →
       (∃ t, Becomes (.ringEnable n cfg) s t ∧ ringOf t n = { ringOf s.chip n with cfgErr := true } ∧ t.host.evRing = true) ∧
       (∃ t, Becomes (.ringDisable n cfg) s t ∧ ringOf t n = { ringOf s.chip n with cfgErr := true } ∧ t.host.evRing = true)) ∧
     (∀ q, q < 32 → bits cfg.toNat 24 2 = 3 ∨ bits cfg.toNat 8 5 < 6 ∨ 14 < bits cfg.toNat 8 5 →
       (∃ t, Becomes (.dmaQueueEnable q cfg) s t ∧ dmaOf t q = { dmaOf s.chip q with cfgErr := true } ∧ t.host.evRing = true) ∧
       (∃ t, Becomes (.dmaQueueDisable q cfg) s t ∧ dmaOf t q = { dmaOf s.chip q with cfgErr := true } ∧ t.host.evRing = true)))

/-- A tail doorbell (R95): a value the rule accepts issues the Orders of the new slots, in order, each with the next sequence number (R109), or
posts the queue's descriptors as they stand in its slots; any other value is ignored and recorded as a configuration error. A completion head
doorbell (R95): an accepted value returns the slots before it and changes nothing else; any other value is ignored and recorded. -/
def Obligations.Doorbells : Prop :=
  (∀ (s : State) (i : Nat), bellUp s.chip = true →
     (∀ n fences, n < 64 →
       if tailOk (ringOf s.chip n) i = true then
         ∃ t, Becomes (.ringTailDoorbell n i fences) s t ∧ (∀ m, m ≠ n → ringOf t m = ringOf s.chip m) ∧
           (ringOf t n).tail = i ∧
           (ringOf t n).issued = (ringOf s.chip n).issued ++
             span s.chip.host.nextSeq ((ringOf s.chip n).dist i (ringOf s.chip n).tail) ∧
           t.host.nextSeq = s.chip.host.nextSeq + (ringOf s.chip n).dist i (ringOf s.chip n).tail
       else ∃ t, Becomes (.ringTailDoorbell n i fences) s t ∧ ringOf t n = { ringOf s.chip n with cfgErr := true } ∧
         t.host.evRing = true ∧ t.host.nextSeq = s.chip.host.nextSeq) ∧
     (∀ q ds, q < 32 →
       if tailOk (dmaOf s.chip q) i = true then
         let v := dmaOf s.chip q
         ∃ t, Becomes (.dmaQueueDoorbell q (.tail i ds)) s t ∧ (∀ m, m ≠ q → dmaOf t m = dmaOf s.chip m) ∧
           dmaOf t q = { v with tail := i, descs := v.descs ++ (span 0 (v.dist i v.tail)).map (fun k =>
             ((v.tail + k) % v.size, (nth none ds k).map (padTo 16 0))) }
       else ∃ t, Becomes (.dmaQueueDoorbell q (.tail i ds)) s t ∧ dmaOf t q = { dmaOf s.chip q with cfgErr := true } ∧
         t.host.evRing = true)) ∧
  (∀ (s : State) (j : Nat), bellUp s.chip = true →
     (∀ n, n < 64 →
       let v := ringOf s.chip n
       if v.enable = true ∧ j < v.size ∧ v.dist j v.cplHead ≤ v.dist v.cplTail v.cplHead then
         Becomes (.cplHeadDoorbell n j) s (modRing n (fun v => { v with cplHead := j }) s.chip)
       else ∃ t, Becomes (.cplHeadDoorbell n j) s t ∧ ringOf t n = { v with cfgErr := true } ∧ t.host.evRing = true) ∧
     (∀ q, q < 32 →
       let v := dmaOf s.chip q
       if v.enable = true ∧ j < v.size ∧ v.dist j v.cplHead ≤ v.dist v.cplTail v.cplHead then
         Becomes (.dmaQueueDoorbell q (.cplHead j)) s (modDma q (fun v => { v with cplHead := j }) s.chip)
       else ∃ t, Becomes (.dmaQueueDoorbell q (.cplHead j)) s t ∧ dmaOf t q = { v with cfgErr := true } ∧ t.host.evRing = true))

/-- The next Order of the ring whose turn it is starts (R99, R107 to R109): the head moves past its slot, and it is at work with its tag and
payload; an Order that fails a check of R99 has that check's status and no effect, any other asks for its command. An Order that FENCE keeps back
stays issued (R109), and one whose fetch fails stops its ring (R96). The completions of an Order (R100 to R103): after 1 ms
with PROGRESS, one `PENDING` completion while the Order goes on, and none before, no second one, nor any without PROGRESS; at its end, its Signalmen
having yielded and Signalman 0 not halted (R463), the final completion. Each stands whole in the next slot of the completion ring, and the tail moves past it. -/
def Obligations.OrderLife : Prop :=
  (∀ (s : State) (ring seq : Nat) (rest : List Nat) (o : OrderFetch), ring < 64 → hostUp s.chip = true →
     s.chip.boot.done = true → (smOf s.chip 0).halted = false → ringTurn s.chip = some ring →
     (ringOf s.chip ring).issued = seq :: rest → o.fetchErr = false →
     fenceAllows s.chip seq (bit (byteAt o.bytes 2) 1) = true →
     let flags := byteAt o.bytes 2
     let run : Running :=
       { cmd := match startChecks s.chip ring o with | .inl _ => none | .inr c => some c
         tag := leAt o.bytes 4 2, index := (ringOf s.chip ring).head, notify := bit flags 2, progress := bit flags 3
         payload := if bit flags 0 then some { addr := leAt o.bytes 0x08 8, len := leAt o.bytes 0x10 4 } else none
         seq := seq, start := runNs s.chip
         outcome := match startChecks s.chip ring o with | .inl e => some (e, 0) | .inr _ => none }
     ∃ t, Becomes (.orderStart ring o) s t ∧ t.host.lastRing = ring ∧
       ringOf t ring = { ringOf s.chip ring with
         issued := rest, head := ((ringOf s.chip ring).head + 1) % (ringOf s.chip ring).size, running := some run
         fetchErr := (ringOf s.chip ring).fetchErr || payloadLost s.chip ring o } ∧
       (∀ m, m ≠ ring → ringOf t m = ringOf s.chip m)) ∧
  (∀ (s : State) (ring seq : Nat) (rest : List Nat) (o : OrderFetch), ring < 64 → hostUp s.chip = true →
     s.chip.boot.done = true → (smOf s.chip 0).halted = false → ringTurn s.chip = some ring →
     (ringOf s.chip ring).issued = seq :: rest →
     (o.fetchErr = true → ∃ t, Becomes (.orderStart ring o) s t ∧ t.host.lastRing = ring ∧ t.host.evRing = true ∧
       ringOf t ring = { ringOf s.chip ring with stopped := true, fetchErr := true } ∧
       (∀ m, m ≠ ring → ringOf t m = ringOf s.chip m)) ∧
     (o.fetchErr = false → fenceAllows s.chip seq (bit (byteAt o.bytes 2) 1) = false →
       ∃ t, Becomes (.orderStart ring o) s t ∧ t.host.lastRing = ring ∧ ∀ m, ringOf t m = ringOf s.chip m)) ∧
  (∀ (s : State) (ring : Nat) (o : Running), ring < 64 → hostUp s.chip = true →
     (ringOf s.chip ring).running = some o → o.orphan = false →
     let v := ringOf s.chip ring
     let slot := pageAddr v.cplHi v.cplLo + 16 * v.cplTail
     (o.progress = true → o.pendingWritten = false → 1000000 ≤ elapsed s.chip o.start →
       ∃ t, Becomes (.orderPending ring) s t ∧ (ringOf t ring).running = some { o with pendingWritten := true } ∧
         (ringOf t ring).cplTail = (v.cplTail + 1) % v.size ∧
         ∀ k, hostByte t k = if slot ≤ k ∧ k < slot + 16 then (completionBytes o.tag .pending o.index v.phase 0)[k - slot]?
           else hostByte s.chip k) ∧
     (o.progress = false ∨ o.pendingWritten = true ∨ elapsed s.chip o.start < 1000000 → Becomes (.orderPending ring) s s.chip) ∧
     (∀ st res, o.outcome = some (st, res) → orderYielded s.chip o = true →
       ∃ t, Becomes (.orderCompletion ring) s t ∧ (ringOf t ring).running = none ∧
         (ringOf t ring).cplTail = (v.cplTail + 1) % v.size ∧
         ∀ k, hostByte t k = if slot ≤ k ∧ k < slot + 16 then (completionBytes o.tag st o.index v.phase res)[k - slot]?
           else hostByte s.chip k))

/-- Unmasking an MSI-X vector (R89, R120): its mask bit is 0, and a message that stood pending is sent once. Writes of 1 to W1C bits and reads
that clear RC bits (R8, R67, R88, R92, R120, R123): in `PC_RST_CAUSE`, `PC_HOST_EVENT` and the status of a ring or a packet DMA queue the
bits written with 1 become 0 and no other bit changes; a read of a drop counter sends its value and leaves it 0; any other BAR0 read, and a
read of BAR2, changes nothing; a read of a Cabin word whose island answers sends its value and clears its RC bits. -/
def Obligations.MsixAndClears : Prop :=
  (∀ (s : State) (v : Nat), v < 256 → bellUp s.chip = true →
     ∃ t, Becomes (.msixUnmask v) s t ∧ msixWord t (4 * v + 3) = 0 ∧
       (∀ k, k ≠ 4 * v + 3 → msixWord t k = msixWord s.chip k) ∧
       (if s.chip.host.msixPending.contains v = true then
         t.out = s.chip.out ++ [.msix v] ∧ t.host.msixPending = ndel s.chip.host.msixPending v
       else t.out = s.chip.out ∧ t.host.msixPending = s.chip.host.msixPending)) ∧
  (∀ (s : State) (value : Word), bellUp s.chip = true → barUp s.chip = true →
     Becomes (.w1cClear (.bar0 0x1C) value) s { s.chip with host := { s.chip.host with
       evRing := s.chip.host.evRing && !bit value.toNat 1, evBoot := s.chip.host.evBoot && !bit value.toNat 0 } } ∧
     (∀ n, n < 64 → ∃ t, Becomes (.w1cClear (.bar0 (0x1000 + 64 * n + 0x1C)) value) s t ∧
       ringOf t n = { ringOf s.chip n with
         cfgErr := (ringOf s.chip n).cfgErr && !bit value.toNat 1, fetchErr := (ringOf s.chip n).fetchErr && !bit value.toNat 0 } ∧
       ∀ m, m ≠ n → ringOf t m = ringOf s.chip m) ∧
     (∃ k, Becomes (.w1cClear (.bar0 0x14) value) s { s.chip with power := { s.chip.power with rstCause := k } } ∧
       ∀ j, j < 7 → bit k j = (bit s.chip.power.rstCause j && !bit value.toNat j)) ∧
     (∀ q, q < 32 → ∃ t, Becomes (.w1cClear (.bar0 (0x3000 + 32 * q + 0x1C)) value) s t ∧
       dmaOf t q = { dmaOf s.chip q with
         cfgErr := (dmaOf s.chip q).cfgErr && !bit value.toNat 1, fetchErr := (dmaOf s.chip q).fetchErr && !bit value.toNat 0 } ∧
       ∀ m, m ≠ q → dmaOf t m = dmaOf s.chip m) ∧
     (∀ q, q < 16 → ∃ t, Becomes (.readClear (.bar0 (0x3400 + 4 * q))) s t ∧
       t.out = s.chip.out ++ [.read (sget 0 s.chip.host.dmaDrop q % 2 ^ 32)] ∧ sget 0 t.host.dmaDrop q = 0 ∧
       ∀ k, k ≠ q → sget 0 t.host.dmaDrop k = sget 0 s.chip.host.dmaDrop k) ∧
     (∀ off, off < 0x3400 ∨ 0x3440 ≤ off → Becomes (.readClear (.bar0 off)) s
       { s.chip with out := s.chip.out ++ [.read (readBar0 s.chip off).toNat] }) ∧
     (∀ off, Becomes (.readClear (.bar2 off)) s { s.chip with out := s.chip.out ++ [.read (bar2Word s.chip off).toNat] })) ∧
  (∀ (s : State) (ca : Nat) (i : Isl) (off : Nat), wordAt ca = .inr (i, off) → Answers s.chip i →
     let u := pmcCount i 0x02 0 s.chip
     Becomes (.readClear (.cabin ca)) s { clearRc i off u with
       lastWrite := some (.ok, readWord u false i off), out := u.out ++ [.read (readWord u false i off).toNat] })

/-- `FIELD_READ` (R8, R33, R117), its island answering, the event counters of field accesses having counted it (R426): one word without a
payload is the result, and only its RC bits change; with a payload, COUNT words without RC bits stand in it in little-endian bytes, and the
result is COUNT. `FIELD_WRITE` of one entry (R8, R113, R118) to a staged word of an island that answers, its MASK on bits of access RW and
RWS: the staged value takes the bits of VALUE that MASK selects, within the word's bound, with `GOVERNED` where the bound replaced it; no
other staged value changes, and no live value but the counters. A MASK of 0 writes nothing. -/
def Obligations.FieldAccess : Prop :=
  (∀ (s : State) (ring : Nat) (ops : FieldReadOps) (i : Isl) (off : Nat), AtWork s ring (.fieldRead ring ops) →
     wordAt ops.caddr = .inr (i, off) → Answers s.chip i → 1 ≤ ops.count → ops.count ≤ 1024 → off + 4 * ops.count ≤ 0x00100000 →
     let u := pmcCount i 0x02 0 s.chip
     (ops.payload = none → ops.count = 1 →
       Ends (.fieldRead ring ops) s ring .ok ((readWord u ops.live i off).zeroExtend 64) (clearRc i off u)) ∧
     (∀ p, ops.payload = some p → 4 * ops.count ≤ p.len →
       ∃ t, Ends (.fieldRead ring ops) s ring .ok (BitVec.ofNat 64 ops.count) t ∧
         (∀ a, a < p.addr ∨ p.addr + 4 * ops.count ≤ a → hostByte t a = hostByte s.chip a) ∧
         ∀ k, k < ops.count → (∀ o w, off ≤ o → o < off + 4 * ops.count → wordSpec i o = some w → w.rc = 0) → ∀ b, b < 4 →
           hostByte t (p.addr + 4 * k + b) = (leBytes 4 (readWord u ops.live i (off + 4 * k)).toNat)[b]?)) ∧
  (∀ (s : State) (ring : Nat) (ops : FieldWriteOps) (e : FieldEntry) (i : Isl) (off : Nat) (w : WordSpec),
     AtWork s ring (.fieldWrite ring ops) → ops.isList = false → ops.entries = [e] → wordAt e.caddr = .inr (i, off) →
     Answers s.chip i → i ≠ .sb → wordSpec i off = some w → w.rws ≠ 0 → w.w1c = 0 → notHeld s.chip i off = false →
     linkCipherWord i off = false → e.mask &&& BitVec.ofNat 32 (w.ro ||| w.rc) = 0 → lineWaits s.chip i = false →
     inBlock off 0x48 8 4 0 = false →
     let m := e.mask &&& BitVec.ofNat 32 (w.rw ||| w.rws)
     let new := mergeW (stagedW s.chip e.caddr) e.value m
     let v := clampWrite s.chip i off new.toNat
     let u := pmcCount i 0x02 0 s.chip
     (m = 0 → ∃ res, Ends (.fieldWrite ring ops) s ring .ok res u) ∧
     (m ≠ 0 → ∃ res t, Ends (.fieldWrite ring ops) s ring (if v = new.toNat then .ok else .governed) res t ∧
       stagedW t e.caddr = BitVec.ofNat 32 v ∧ (∀ ca, ca ≠ e.caddr → sfind t.staged ca = sfind s.chip.staged ca) ∧
       (v = new.toNat → t.live = u.live) ∧ liveW t e.caddr = liveW s.chip e.caddr))

/-- `BLOCK_COMMIT` (R114, R115, R119): with every named island answering, the staged values of all of them go live at once, each staged word
of access RWS as the bounds of a commit leave it, the result names those that had any, and a bound that replaced a field makes the status
`GOVERNED`; a fenced one makes it `FENCED`, with nothing committed. -/
def Obligations.BlockCommit : Prop :=
  ∀ (s : State) (ring islands : Nat), AtWork s ring (.blockCommit ring islands) → 0 < islands → islands < 2 ^ 58 →
    offDomains s.chip ((maskIslands islands).map (fun x => x.2)) = [] →
    ((∀ x ∈ maskIslands islands, isFenced s.chip x.2 = false) →
      ∃ st t, Ends (.blockCommit ring islands) s ring st
          (BitVec.ofNat 64 (maskOf (((maskIslands islands).filter (fun x => hasStaged s.chip x.2)).map (fun x => x.1)))) t ∧
        st = (if (commitAll ((maskIslands islands).map (fun x => x.2)) s.chip).1 = 0 then .ok else .governed) ∧
        (∀ x ∈ maskIslands islands, hasStaged t x.2 = false) ∧
        ∀ x ∈ maskIslands islands, ∀ off w spec, s.chip.staged.filter (fun p => p.1 = caddr x.2 off) = [(caddr x.2 off, w)] →
          off < 2 ^ 32 → wordSpec x.2 off = some spec → spec.rws ≠ 0 →
          liveW t (caddr x.2 off) = BitVec.ofNat 32 (clampCommit x.2 off w.toNat).1) ∧
    ((∃ x ∈ maskIslands islands, isFenced s.chip x.2 = true) →
      ∃ t, Ends (.blockCommit ring islands) s ring .fenced
          (BitVec.ofNat 64 (maskOf (((maskIslands islands).filter (fun x => isFenced s.chip x.2)).map (fun x => x.1)))) t ∧
        t.staged = s.chip.staged)

/-- A descriptor of a queue from the host is taken (R120, R121): the head moves past it and its completion becomes due; outside chip hold, a
PIPELINE frame enters the ingress Line that serves its port with the host-origin flag, a DIRECT frame becomes a copy for its queue in the Junction.
The frame is the first LENGTH bytes at the descriptor's address. The completion of a frame from the host (R101, R121, R122): its 16 bytes stand in
the next slot of the queue's completion ring, its status with the egress timestamp where TSREQ asked for it, and it is due no longer. No other byte
of memory changes. -/
def Obligations.HostFrames : Prop :=
  (∀ (s : State) (q slot : Nat) (d bytes : List Byte) (ds : List (Nat × Option (List Byte))), 16 ≤ q → q < 32 → hostUp s.chip = true →
     (dmaOf s.chip q).descs = (slot, some d) :: ds → (dmaOf s.chip q).enable = true → (dmaOf s.chip q).stopped = false →
     (sget [] s.chip.host.hostFrames q).length < (dmaOf s.chip q).freeSlots → txLane s.chip q = none → chipHold s.chip = false →
     hostRefusal s.chip none (hostDesc d) = none → (hostDesc d).len ≤ bytes.length →
     ∃ u, Becomes (.hostFrameDescriptor q bytes) s (settle u) ∧ (dmaOf u q).descs = ds ∧
       (dmaOf u q).head = ((dmaOf s.chip q).head + 1) % (dmaOf s.chip q).size ∧
       (sget [] u.host.hostFrames q).length = (sget [] s.chip.host.hostFrames q).length + 1 ∧
       ((hostDesc d).mode = 0 → ∀ n, servingLine s.chip (platformOf (hostDesc d).target) = some n →
         isFenced s.chip (.iline n) = false → isOn s.chip (.iline n) = true →
         ∃ x, u.pkt.rx = s.chip.pkt.rx ++ [x] ∧ x.line = n ∧ x.bytes = bytes.take (hostDesc d).len ∧ x.m.origin = 1 ∧
           x.m.inPort = (hostDesc d).target) ∧
       ((hostDesc d).mode = 1 → usableHalf s.chip 0 ≠ none →
         ∃ f, u.pkt.jn = s.chip.pkt.jn ++ [f] ∧ f.bytes = bytes.take (hostDesc d).len ∧ f.direct = some (hostDesc d).target)) ∧
  (∀ (s : State) (q : Nat) (f : HostFrame) (st : Status) (ts : Nat), 16 ≤ q → q < 32 → hostUp s.chip = true →
     (dmaOf s.chip q).freeSlots ≠ 0 →
     (sget [] s.chip.host.hostFrames q).find? (fun f => f.outcome.isSome) = some f → f.outcome = some (st, ts) →
     let v := dmaOf s.chip q
     let slot := pageAddr v.cplHi v.cplLo + 16 * v.cplTail
     ∃ t, Becomes (.hostFrameCompletion q) s t ∧ (dmaOf t q).cplTail = (v.cplTail + 1) % v.size ∧
       (∀ x ∈ sget [] t.host.hostFrames q, x.slot ≠ f.slot) ∧
       ∀ k, hostByte t k = if slot ≤ k ∧ k < slot + 16 then
           (hostTxCompletion (f.slot % 16384) st (if f.tsreq && st = .ok then ts else 0) v.phase)[k - slot]?
         else hostByte s.chip k)

/-! Lanes and ports (file 05) -/

/-- The link state machine of a configured port whose Platform answers (R29, R126, R127, R132, R135, R137): in AN it sends its pages, and
agreement takes it to TRAINING with the highest common mode, no common mode leaving it in AN; all lanes locked take TRAINING to ALIGNING, the
end of a wait takes BACKOFF to AN or TRAINING (FAULT while its Platform is held), alignment within 180 ns of skew takes ALIGNING to UP, a
larger skew of several lanes is a LANE fault at S2 once; lost alignment takes UP to FAULT, and Remote Fault takes UP to REMOTE and back, each
loss of UP counted. Every other port is as before. -/
def Obligations.PortLinkStates : Prop :=
  ∀ (s : State) (p : Nat) (v : Port), p < 512 → portOf s.chip p = some v → Answers s.chip (.platform (platformOf p)) →
    let others (t : Chip) : Prop := ∀ q, q ≠ p → portOf t q = portOf s.chip q
    (v.st = .an → ∀ partner,
      let sent : List Output := s.chip.out ++ [.anPages p Config.efnusOui (ownPage v)]
      (∀ m, highestMode (Nat.land v.advMask.toNat (partnerModes partner)) = some m →
        ∃ t u, Becomes (.anAgreement p partner) s t ∧ portOf t p = some u ∧ u.st = .training ∧ u.inForce = m ∧
          u.quietAgreed = (v.quietOk && partnerQuiet partner) ∧ t.out = sent ∧ others t) ∧
      (highestMode (Nat.land v.advMask.toNat (partnerModes partner)) = none →
        Becomes (.anAgreement p partner) s { s.chip with out := sent })) ∧
    (v.st = .training → ∃ t u, Becomes (.laneTrainingDone p) s t ∧ portOf t p = some u ∧ u.st = .aligning ∧
      (∀ l ∈ portLanes p v, (laneOf t l).lock = true ∧ (laneOf t l).los = false) ∧ others t) ∧
    (v.st = .backoff → backoffWait v.backoff ≤ elapsed s.chip v.backoffAt → ∃ t u, Becomes (.backoffExpiry p) s t ∧ portOf t p = some u ∧
      u.st = (if platformHeld s.chip (platformOf p) then .fault else if v.an then .an else .training) ∧ others t) ∧
    (v.st = .aligning → ∀ skew, skew ≤ 180 ∨ modeWidth v.inForce ≤ 1 →
      ∃ t u, Becomes (.portAligned p skew) s t ∧ portOf t p = some u ∧ u.st = .up ∧ u.backoff = 0 ∧ others t) ∧
    (v.st = .aligning → v.skewRaised = true → ∀ skew, skew ≤ 180 →
      ∃ t u, Becomes (.skewRetry p skew) s t ∧ portOf t p = some u ∧ u.st = .up ∧ u.skewRaised = false ∧ others t) ∧
    (v.st = .aligning → v.skewRaised = false → ∀ skew, 180 < skew → 1 < modeWidth v.inForce →
      Becomes (.portAligned p skew) s (raise (.platform (platformOf p)) (0x10 + laneIndex p) clsLane 2
        (modPort p (fun v => { v with skewRaised := true }) s.chip))) ∧
    (v.st = .up → ∀ l ∈ portLanes p v, l < 512 →
      ∃ t u, Becomes (.alignmentLost p l) s t ∧ portOf t p = some u ∧ u.st = .fault ∧
        u.downCount = min 0xFFFF (v.downCount + 1) ∧ others t) ∧
    (v.st = .up → ∃ t u, Becomes (.remoteFaultReceived p) s t ∧ portOf t p = some u ∧ u.st = .remote ∧ u.remoteFault = true ∧
      u.downCount = min 0xFFFF (v.downCount + 1) ∧ others t) ∧
    (v.st = .remote → ∃ t u, Becomes (.remoteFaultCleared p) s t ∧ portOf t p = some u ∧ u.st = .up ∧ u.remoteFault = false ∧
      u.downCount = v.downCount ∧ others t)

/-- What the receiver of a lane reports (R130 to R132, R136, R137), its Platform and its reference running: loss of signal and of lock
clear the lane's lock and take a port past training to FAULT; a lane that locks again has its lock, and one that does not is retrained; a
failed training keeps the best setting and takes the port to BACKOFF with a LANE fault at S2 once; a rate-match overrun is counted; the
eye margin of a locked lane is held. -/
def Obligations.LaneEvents : Prop :=
  ∀ (s : State) (l : Nat), l < 512 → laneAlive s.chip l = true →
    (laneQuiet s.chip l = false →
      (∃ t, Becomes (.losDetected l) s t ∧ (laneOf t l).los = true ∧ (laneOf t l).lock = false ∧ (laneOf t l).sd = false ∧
        (∀ p v, portOfLane s.chip l = some p → portOf s.chip p = some v → v.st = .up ∨ v.st = .aligning ∨ v.st = .remote →
          ∃ u, portOf t p = some u ∧ u.st = .fault)) ∧
      (∃ t, Becomes (.lolDetected l) s t ∧ (laneOf t l).lock = false ∧ (laneOf t l).los = (laneOf s.chip l).los ∧
        (∀ p v, portOfLane s.chip l = some p → portOf s.chip p = some v → v.st = .up ∨ v.st = .aligning ∨ v.st = .remote →
          ∃ u, portOf t p = some u ∧ u.st = .fault)) ∧
      ((laneOf s.chip l).los = false → ∃ t, Becomes (.lockRegained l) s t ∧ (laneOf t l).lock = true ∧
        (laneOf t l).retrain = false)) ∧
    Becomes (.losCleared l) s (modLane l (fun v => { v with los := false, sd := true }) s.chip) ∧
    (∀ p v, portOfLane s.chip l = some p → portOf s.chip p = some v → v.st = .fault → (laneOf s.chip l).lock = false →
      Becomes (.relockTimeout l) s (modLane l (fun v => { v with retrain := true }) s.chip)) ∧
    (∀ p v best margin, portOfLane s.chip l = some p → portOf s.chip p = some v → v.st = .training ∨ v.st = .fault →
      ∃ t u, Becomes (.trainFail l best margin) s (if v.failRaised then t else raise (.platform (platformOf l)) (laneIndex l) clsLane 2 t) ∧
        (laneOf t l).best = some (clampTx best, margin) ∧ (laneOf t l).lock = false ∧ portOf t p = some u ∧ u.st = .backoff ∧
        u.backoff = min 11 (v.backoff + 1)) ∧
    (∃ t, Becomes (.rateMatchOverrun l) s t ∧
      (liveW t (laneWord l 8)).toNat = min 0xFFFFFFFF ((liveW s.chip (laneWord l 8)).toNat + 1)) ∧
    ((laneOf s.chip l).lock = true → ∀ mv, ∃ t, Becomes (.eyeMarginUpdate l mv) s t ∧ (laneOf t l).eye = min mv 255)

/-- The Quiet state (R142, R143, R151, R302): a standby port that meets R142 sends its markers and enters QUIET, or answers its partner's, and no
copy is on its wire any longer; without an answer it stays UP; a Quiet port sends its beacon, is woken by its group, a waiting frame or its
partner's burst, and is UP again with its lanes locked once it has re-locked; a lost standby raises its LANE fault. -/
def Obligations.QuietState : Prop :=
  ∀ (s : State) (p : Nat) (v : Port), p < 512 → portOf s.chip p = some v → Answers s.chip (.platform (platformOf p)) →
    let offWire (t : Chip) : Prop := ∀ x ∈ t.pkt.tx, x.copy.port = p → x.copy.kind = 2
    (quietReady s.chip p v = true →
      (∃ t u, Becomes (.quietEntry p) s t ∧ portOf t p = some u ∧ u.st = .quiet ∧ .quiet p 0 ∈ t.out ∧ offWire t) ∧
      (∃ t u, Becomes (.quietReentry p) s t ∧ portOf t p = some u ∧ u.st = .quiet ∧ .quiet p 0 ∈ t.out ∧ offWire t) ∧
      (∃ t u, Becomes (.quietRequestReceived p) s t ∧ portOf t p = some u ∧ u.st = .quiet ∧ .quiet p 1 ∈ t.out ∧ offWire t) ∧
      Becomes (.quietAnswerTimeout p) s { s.chip with out := s.chip.out ++ [.quiet p 0] }) ∧
    (v.st = .quiet →
      Becomes (.quietBeacon p) s { s.chip with out := s.chip.out ++ [.quiet p 2] } ∧
      (v.standbyLost = false → Becomes (.standbyLost p) s (raise (.platform (platformOf p)) (0x20 + laneIndex p) clsLane 2
        (modPort p (fun v => { v with standbyLost := true }) s.chip))) ∧
      ((groupNeeds s.chip p || !queuesEmpty s.chip p) = true →
        ∃ t u, Becomes (.quietWake p) s t ∧ portOf t p = some u ∧ u.st = .waking ∧ t.out = s.chip.out ++ [.quiet p 3]) ∧
      (∃ t u, Becomes (.wakeBurstReceived p) s t ∧ portOf t p = some u ∧ u.st = .waking ∧ t.out = s.chip.out ++ [.quiet p 3])) ∧
    (v.st = .waking → ∃ t u, Becomes (.wakeRelock p) s t ∧ portOf t p = some u ∧ u.st = .up ∧
      ∀ l ∈ portLanes p v, (laneOf t l).lock = true)

/-- Priority flow control (R153, R154): a PFC frame that a port in UP receives is counted and pauses or releases exactly the enabled
priorities it names; a PAUSE frame is counted and pauses nothing; a pause whose time is over is gone, and one that runs stays; XOFF is
repeated as a PFC frame of its priority with its quanta. Management frames of a lane in UP go to its queue (R145), and a member in UP for
WTR restores a group's preference (R150). -/
def Obligations.FlowControl : Prop :=
  ∀ (s : State) (p : Nat) (v : Port), p < 512 → portOf s.chip p = some v → Answers s.chip (.platform (platformOf p)) →
    (v.st = .up → ∀ classes quanta, ∃ t u, Becomes (.pfcFrameReceived p classes quanta) s t ∧ portOf t p = some u ∧ u.st = .up ∧
      (liveW t (portWord p 0x1000 0x08)).toNat = min 0xFFFFFFFF ((liveW s.chip (portWord p 0x1000 0x08)).toNat + 1) ∧
      ∀ k, k < 8 → sfind u.paused k =
        if bit classes k && bit v.pfcEn k then
          (if nth 0 quanta k % 65536 = 0 then none else some (pauseEnd s.chip v (nth 0 quanta k % 65536)))
        else sfind v.paused k) ∧
    (v.st = .up → ∃ t, Becomes (.pauseFrameReceived p) s t ∧ t = { s.chip with live := t.live, pmc := t.pmc, free := t.free } ∧
      (liveW t (portWord p 0x1000 0x0C)).toNat = min 0xFFFFFFFF ((liveW s.chip (portWord p 0x1000 0x0C)).toNat + 1)) ∧
    (∀ k, k < 8 → remaining s.chip (sget 0 v.paused k) = 0 →
      Becomes (.pauseExpiry p k) s (modPort p (fun v => { v with paused := sdel v.paused k }) s.chip)) ∧
    (∀ k, k < 8 → remaining s.chip (sget 0 v.paused k) ≠ 0 →
      ∃ t, Becomes (.pauseExpiry p k) s t ∧ portOf t p = some v ∧ ∀ q, q ≠ p → portOf t q = portOf s.chip q) ∧
    (v.st = .up → ∀ k, k < 8 → bit v.pfcEn k = true →
      xoffPg s.chip (8 * p + bits (liveW s.chip (portWord p 0x1000 0x04)).toNat (3 * k) 3) = true →
      ∃ t, Becomes (.xoffRefresh p k) s t ∧ t.ports = s.chip.ports ∧
        let quanta := (liveW s.chip (portWord p 0x1000 0x00)).toNat / 2 ^ 16
        t.out = s.chip.out ++ [.pfc p k quanta (pfcFrame p k quanta)]) ∧
    (∀ n g bytes, n < 4 → mgmtOf s.chip n = some g → isFenced s.chip .mg = false → g.st = .up → bytes.length + 4 ≤ g.maxFrame →
      Becomes (.mgmtFrameReceived n bytes) s
        (deliver g.rxq { inPort := 0x8000 + n, reason := 0, ts := 0, bytes := bytes, waybill := [] } s.chip).2) ∧
    (∀ k g, k < 1024 → groupOf s.chip k = some g → g.revert = true → g.members.contains p = true → v.st = .up →
      g.wtr * 1000000 ≤ elapsed s.chip v.upSince →
      ∃ t, Becomes (.wtrExpiry k p) s t ∧ (∀ j, j ≠ k → groupOf t j = groupOf s.chip j) ∧ groupOf t k = some (if g.spread then
          { g with slots := fillSlots (g.members.filter (portUp s.chip)) } else { g with current := firstUp s.chip g.members }))

/-- `LANE_TUNE` (R128, R129, R134) on a lane of a configured port whose Platform answers: SET_TX applies the clamped setting and holds it,
with `GOVERNED` where the clamp changed it, which the governor of the Signalman that carries out the Order counts (R474), and is BUSY in AN
or TRAINING; FREEZE_RX and RELEASE set and clear the freeze; the reads
change nothing. -/
def Obligations.LaneTune : Prop :=
  ∀ (s : State) (ring l p : Nat) (v : Port), l < 512 → portOfLane s.chip l = some p → portOf s.chip p = some v →
    Answers s.chip (.platform (platformOf l)) →
    (∀ ops : LaneTuneTxOps, ops.lane = l → AtWork s ring (.laneTuneSetTx ring ops) →
      if v.tuneBusy = true then Ends (.laneTuneSetTx ring ops) s ring .busy 0 s.chip
      else
        let u := modLane l (fun x => { x with tx := clampTx ops.tx, txHeld := true }) s.chip
        if clampTx ops.tx = ops.tx then Ends (.laneTuneSetTx ring ops) s ring .ok (tuneResult 0 ops.tx) u
        else Ends (.laneTuneSetTx ring ops) s ring .governed (tuneResult 0 (clampTx ops.tx))
          (countClamp (executor u (4 + 3 * (l / 128))) u)) ∧
    (AtWork s ring (.laneTuneFreezeRx ring l) →
      ∃ t, Ends (.laneTuneFreezeRx ring l) s ring .ok 0 t ∧ laneFrozen t l = true ∧ t.ports = s.chip.ports) ∧
    (AtWork s ring (.laneTuneRelease ring l) → v.tuneBusy = false →
      ∃ t, Ends (.laneTuneRelease ring l) s ring .ok 0 t ∧ laneFrozen t l = false ∧ (laneOf t l).txHeld = false ∧
        ∀ k, k ≠ l → laneOf t k = laneOf s.chip k) ∧
    (AtWork s ring (.laneTuneReadTx ring l) → Ends (.laneTuneReadTx ring l) s ring .ok (tuneResult 0 (laneOf s.chip l).tx) s.chip) ∧
    (AtWork s ring (.laneTuneReadBest ring l) → Ends (.laneTuneReadBest ring l) s ring .ok
      (match (laneOf s.chip l).best with | none => 0 | some b => tuneResult b.2 b.1) s.chip)

/-- `PORT_SET` and `PORT_STATE` (R29, R139, R141, R144): with its checks passed and its domains on, MODE 0 removes the port, any other MODE
configures it with the Order's fields; a management lane takes its fields likewise; a check that fails ends the Order with its status and
nothing changed, but for the count of a fenced island's refused requests. `PORT_STATE` reports a port of a Platform that answers, or a
management lane, and changes nothing. `FAILOVER_SET` (R149, R150, R152): with its
checks passed the group takes its members and resolves against their present state, KIND 0 deletes it, and the result is the number of
member entries left; other groups are unchanged. A check that fails changes nothing. -/
def Obligations.PortOrders : Prop :=
  (∀ (s : State) (ring : Nat),
     (∀ o : PortSetOps, AtWork s ring (.portSet ring o) → portNeeds o s.chip = [] → o.mgmt = false →
       (portSetCheck o s.chip = none → ∃ t, Ends (.portSet ring o) s ring .ok 0 t ∧
         (o.mode = 0 → portOf t o.port = none) ∧
         (o.mode ≠ 0 → ∃ u, portOf t o.port = some u ∧ u.mode = o.mode ∧ u.an = o.an ∧ u.maxFrame = o.maxFrame ∧
           u.pfcEn = o.pfcEn.toNat ∧ u.advMask = o.advMask ∧ u.quietOk = o.quietOk)) ∧
       (∀ e, portSetCheck o s.chip = some e → e ≠ .fenced → Ends (.portSet ring o) s ring e 0 s.chip) ∧
       (portSetCheck o s.chip = some .fenced →
         Ends (.portSet ring o) s ring .fenced 0 (countFencedReq (.platform (platformOf o.port)) s.chip))) ∧
     (∀ o : PortSetOps, AtWork s ring (.portSet ring o) → o.mgmt = true → mgmtSetCheck o s.chip = none →
       (o.mode = 0 → Ends (.portSet ring o) s ring .ok 0 (setMgmt o.port none s.chip)) ∧
       (o.mode ≠ 0 → ∃ downs, Ends (.portSet ring o) s ring .ok 0 (setMgmt o.port (some
         { mode := o.mode, an := o.an, adminDown := o.adminDown, maxFrame := o.maxFrame, rxq := o.mgRxq, txq := o.mgTxq
           st := if o.adminDown then .adminDown else .up, los := o.adminDown, lock := !o.adminDown, downCount := downs }) s.chip))) ∧
     (∀ (o : PortStateOps) (g : Mgmt), AtWork s ring (.portState ring o) → o.mgmt = true → o.port < 4 → mgmtOf s.chip o.port = some g →
       isFenced s.chip .mg = false → Ends (.portState ring o) s ring .ok (mgmtResult g) s.chip) ∧
     (∀ (o : PortStateOps) (v : Port), AtWork s ring (.portState ring o) → o.mgmt = false → o.port < 512 →
       portOf s.chip o.port = some v → Answers s.chip (.platform (platformOf o.port)) →
       Ends (.portState ring o) s ring .ok (portResult s.chip o.port v) s.chip)) ∧
  (∀ (s : State) (ring : Nat) (o : FailoverSetOps), AtWork s ring (.failoverSet ring o) →
     (failoverCheck o s.chip = none → ∃ t, Ends (.failoverSet ring o) s ring .ok (BitVec.ofNat 64 (16384 - memberEntries t)) t ∧
       (∀ g, g ≠ o.group → groupOf t g = groupOf s.chip g) ∧
       (o.kind = 0 → groupOf t o.group = none) ∧
       (o.kind = 1 → ∃ g, groupOf t o.group = some g ∧ g.spread = false ∧ g.members = o.members ∧
         g.current = firstUp s.chip o.members)) ∧
     (∀ e, failoverCheck o s.chip = some e → Ends (.failoverSet ring o) s ring e 0 s.chip))

/-! The packet path (files 06, 09, 10, 11) -/

/-- Reception (R140, R393, R453): on a port in UP whose Platform answers, outside a hold and without link security, a frame that is no
MAC control frame enters the ingress Line that serves the Platform, whole, with BAD 1 where its FCS was bad; one longer than the port
allows is counted, cut to the port's length, and has BAD 1. Queues and cells are unchanged. -/
def Obligations.FrameReception : Prop :=
  ∀ (s : State) (f : FrameIn) (v : Port) (n : Nat), f.port < 512 → portOf s.chip f.port = some v → v.st = .up →
    Answers s.chip (.platform (platformOf f.port)) → s.chip.power.tileLost.contains (platformOf f.port / 4) = false →
    chipHold s.chip = false → platformHeld s.chip (platformOf f.port) = false → servingLine s.chip (platformOf f.port) = some n →
    etherType f.bytes ≠ 0x8808 → (secyOf s.chip f.port).enable = false → f.parity = none →
    ∃ u x, Becomes (.frameReceive f) s (settle u) ∧ u.pkt.rx = s.chip.pkt.rx ++ [x] ∧ x.line = n ∧ x.m.inPort = f.port ∧
      x.wb.inTs = x.m.inTs ∧ x.siding = false ∧ u.pkt.queues = s.chip.pkt.queues ∧ u.pkt.shares = s.chip.pkt.shares ∧
      (if v.maxFrame < f.bytes.length + 4 then x.bytes = f.bytes.take (v.maxFrame - 4) ∧ x.bad = 1 ∧
        (liveW u (portWord f.port 0x1000 0x34)).toNat = min 0xFFFFFFFF ((liveW s.chip (portWord f.port 0x1000 0x34)).toNat + 1)
      else x.bytes = f.bytes ∧ x.bad = if f.fcsOk then 0 else 1)

/-- The ingress Line (R83, R157, R183, R215): the next frame of a Line that answers (`nextRx`) leaves the Line. Without a committed program
it is dropped with reason 0x0001, whatever the Junction does; with one, while both Junction halves are fenced, it is dropped and counted by
the half it was for. Else, where no memory error is met, a frame from a port or the host runs the current view, and goes to the Junction
with the bytes its deparser made exactly where R183 sends it on; a drop or a trap sends no primary copy. -/
def Obligations.IngressPass : Prop :=
  ∀ (s : State) (line half : Nat) (f : RxFrame), line < 36 → half < 2 → Answers s.chip (.iline line) → nextRx s.chip line = some f →
    let v := takeSlot line f s.chip
    ((lineOf s.chip false line).live = false → ∀ d,
      Becomes (.ingressLinePass line half d) s (settle (dropRx (.iline line) 0x0001 f (takeRx f v)))) ∧
    ((lineOf s.chip false line).live = true → isFenced s.chip (.jn 0) = true → isFenced s.chip (.jn 1) = true → ∀ d,
      ∃ u, Becomes (.ingressLinePass line half d) s (settle u) ∧ u.pkt.jn = s.chip.pkt.jn ∧
        u.pkt.rx = s.chip.pkt.rx.filter (fun x => ¬ x.fid = f.fid)) ∧
    (∀ h, (lineOf s.chip false line).live = true → f.siding = false → usableHalf s.chip half = some h →
      let r := linePass false line h false f.bytes (carry (stampRx f v).m) {} v
      ∃ u, Becomes (.ingressLinePass line half {}) s (settle u) ∧
        u.pkt.rx = s.chip.pkt.rx.filter (fun x => ¬ x.fid = f.fid) ∧
        match fateOf s.chip r.1.m r.1.ask with
        | .sent m => ∃ j, u.pkt.jn = s.chip.pkt.jn ++ [j] ∧ j.m = m ∧ j.bytes = r.1.out ∧ j.half = h ∧ j.line = line ∧
            j.primary = true
        | _ => ∀ j ∈ u.pkt.jn, j ∈ s.chip.pkt.jn ∨ j.primary = false)

/-- The Junction and the Yards (R272 to R275, R279, R303, R306): the next frame of a half, where it is for one port, becomes one copy at the end of
its queue where the Yard admits it, its cells each with one reference and taken from the free list; a refused one leaves queues and cells as they
were. The last cell of a frame makes its header whole in every Yard, and a discarded copy that is written ends its walk. -/
def Obligations.CopiesAndCells : Prop :=
  (∀ (s : State) (half : Nat) (f : JnFrame), half < 2 → Answers s.chip (.jn half) →
    nextJn s.chip.pkt.jn half = some f → f.direct = none → f.primary = true → f.m.dispKind = 1 →
    f.m.dispTarget < 512 → f.m.tc < 16 → f.mirrors = [] → (f.first = true → sget [] s.chip.pkt.inSrc f.m.inPort = []) →
    let q := queueId f.m.dispTarget f.m.tc
    let y := queueYard s.chip q
    let need := max f.cells (cellsOf f.bytes.length)
    ∃ u, Becomes (.copyFormation half none) s (settle u) ∧ (∀ j ∈ u.pkt.jn, j.fid ≠ f.fid) ∧
      match admission s.chip y f.req need (depthOf s.chip q) (qlimitOf s.chip y q) with
      | .inl _ => u.pkt.queues = s.chip.pkt.queues ∧ u.pkt.shares = s.chip.pkt.shares ∧ (yardOf u y).free = (yardOf s.chip y).free
      | .inr _ => ∃ c h, queueOf u q = queueOf s.chip q ++ [c] ∧ (∀ k, k ≠ q → queueOf u k = queueOf s.chip k) ∧
          c.fid = f.fid ∧ c.bytes = f.bytes ∧ c.port = f.m.dispTarget ∧ c.yard = y ∧ u.pkt.shares = s.chip.pkt.shares ++ [h] ∧
          h.fid = f.fid ∧ h.cells.length = cellsOf f.bytes.length ∧ (∀ x ∈ h.cells, x.refcnt = 1) ∧ h.written = false ∧
          (yardOf u y).free = (yardOf s.chip y).free - need) ∧
  (∀ (s : State) (fid : Nat), dead s.chip = false → ∃ u, Becomes (.lastCellWritten fid) s (settle u) ∧
    (∀ q, (queueOf u q).map (·.cid) = (queueOf s.chip q).map (·.cid)) ∧ ∀ h ∈ u.pkt.shares, h.fid = fid → h.written = true) ∧
  (∀ (s : State) (cid : Nat) (d : Discard), dead s.chip = false →
    s.chip.pkt.discards.find? (fun x => x.copy.cid = cid) = some d → copyWritten s.chip d.copy = true →
    ∃ u, Becomes (.copyDiscardWalk cid) s (settle u) ∧ u.pkt.queues = s.chip.pkt.queues ∧ ∀ x ∈ u.pkt.discards, x.copy.cid ≠ cid)

/-- Transmission (R138, R157, R298, R314, R394): at a transmit opportunity a port takes the first copy of the queue its scheduler chose out of
that queue; a copy that passes its egress Line, without link security and no request to fill, is on its way with the bytes the deparser
made. A transmission that ends has sent its frame, whole or with a bad FCS where it was stomped, and leaves the port. -/
def Obligations.Transmission : Prop :=
  (∀ (s : State) (p n half h q : Nat) (v : Port) (c : Copy), p < 512 → portOf s.chip p = some v → v.st = .up →
    servingLine s.chip (platformOf p) = some n → Answers s.chip (.eline n) → hasWindow s.chip p = true →
    usableHalf s.chip (half % 2) = some h →
    let sc := schedule p (prepareQueues ((span 0 20).map (queueId p)) s.chip)
    let w := modPkt (fun k => { k with sidingSlots := smod 0 k.sidingSlots n (· - 1) }) sc.2
    sc.1 = some q → headReady sc.2 q = some c → c.queue = q →
    ∃ u, Becomes (.transmitOpportunity (.port p) { half := half }) s (settle u) ∧ (∀ x ∈ queueOf u q, x.cid ≠ c.cid) ∧
      (dequeueStop n c w = none → egressView n c w = .cur → (secyOf s.chip p).enable = false →
        let m := { c.m with epoch := countEpoch w c.direct c.m.epoch, eflags := setFlags c.m.eflags (b2n c.spilled) }
        let r := linePass true n h false (readBytes c) m {} w
        r.1.m.dispKind ≠ 5 → r.1.m.dispKind ≠ 6 → r.1.out.length + 4 ≤ v.maxFrame → r.1.ask.reqs = [] →
        ∃ t, u.pkt.tx = s.chip.pkt.tx ++ [t] ∧ t.copy.cid = c.cid ∧ t.line = n ∧ t.out = r.1.out ∧ t.wire = r.1.out ∧
          t.stomp = false)) ∧
  (∀ (s : State) (p : Nat) (t : TxCopy), p < 512 → dead s.chip = false →
    s.chip.pkt.tx.find? (fun t => t.copy.port = p && t.copy.kind ≠ 2) = some t →
    copyWritten s.chip t.copy = true ∨ t.cutAt.isSome = true →
    ∃ u, Becomes (.transmitComplete p) s (settle u) ∧ (∀ x ∈ u.pkt.tx, x.copy.cid ≠ t.copy.cid) ∧
      u.pkt.queues = s.chip.pkt.queues ∧
      (if t.stomp = true ∨ copyBad s.chip t.copy ≠ 0 then .frame p (stompBytes t) true ∈ u.out else .frame p t.wire false ∈ u.out))

/-- The other ways of a copy. The mirror engine writes its next whole copy into the Yard of its port (R309): it is staged no longer. A frame
of a Siding re-enters the ingress Line of its pair (R223, R226). A host copy whose queue has a buffer is written to it and its
completion to the completion ring (R123); no other byte of memory changes; with the queue disabled it is counted dropped. -/
def Obligations.SideCopies : Prop :=
  (∀ (s : State) (half : Nat) (g : Staged), half < 2 → Answers s.chip (.jn half) → (portOf s.chip g.port).isSome = true →
    s.chip.pkt.staged.find? (fun g => g.half = half && g.complete) = some g →
    ∃ u, Becomes (.egressMirrorWrite half none) s (settle u) ∧ (∀ x ∈ u.pkt.staged, x.sid ≠ g.sid) ∧
      match admission s.chip (queueYard s.chip g.queue) 4097 (cellsOf g.bytes.length) (depthOf s.chip g.queue)
        (qlimitOf s.chip (queueYard s.chip g.queue) g.queue) with
      | .inl _ => u.pkt.queues = s.chip.pkt.queues
      | .inr _ => ∃ c, queueOf u g.queue = queueOf s.chip g.queue ++ [c] ∧ c.bytes = g.bytes ∧ c.kind = 1 ∧ c.port = g.port) ∧
  (∀ (s : State) (n : Nat) (f : RxFrame), n < 36 → Answers s.chip (.iline n) →
    s.chip.pkt.sidings.find? (fun f => f.line = n) = some f →
    Becomes (.sidingReentry n) s (settle { s.chip with pkt := { s.chip.pkt with
      sidings := s.chip.pkt.sidings.filter (fun x => ¬ x.fid = f.fid), rx := s.chip.pkt.rx ++ [f] } })) ∧
  (∀ (s : State) (q reason : Nat) (f : JnFrame) (rest : List JnFrame), q < 16 → dead s.chip = false →
    s.chip.pkt.hostCopies = f :: rest → f.hostCopy = some (q, reason) →
    let v := dmaOf s.chip q
    (v.enable = false → ∃ u, Becomes (.toHostDelivery q) s (settle u) ∧ u.hostMem = s.chip.hostMem ∧
      sget 0 u.host.dmaDrop q = min 0xFFFFFFFF (sget 0 s.chip.host.dmaDrop q + 1)) ∧
    (∀ slot d ds, hostUp s.chip = true → v.enable = true → v.stopped = false → v.waybill = false → v.descs = (slot, some d) :: ds →
      v.freeSlots ≠ 0 → leAt d 0 8 % 64 = 0 → leAt d 8 4 % 64 = 0 → 256 ≤ leAt d 8 4 → leAt d 8 4 ≤ 65536 →
      let addr := leAt d 0 8
      let data := f.bytes.take (leAt d 8 4)
      let cpl := pageAddr v.cplHi v.cplLo + 32 * v.cplTail
      ∃ u, Becomes (.toHostDelivery q) s (settle u) ∧ (dmaOf u q).descs = ds ∧ (dmaOf u q).cplTail = (v.cplTail + 1) % v.size ∧
        (∀ a, a < cpl ∨ cpl + 32 ≤ a → hostByte u a =
          if addr ≤ a ∧ a < addr + data.length then data[a - addr]? else hostByte s.chip a)))

/-! Mirrors, queues, programs, epochs (files 08, 10, 11) -/

/-- `MIRROR_SET` (R312): with its checks passed SET gives the session its values; DELETE removes it and detaches it everywhere; ATTACH
adds it to the sources of one port in one direction, at most two there; DETACH takes it away. No other session or source changes. -/
def Obligations.MirrorOrders : Prop :=
  ∀ (s : State) (ring : Nat),
    (∀ o : MirrorSetOps, AtWork s ring (.mirrorSetSet ring o) → o.session ≤ 63 → o.tc ≤ 15 → o.trunc = 0 ∨ 64 ≤ o.trunc →
      o.trunc ≤ 10240 → (portOf s.chip o.dest).isSome = true →
      ∃ t, Ends (.mirrorSetSet ring o) s ring .ok 0 t ∧ sessionOf t o.session = some ⟨o.dest, o.tc, o.trunc⟩ ∧
        ∀ k, k ≠ o.session → sessionOf t k = sessionOf s.chip k) ∧
    (∀ k, AtWork s ring (.mirrorSetDelete ring k) → k ≤ 63 → (sessionOf s.chip k).isSome = true →
      ∃ t, Ends (.mirrorSetDelete ring k) s ring .ok 0 t ∧ sessionOf t k = none ∧
        (∀ j, j ≠ k → sessionOf t j = sessionOf s.chip j) ∧ ∀ eg p, (sourcesOf t eg p).contains k = false) ∧
    (∀ o : MirrorAttachOps, AtWork s ring (.mirrorSetAttach ring o) → o.session ≤ 63 → (portOf s.chip o.port).isSome = true →
      (sessionOf s.chip o.session).isSome = true →
      let l := sourcesOf s.chip o.egress o.port
      if l.contains o.session = true then Ends (.mirrorSetAttach ring o) s ring .existsAlready 0 s.chip
      else if 2 ≤ l.length then Ends (.mirrorSetAttach ring o) s ring .noRoom 0 s.chip
      else ∃ t, Ends (.mirrorSetAttach ring o) s ring .ok 0 t ∧ sourcesOf t o.egress o.port = nadd l o.session ∧
        (∀ eg p, eg ≠ o.egress ∨ p ≠ o.port → sourcesOf t eg p = sourcesOf s.chip eg p)) ∧
    (∀ o : MirrorAttachOps, AtWork s ring (.mirrorSetDetach ring o) → o.session ≤ 63 → (portOf s.chip o.port).isSome = true →
      (sessionOf s.chip o.session).isSome = true →
      let l := sourcesOf s.chip o.egress o.port
      if l.contains o.session = true then
        ∃ t, Ends (.mirrorSetDetach ring o) s ring .ok 0 t ∧ sourcesOf t o.egress o.port = ndel l o.session ∧
          (∀ eg p, eg ≠ o.egress ∨ p ≠ o.port → sourcesOf t eg p = sourcesOf s.chip eg p)
      else Ends (.mirrorSetDetach ring o) s ring .notFound 0 s.chip)

/-- `QUEUE_SET` (R292, R301, R302, R304, R320), with its checks passed and its domains on: a port's policy and its priority words take
the record's values; a queue's scheduling words take the Order's values at the Line that serves it; a multicast group takes its mask,
and is read back with the number of its members. -/
def Obligations.QueueOrders : Prop :=
  ∀ (s : State) (ring : Nat),
    (∀ (o : QueuePortOps) (v : Port), AtWork s ring (.queueSetPort ring o) → queueNeeds o.port s.chip = [] →
      portOf s.chip o.port = some v → o.len = 128 → recordBad o.record = false → queueFence s.chip (platformOf o.port) = none →
      hasStaged s.chip (.platform (platformOf o.port)) = false →
      ∃ t, Ends (.queueSetPort ring o) s ring .ok 0 (settle t) ∧ liveW t (portWord o.port 0x1000 4) = recordPrio o.record ∧
        (∀ w, w < 7 → liveW t (portWord o.port 0x1000 (0x10 + 4 * w)) = recordDscp o.record w) ∧
        ∃ u, portOf t o.port = some u ∧ u.policy.peerNs = leAt o.record 4 2 ∧ u.policy.propNs = leAt o.record 6 2 ∧ u.st = v.st) ∧
    (∀ (o : QueueQueueOps) (n : Nat), AtWork s ring (.queueSetQueue ring o) → queueQueueNeeds o.queue s.chip = [] →
      queueCheck o s.chip = none → queueIslFence s.chip o.queue = none → queueLine s.chip o.queue = some n → n < 36 →
      ∃ t, Ends (.queueSetQueue ring o) s ring .ok 0 (settle t) ∧
        liveW t (schedWordAt n o.queue 4) = packW [(10, 22, o.minRate), (0, 10, o.minBurst)] ∧
        liveW t (schedWordAt n o.queue 8) = packW [(10, 22, o.maxRate), (0, 10, o.maxBurst)] ∧
        liveW t (schedWordAt n o.queue 0) =
          packW [(24, 4, if o.pfcPri = 0xFF then 0xF else o.pfcPri), (8, 8, o.weight), (0, 3, o.level)] ∧
        t.pkt.queues = s.chip.pkt.queues) ∧
    (∀ o : QueueMcOps, AtWork s ring (.queueSetMcSet ring o) → o.payload.len = 64 →
      (∀ p ∈ maskPorts (leNat (o.payload.data.take 64)), (portOf s.chip p).isSome = true) →
      ∃ t, Ends (.queueSetMcSet ring o) s ring .ok 0 t ∧ mcMask t o.group = leNat (o.payload.data.take 64) ∧
        ∀ g, g ≠ o.group → mcMask t g = mcMask s.chip g) ∧
    (∀ o : QueueMcOps, AtWork s ring (.queueSetMcRead ring o) → o.payload.len = 64 →
      ∃ t, Ends (.queueSetMcRead ring o) s ring .ok (packD [(0, 16, (maskPorts (mcMask s.chip o.group)).length)]) t ∧
        ∀ a, hostByte t a = if o.payload.addr ≤ a ∧ a < o.payload.addr + 64 then
          (leBytes 64 (mcMask s.chip o.group))[a - o.payload.addr]? else hostByte s.chip a)

/-- `PROGRAM_LOAD`, `PARSER_LOAD` (R190, R206, R235) and `EPOCH_STATUS` (R231), their domains on: an image that passes its checks and finds
room stands whole in the staged bank of every named Line, and the result is its CRC; one that fails a check ends with `BAD_OPERAND`,
the check's code and offset, and nothing changed. `EPOCH_STATUS` reports and changes nothing. -/
def Obligations.ProgramOrders : Prop :=
  ∀ (s : State) (ring : Nat),
    (∀ o : LoadOps, AtWork s ring (.programLoad ring o) → lineNeeds o.lines s.chip = [] →
      (∀ e, checkImage o.image.data o.image.len = some e → Ends (.programLoad ring o) s ring .badOperand (imageResult e) s.chip) ∧
      (checkImage o.image.data o.image.len = none → o.lines ≠ 0 →
        let p := progOf o.image.data
        (∀ n ∈ linesOf o.lines, isFenced s.chip (lineIsl p.egress n) = false ∧ commitWaits s.chip n = false ∧
          (stageProg p.egress p (lineOf s.chip p.egress n)).isSome = true) →
        ∃ t, Ends (.programLoad ring o) s ring .ok (BitVec.ofNat 64 p.crc.toNat) t ∧
          (∀ n ∈ linesOf o.lines, stageProg p.egress p (lineOf s.chip p.egress n) = some (lineOf t p.egress n)) ∧
          ∀ eg n, eg ≠ p.egress ∨ n ∉ linesOf o.lines → lineOf t eg n = lineOf s.chip eg n)) ∧
    (∀ o : LoadOps, AtWork s ring (.parserLoad ring o) → lineNeeds o.lines s.chip = [] →
      (∀ e, checkGraph o.image.data o.image.len = some e →
        Ends (.parserLoad ring o) s ring .badOperand (packD [(24, 8, e.1), (0, 16, e.2)]) s.chip) ∧
      (checkGraph o.image.data o.image.len = none → o.lines ≠ 0 →
        let g := graphOf o.image.data
        (∀ n ∈ linesOf o.lines, isFenced s.chip (lineIsl g.egress n) = false ∧ commitWaits s.chip n = false) →
        ∃ t, Ends (.parserLoad ring o) s ring .ok (BitVec.ofNat 64 g.crc.toNat) t ∧
          (∀ n ∈ linesOf o.lines, lineOf t g.egress n = { lineOf s.chip g.egress n with stgGraph := some g }) ∧
          ∀ eg n, eg ≠ g.egress ∨ n ∉ linesOf o.lines → lineOf t eg n = lineOf s.chip eg n)) ∧
    (AtWork s ring (.epochStatusSummary ring) →
      ∃ res, Ends (.epochStatusSummary ring) s ring .ok res s.chip ∧ bits res.toNat 48 16 = s.chip.pkt.epoch.cur % 2 ^ 16 ∧
        bit res.toNat 25 = s.chip.pkt.epoch.draining ∧ bits res.toNat 0 24 = min 0xFFFFFF (drainingHeld s.chip)) ∧
    (∀ o : EpochBankOps, AtWork s ring (.epochStatusBank ring o) → offDomains s.chip [lineIsl o.egress o.line] = [] → o.line ≤ 35 →
      isFenced s.chip (lineIsl o.egress o.line) = false → o.bank = 2 →
      let l := lineOf s.chip o.egress o.line
      Ends (.epochStatusBank ring o) s ring .ok (packD
        [(32, 32, match l.stgProg with | none => 0xFFFFFFFF | some b => b.prog.progId.toNat),
         (0, 32, match l.stgGraph with | none => 0xFFFFFFFF | some g => g.graphId.toNat)]) s.chip)

/-- `EPOCH_COMMIT` (R209, R215, R217, R219, R229, R230, R242): a commit that R219 allows makes a new epoch current, the one before it draining;
each Line of the scope is live with what was staged as its current view and nothing staged, and the other Lines keep theirs. One that R219
does not allow waits: it commits once it may, or ends with `TIMEOUT` and nothing committed once its TIMEOUT_MS are over. The draining epoch is
retired once it holds no frame, or once its age limit has passed, and every Line forgets its view. -/
def Obligations.EpochCommit : Prop :=
  ∀ s : State,
    let e := s.chip.pkt.epoch
    let Committed (lines : Nat) (t : Chip) : Prop :=
      t.pkt.epoch.live = true ∧ t.pkt.epoch.cur = (if e.live then (e.cur + 1) % 65536 else 0) ∧ t.pkt.epoch.draining = e.live ∧
      t.pkt.epoch.waiting = none ∧
      (∀ n ∈ linesOf lines, ∀ eg, (lineOf t eg n).live = true ∧ (lineOf t eg n).stgProg = none ∧ (lineOf t eg n).stgGraph = none ∧
        (lineOf t eg n).curProg = (match (lineOf s.chip eg n).stgProg with | none => (lineOf s.chip eg n).curProg | some b => some b)) ∧
      (∀ n eg, n ∉ linesOf lines → (lineOf t eg n).curProg = (lineOf s.chip eg n).curProg ∧
        (lineOf t eg n).curGraph = (lineOf s.chip eg n).curGraph)
    (∀ (ring : Nat) (o : EpochCommitOps), AtWork s ring (.epochCommit ring o) → lineNeeds o.lines s.chip = [] →
      commitCheck o s.chip = none →
      (commitAllowed s.chip = true → ∃ st res t, Ends (.epochCommit ring o) s ring st res t ∧ (st = .ok ∨ st = .governed) ∧
        Committed o.lines t) ∧
      (commitAllowed s.chip = false → ∃ t run, Becomes (.epochCommit ring o) s t ∧
        t.pkt.epoch = { e with waiting := some (ring, o.lines, o.ageMs, o.timeoutMs, runNs s.chip) } ∧
        (ringOf t ring).running = some run ∧ run.outcome = none ∧ run.begun = true)) ∧
    (∀ ring lines ageMs tmo start, dead s.chip = false → e.waiting = some (ring, lines, ageMs, tmo, start) →
      (commitAllowed s.chip = true → ∃ st res t, Ends .epochCommitProceed s ring st res t ∧ (st = .ok ∨ st = .governed) ∧
        Committed lines t) ∧
      (commitAllowed s.chip = false → tmo * 1000000 ≤ elapsed s.chip start → ∃ res, Ends .epochCommitTimeout s ring .timeout res
        { s.chip with pkt := { s.chip.pkt with epoch := { e with waiting := none } } })) ∧
    (dead s.chip = false → e.draining = true →
      let Retired (t : Chip) : Prop := t.pkt.epoch.draining = false ∧ t.pkt.epoch.cur = e.cur ∧
        ∀ eg n, (lineOf t eg n).drnProg = none ∧ (lineOf t eg n).drnGraph = none
      (drainingHeld s.chip = 0 → ∃ t, Becomes .epochDrained s t ∧ Retired t) ∧
      (e.ageMs * 1000000 ≤ elapsed s.chip e.phase2 → ∃ t, Becomes .epochAgeLimit s t ∧ Retired t))

/-- Table Orders of one record on one Line (R264 to R268): with the checks before its records passed, a record of ADD, DEL or REPLACE that
its table refuses ends the Order with that status, nothing applied and nothing changed; any other is applied to the table that the
Order addresses, and the result counts it. A DEL of a DIRECT index leaves the reset entry there, a REPLACE with an action the record's. READ and
DUMP change nothing but their payload. That is so where the engines meet no bad word; with any bad words each of these Orders still ends. -/
def Obligations.TableOrders : Prop :=
  ∀ (s : State) (ring n : Nat) (o : TableOps) (t : Inst), lineNeeds o.lines s.chip = [] → linesOf o.lines = [n] → o.count = 1 →
    o.payload.len = 176 → listCheck o s.chip = none →
    let r := recAt o.payload.data 0
    r.common = true →
    let Applied (c : Instr) (moves : Bool) (x : Inst × Nat) : Prop :=
      ∃ u, Ends c s ring .ok (packD [(16, 16, if moves then min 0xFFFF x.2 else 0), (0, 16, 1)]) u ∧
        instOf u o.egress n t.iid = some x.1 ∧ (∀ eg m, eg ≠ o.egress ∨ m ≠ n → lineOf u eg m = lineOf s.chip eg m)
    (orderInst (lineOf s.chip o.egress n) o.epoch r.id = some t →
      (AtWork s ring (.tableAdd ring o []) → match addRec o.epoch o.deep t r with
        | .inl e => Ends (.tableAdd ring o []) s ring e 0 s.chip
        | .inr x => Applied (.tableAdd ring o []) true x) ∧
      (AtWork s ring (.tableDel ring o []) → match delRec o.epoch o.absentOk t r with
        | .inl e => Ends (.tableDel ring o []) s ring e 0 s.chip
        | .inr x => Applied (.tableDel ring o []) false x ∧ (t.decl.tkind = 4 → sfind x.1.direct r.index = none)) ∧
      (AtWork s ring (.tableModReplace ring o []) → match replaceRec o.epoch t r with
        | .inl e => Ends (.tableModReplace ring o []) s ring e 0 s.chip
        | .inr x => Applied (.tableModReplace ring o []) false x ∧
            (t.decl.tkind = 4 → r.action ≠ 0 → directAt x.1 r.index = (r.action, r.ad.take t.decl.adWords)))) ∧
    (o.epoch = false → orderInst (lineOf s.chip o.egress n) false r.id = some t →
      (AtWork s ring (.tableModRead ring o []) → match readRec t r with
        | .inl e => Ends (.tableModRead ring o []) s ring e 0 s.chip
        | .inr bs => Ends (.tableModRead ring o []) s ring .ok 1 (hostWrite o.payload.addr bs s.chip)) ∧
      (AtWork s ring (.tableModDump ring o []) → recOk t.decl { r with index := 0 } = true →
        ∃ res bs, Ends (.tableModDump ring o []) s ring .ok res (hostWrite o.payload.addr bs s.chip) ∧ bits res.toNat 0 16 ≤ 1 ∧
          bs.length ≤ 176)) ∧
    (∀ met, (AtWork s ring (.tableAdd ring o []) → ∃ st res u, Ends (.tableAdd ring o met) s ring st res u) ∧
      (AtWork s ring (.tableDel ring o []) → ∃ st res u, Ends (.tableDel ring o met) s ring st res u) ∧
      (AtWork s ring (.tableModReplace ring o []) → ∃ st res u, Ends (.tableModReplace ring o met) s ring st res u) ∧
      (AtWork s ring (.tableModRead ring o []) → ∃ st res u, Ends (.tableModRead ring o met) s ring st res u) ∧
      (AtWork s ring (.tableModDump ring o []) → ∃ st res u, Ends (.tableModDump ring o met) s ring st res u))

/-- Ledger, rehash and raw access (R173, R268 to R270) on a Line whose domain is on and that is not fenced: LEDGER_WRITE sets the entry's
value and LEDGER_READ reports it; REORDER leaves the table no longer RAW; PENDING empties the pending list; TCAM_RAW reads slices into the
payload, and a write makes the table RAW. -/
def Obligations.LedgerAndRaw : Prop :=
  (∀ (s : State) (ring n : Nat) (o : TableOps) (g : LedgerInst), lineNeeds o.lines s.chip = [] → linesOf o.lines = [n] → o.count = 1 →
    o.epoch = false → listCheck o s.chip = none →
    let r := recAt o.payload.data 0
    orderLedger (lineOf s.chip o.egress n) r.id = some g → ledgerCommon r = true → ledgerRec g r = none →
    (AtWork s ring (.tableModLedgerWrite ring o) → ∃ t g', Ends (.tableModLedgerWrite ring o) s ring .ok 1 t ∧
      orderLedger (lineOf t o.egress n) r.id = some g' ∧
      sget 0 g'.vals r.index = nth 0 r.ad 0 + (if g.decl.wide then nth 0 r.ad 1 * 2 ^ 32 else 0)) ∧
    (AtWork s ring (.tableModLedgerRead ring o) → Ends (.tableModLedgerRead ring o) s ring .ok 1
      (hostWrite o.payload.addr
        (overlay (o.payload.data.take 176) 0x10 (leBytes 8 (sget 0 g.vals r.index) ++ repl 24 0#8)) s.chip))) ∧
  (∀ (s : State) (ring : Nat) (o : RehashOps) (t : Inst), lineNeed o.egress o.line s.chip = [] → rehashInst o s.chip = .inr t →
    (AtWork s ring (.tableRehashReorder ring o) → t.decl.tkind = 2 ∨ t.decl.tkind = 3 →
      ∃ res u t', Ends (.tableRehashReorder ring o) s ring .ok res u ∧ instOf u o.egress o.line t.iid = some t' ∧ t'.raw = false) ∧
    (AtWork s ring (.tableRehashPending ring o []) → o.egress = false → t.decl.tkind = 1 → bit t.decl.tflags 2 = true →
      ∃ res u t', Ends (.tableRehashPending ring o []) s ring .ok res u ∧ instOf u false o.line t.iid = some t' ∧ t'.pendingList = [])) ∧
  (∀ (s : State) (ring pos : Nat) (o : TcamRawOps) (t : Inst), lineNeed o.egress o.line s.chip = [] →
    rawCheck o s.chip = .inr (t, pos) →
    (AtWork s ring (.tcamRawRead ring o) → ∃ u, Ends (.tcamRawRead ring o) s ring .ok (BitVec.ofNat 64 t.decl.id) u ∧
      u.pkt = s.chip.pkt ∧ ∀ a, a < o.payload.addr ∨ o.payload.addr + (16 * o.w + 8) ≤ a → hostByte u a = hostByte s.chip a) ∧
    (AtWork s ring (.tcamRawWrite ring o) → bits (leAt o.payload.data (16 * o.w) 8) 32 8 = 0 →
      ∃ u t', Ends (.tcamRawWrite ring o) s ring .ok (BitVec.ofNat 64 t.decl.id) u ∧
        instOf u o.egress o.line t.iid = some t' ∧ t'.raw = true))

/-- Learning, aging and scrubbing (R251, R252, R256, R258, R259, R261): the update engine takes the next submission of a Line, inserting an
absent key as a learned entry and counting it, or leaving the entries as they were where it finds no room; a tracker is gone once
LN_FLAP_WINDOW has passed since it started, and stays before; a sweep clears a set H bit, marks an entry not hit, and removes one already
marked, counting it, but never one that a lookup hits in the sweep's clock, which ends with H set; the scrubber's find raises its fault, at S1
where the repeat reads well, at S2 for a slice of no table that stays bad. -/
def Obligations.Learning : Prop :=
  (∀ (s : State) (n : Nat) (q : LearnSub) (rest : List LearnSub) (t : Inst), n < 36 → dead s.chip = false →
    (lineOf s.chip false n).learnQ = q :: rest → instOf s.chip false n q.iid = some t → exactFind t q.key true = none →
    ∃ u, Becomes (.learnApply n []) s u ∧ (lineOf u false n).learnQ = rest ∧
      match insertEntry t false { key := q.key, action := t.decl.learnAction, ad := q.value :: repl (t.decl.adWords - 1) 0
                                  learned := true, hbit := true } with
      | some x => instOf u false n q.iid = some x.1 ∧
          (liveW u (caddr (.iline n) 0x0800)).toNat = min 0xFFFFFFFF ((liveW s.chip (caddr (.iline n) 0x0800)).toNat + 1)
      | none => ∃ t', instOf u false n q.iid = some t' ∧ t'.ents = t.ents) ∧
  (∀ (s : State) (n k : Nat) (x : Tracker), n < 36 → dead s.chip = false → (lineOf s.chip false n).trackers[k]? = some x →
    (trackerOver s.chip n x = true →
      ∃ u, Becomes (.flapTrackerExpiry n k) s u ∧ (∀ eg m, eg = true ∨ m ≠ n → lineOf u eg m = lineOf s.chip eg m) ∧
        lineOf u false n = { lineOf s.chip false n with
          trackers := (lineOf s.chip false n).trackers.take k ++ (lineOf s.chip false n).trackers.drop (k + 1) }) ∧
    (trackerOver s.chip n x = false → Becomes (.flapTrackerExpiry n k) s s.chip)) ∧
  (∀ (s : State) (n iid loc : Nat) (eg hit : Bool) (t : Inst) (e : Entry), n < 36 → dead s.chip = false →
    instOf s.chip eg n iid = some t → t.decl.tkind = 1 → bit t.decl.tflags 0 = true → loc < roomOf t.decl →
    sfind t.ents loc = some e → e.vis = 0 → e.static = false →
    ∃ u t', Becomes (.sweeperVisit n eg iid loc hit none) s u ∧ instOf u eg n iid = some t' ∧ sfind t'.ents loc =
      (if e.hbit then some { e with hbit := hit, abit := false } else if hit then some { e with hbit := true, abit := true }
       else if e.abit then none else some { e with abit := true }) ∧
      (∀ l, l ≠ loc → sfind t'.ents l = sfind t.ents l) ∧
      (liveW u (caddr (lineIsl eg n) 0x0814)).toNat = (if e.hbit = false ∧ hit = false ∧ e.abit = true then
        min 0xFFFFFFFF ((liveW s.chip (caddr (lineIsl eg n) 0x0814)).toNat + 1) else (liveW s.chip (caddr (lineIsl eg n) 0x0814)).toNat)) ∧
  (∀ (s : State) (n slice mask : Nat) (eg : Bool), n < 36 → dead s.chip = false → isFenced s.chip (lineIsl eg n) = false →
    slice < 2048 * tcamBlocks eg →
    Becomes (.tcamScrub n eg slice (some (mask, .clean))) s (raise (lineIsl eg n) (0x50 + slice / 2048) clsTable 1 s.chip) ∧
    (sliceOwner (lineOf s.chip eg n) slice = none → Becomes (.tcamScrub n eg slice (some (mask, .bad))) s
      (raise (lineIsl eg n) (0x50 + slice / 2048) clsTable 2 s.chip)))

/-! Packet spill (file 12) -/

/-- Spilling (R330, R331, R333, R335): a queue in spill mode with 32 written cells, a key, an allowance, a free slot and room in its channels
writes its next segment there, each cell encrypted under the active key and the cell's address; its acceptance moves it to the Quarry; the
oldest segment is requested while the head part is short and no returned one waits; it returns, counted, with a header that reads well; and
when the Yard admits it the copies of its queue have their cells back on chip, else it waits. -/
def Obligations.SpillPath : Prop :=
  ∀ s : State, dead s.chip = false →
    (∀ q slot k cells key, q < 10240 → spillOpen s.chip q = true → nextCells s.chip q = some cells → s.chip.cipher.spillActive = some k →
      sget none s.chip.cipher.spill k = some key → 32 * (segsOf s.chip q).length + 32 ≤ spillWord s.chip (queueYard s.chip q) q 8 →
      let v := quarryOf s.chip (queueYard s.chip q)
      freeSlot v = some slot → txRoom s.chip (queueYard s.chip q) (writeTx v v.mapActs slot) = true →
      ∃ u g, Becomes (.segmentWrite q none) s (settle u) ∧ (quarryOf u (queueYard s.chip q)).segs = linkNext q slot v.segs ++ [g] ∧
        g.slot = slot ∧ g.queue = q ∧ g.cells = cells ∧ g.stage = 0 ∧ g.key = k ∧ u.pkt.queues = s.chip.pkt.queues ∧
        g.units = (cells.zip (span 0 32)).map (fun x =>
          unitCrypt true key (dramAddr (queueYard s.chip q) (cellAddr v.mapActs v.grain slot x.2)) (cellData s.chip q x.1).2)) ∧
    (∀ id y g, segWhere s.chip id = some (y, g) → g.stage = 0 →
      ∃ u, Becomes (.segmentAccepted id) s (settle u) ∧ ∀ x ∈ (quarryOf u y).segs, x.id = id → x.stage = 1) ∧
    (∀ q g, q < 10240 → isFenced s.chip (.quarry (queueYard s.chip q)) = false →
      let v := quarryOf s.chip (queueYard s.chip q)
      readOpen v = true → (segsOf s.chip q).find? (fun g => g.stage < 2) = some g → g.stage = 1 →
      (∀ x rest, segsOf s.chip q = x :: rest → x.stage ≠ 3) →
      ((segsOf s.chip q).filter (fun g => 2 ≤ g.stage)).length < 4 →
      headCells s.chip q + 32 * ((segsOf s.chip q).filter (fun g => 2 ≤ g.stage)).length ≤ spillWord s.chip (queueYard s.chip q) q 4 →
      txRoom s.chip (queueYard s.chip q) (unheldReads s.chip (queueYard s.chip q) (readTx v g.acts g.slot)) = true →
      ∃ u, Becomes (.prefetchRequest q) s (settle u) ∧ u.pkt.queues = s.chip.pkt.queues ∧
        ∀ x ∈ (quarryOf u (queueYard s.chip q)).segs, x.id = g.id → x.stage = 2) ∧
    (∀ id y g, segWhere s.chip id = some (y, g) → g.queue < 10240 → g.stage = 2 → readOpen (quarryOf s.chip y) = true →
      (∀ k ∈ g.chans, (chanOf s.chip (4 * y + k)).retraining = false) →
      (quarryOf s.chip y).fenced.contains (primaryHeader g.acts (quarryOf s.chip y).grain (quarryOf s.chip y).capacity g.slot).1 = false →
      ∃ u, Becomes (.segmentReturn id {}) s (settle u) ∧ (∀ x ∈ (quarryOf u y).segs, x.id = id → x.stage = 3) ∧
        (liveW u (caddr (.quarry y) 0x0124)).toNat = min 0xFFFFFFFF ((liveW s.chip (caddr (.quarry y) 0x0124)).toNat + 1)) ∧
    (∀ q g rest, q < 10240 → segsOf s.chip q = g :: rest → g.stage = 3 →
      ∃ u, Becomes (.spillReturnAdmission q) s (settle u) ∧
        match admission s.chip (queueYard s.chip q) 4099 32 0 1 with
        | .inl _ => u.pkt = s.chip.pkt
        | .inr _ => (∀ x ∈ (quarryOf u (queueYard s.chip q)).segs, x.id ≠ g.id) ∧
            ∀ k, k < 32 → ∀ c ∈ queueOf u q, c.cid = (nth (0, 0) g.cells k).1 → nth .done c.places (nth (0, 0) g.cells k).2 ≠ .seg g.id)

/-- `SPILL_SET` (R342, R346, R348), its domain on and its checks passed: ENABLE 1 of a disabled Quarry whose channels all train enables it
over exactly them; ENABLE 0 disables a Quarry without segments, and waits for the segments of any other, whose end or its time limit, once
that has passed, then ends it; QUEUE writes the three words of the queue. -/
def Obligations.SpillOrders : Prop :=
  ∀ (s : State) (ring : Nat),
    (∀ (o : SpillEnableOps) (env : DramEnv), AtWork s ring (.spillSetEnable ring o {}) → quarryNeeds o.quarry s.chip = [] →
      o.quarry ≤ 7 → o.ranks = 1 ∨ o.ranks = 2 → o.speed ≤ 1 → 8 ≤ o.grain → o.grain ≤ 14 →
      (quarryOf s.chip o.quarry).enabled = false → (quarryOf s.chip o.quarry).fenced = [] → s.chip.cipher.spillActive.isSome = true →
      isFenced s.chip (.quarry o.quarry) = false → (span 0 4).filter (bit o.channels) ≠ [] →
      (∀ k ∈ (span 0 4).filter (bit o.channels), (goodDensity o.ranks env (4 * o.quarry + k)).isSome = true) →
      ∃ u, Ends (.spillSetEnable ring o env) s ring .ok (enableResult (settle u) o.quarry) (settle u) ∧
        (quarryOf u o.quarry).enabled = true ∧ (quarryOf u o.quarry).active = (span 0 4).filter (bit o.channels) ∧
        (quarryOf u o.quarry).speed = o.speed ∧ (quarryOf u o.quarry).ranks = o.ranks) ∧
    (∀ o : SpillDisableOps, AtWork s ring (.spillSetDisable ring o) → quarryNeeds o.quarry s.chip = [] → o.quarry ≤ 7 →
      1 ≤ o.timeoutMs → o.timeoutMs ≤ 60000 → isFenced s.chip (.quarry o.quarry) = false →
      ((quarryOf s.chip o.quarry).segs = [] → ∃ u, Ends (.spillSetDisable ring o) s ring .ok 0 (settle u) ∧
        (quarryOf u o.quarry).enabled = false) ∧
      ((quarryOf s.chip o.quarry).segs ≠ [] → ∃ t run, Becomes (.spillSetDisable ring o) s t ∧ (quarryOf t o.quarry).disabling =
          (quarryOf s.chip o.quarry).disabling ++ [(ring, o.timeoutMs, runNs s.chip)] ∧
        (ringOf t ring).running = some run ∧ run.outcome = none)) ∧
    (∀ q, q < 8 → dead s.chip = false →
      let l := (quarryOf s.chip q).disabling
      (l ≠ [] → (quarryOf s.chip q).segs = [] → ∃ u, (quarryOf u q).enabled = false ∧ (quarryOf u q).disabling = [] ∧
        Becomes (.spillDisableDone q) s (l.foldl (fun t x => finishOrder x.1 .ok 0 t) (settle u))) ∧
      (∀ x rest, l = x :: rest → (quarryOf s.chip q).segs ≠ [] → x.2.1 * 1000000 ≤ elapsed s.chip x.2.2 →
        Ends (.spillDisableTimeout q) s x.1 .timeout 0 (modQuarry q (fun v => { v with disabling := rest }) s.chip))) ∧
    (∀ o : SpillQueueOps, AtWork s ring (.spillSetQueue ring o) → o.queue ≤ 10239 →
      let y := queueYard s.chip o.queue
      let m := spillMarks o s.chip
      quarryNeeds y s.chip = [] → o.allow ≤ 2 ^ 28 - 32 → o.thresh ≤ 2 ^ 28 - 32 → o.refill ≤ 2 ^ 28 - 32 → o.allow % 32 = 0 →
      o.thresh % 32 = 0 → o.refill % 32 = 0 → queueExists s.chip o.queue = true → m.2 < m.1 →
      (quarryOf s.chip y).enabled = true → isFenced s.chip (.quarry y) = false →
      ∃ res u, Ends (.spillSetQueue ring o) s ring .ok res (settle u) ∧
        liveW u (caddr (.quarry y) (0x40000 + 16 * o.queue)) = BitVec.ofNat 32 m.1 ∧
        liveW u (caddr (.quarry y) (0x40000 + 16 * o.queue + 4)) = BitVec.ofNat 32 m.2 ∧
        liveW u (caddr (.quarry y) (0x40000 + 16 * o.queue + 8)) = BitVec.ofNat 32 o.allow)

/-- A channel in use (R338, R339, R343 to R346): at a refresh interval a rank that owes none and whose next bank has no waiting row hits
refreshes that bank and closes its row; behind waiting row hits the refresh of the first rank stays owed, until an eighth one makes it an
all-bank refresh; with QY_REF_ALLBANK every rank has an all-bank refresh. A temperature reading is kept, and one too high raises its
fault; a row idle for QY_PAGE_IDLE is closed; a calibration is sent; an oscillator measurement is kept, updates the write timing from 4/64
UI, and starts a retraining from 16/64 UI or when it fails. A retraining takes the settings found, or fences the channel. -/
def Obligations.DramService : Prop :=
  ∀ (s : State) (c : Nat), c < 32 → dead s.chip = false →
    (chanAwake s.chip c = true →
      let h := chanOf s.chip c
      (fieldOf s.chip (.quarry (c / 4)) 0x0100 6 1 = 0 → ∃ t, Becomes (.dramRefresh c) s t ∧
        (∀ rank, rank < max 1 (quarryOf s.chip (c / 4)).ranks → sget 0 h.owed rank = 0 →
          rowHits s.chip c (nextBank s.chip c rank) = false →
          .dram c 0 (nextBank s.chip c rank) ∈ t.out ∧ sget 0 (chanOf t c).owed rank = 0 ∧
          sget 0 (chanOf t c).nextBank rank = (sget 0 h.nextBank rank + 1) % 8 ∧
          sget none (chanOf t c).openRow (nextBank s.chip c rank) = none) ∧
        (rowHits s.chip c (nextBank s.chip c 0) = true →
          if sget 0 h.owed 0 < 7 then sget 0 (chanOf t c).owed 0 = sget 0 h.owed 0 + 1
          else .dram c 1 0 ∈ t.out ∧ sget 0 (chanOf t c).owed 0 = 0)) ∧
      (fieldOf s.chip (.quarry (c / 4)) 0x0100 6 1 = 1 → ∃ t, Becomes (.dramRefresh c) s t ∧
        ∀ rank, rank < max 1 (quarryOf s.chip (c / 4)).ranks → .dram c 1 rank ∈ t.out ∧ sget 0 (chanOf t c).owed rank = 0) ∧
      (∀ rank, rank < 4 → rank < (quarryOf s.chip (c / 4)).ranks → ∃ u, u.out = s.chip.out ++ [.dram c 6 rank] ∧
        Becomes (.mr4Poll c rank true) s (raise (.quarry (c / 4)) 0x29 clsMemory 2 u) ∧ (chanOf u c).mr4High = nadd h.mr4High rank) ∧
      (∀ rank, rank < 4 → rank < (quarryOf s.chip (c / 4)).ranks → ∃ t, Becomes (.mr4Poll c rank false) s t ∧
        t.out = s.chip.out ++ [.dram c 6 rank] ∧ (chanOf t c).mr4High = ndel h.mr4High rank) ∧
      (∀ bank, bank < 16 → (sget none h.openRow bank).isSome = true →
        fieldOf s.chip (.quarry (c / 4)) 0x0108 8 12 ≤ elapsed s.chip (sget 0 h.rowAt bank) → ∃ t, Becomes (.rowIdlePrecharge c bank) s t ∧
        t.out = s.chip.out ++ [.dram c 2 bank] ∧ sget none (chanOf t c).openRow bank = none) ∧
      Becomes (.zqCalibration c) s { s.chip with out := s.chip.out ++ [.dram c 5 0] } ∧
      (∃ t, Becomes (.dqsOscMeasure c none) s t ∧ (chanOf t c).retraining = true) ∧
      (∀ d : Int, ∃ t, Becomes (.dqsOscMeasure c (some d)) s t ∧ (chanOf t c).drift = d ∧
        (chanOf t c).wrDrift = (if 4 ≤ d.natAbs then d else h.wrDrift) ∧
        (chanOf t c).retraining = (h.retraining || decide (16 ≤ d.natAbs)))) ∧
    ((chanOf s.chip c).retraining = true → ∀ env : DramEnv,
      (sfind env.trained c = none → Becomes (.dramRetrain c env) s
        (settle (failChannel (c / 4) (c % 4) (endRetrain .trainFail .fenced c s.chip)))) ∧
      ((sfind env.trained c).isSome = true → ∃ u, Becomes (.dramRetrain c env) s (settle u) ∧
        (chanOf u c).dq = foundSettings c env.settings ∧ (chanOf u c).rings = (chanOf s.chip c).next ∧
        (chanOf u c).retraining = decide ((chanOf s.chip c).next ≠ [])))

/-- A whole Quarry and `DRAM_TRAIN` (R340, R341, R344, R346, R349, R350): a Quarry with nothing queued or in flight for QY_SR_IDLE (not 0) and no
channel in retraining enters self-refresh, its rows closed and the entry counted, and leaves it on a request; a pending map is rebuilt over the
trained channels that are not fenced once no segment is left. RETRAIN starts a retraining that it waits for; OSC measures, and starts one when the
measurement fails; SET replaces one setting; READ changes nothing; each reports a setting. -/
def Obligations.QuarryAndTraining : Prop :=
  (∀ (s : State) (q : Nat), q < 8 → dead s.chip = false →
    let v := quarryOf s.chip q
    (v.enabled = true → v.selfRefresh = false → (∀ g ∈ v.segs, g.stage ≠ 0 ∧ g.stage ≠ 2) →
      (∀ k ∈ v.active, (chanOf s.chip (4 * q + k)).retraining = false ∧ (chanOf s.chip (4 * q + k)).queue = []) →
      fieldOf s.chip (.quarry q) 0x0108 20 12 ≠ 0 → 1000 * fieldOf s.chip (.quarry q) 0x0108 20 12 ≤ elapsed s.chip v.busyAt →
      ∃ t, Becomes (.selfRefreshEntry q) s t ∧ (quarryOf t q).selfRefresh = true ∧
        t.out = s.chip.out ++ v.active.map (fun k => .dram (4 * q + k) 3 0) ∧
        (∀ k ∈ v.active, (chanOf t (4 * q + k)).openRow = []) ∧
        (liveW t (caddr (.quarry q) 0x0138)).toNat = min 0xFFFFFFFF ((liveW s.chip (caddr (.quarry q) 0x0138)).toNat + 1)) ∧
    (v.selfRefresh = true → ∃ t, Becomes (.selfRefreshExit q) s t ∧ (quarryOf t q).selfRefresh = false ∧
      t.out = s.chip.out ++ v.active.map (fun k => .dram (4 * q + k) 4 0)) ∧
    (isFenced s.chip (.quarry q) = false → v.remap = true → v.segs = [] → ∃ t, Becomes (.mapRebuild q) s t ∧
      (quarryOf t q).remap = false ∧ (quarryOf t q).mapGen = (v.mapGen + 1) % 16 ∧
      (quarryOf t q).active = (span 0 4).filter (fun k => (chanOf s.chip (4 * q + k)).trained && !v.fenced.contains k) ∧
      (quarryOf t q).mapActs = (quarryOf t q).active)) ∧
  (∀ (s : State) (ring : Nat) (o : DramTrainOps), trainNeeds o s.chip = [] → trainCheck o s.chip = none →
    (AtWork s ring (.dramTrainRetrain ring o) → (chanOf s.chip o.channel).retraining = false →
      ∃ t run, Becomes (.dramTrainRetrain ring o) s t ∧ (chanOf t o.channel).retraining = true ∧
        (chanOf t o.channel).rings = [ring] ∧ (ringOf t ring).running = some run ∧ run.outcome = none ∧ run.begun = true) ∧
    (AtWork s ring (.dramTrainOsc ring o none) → ∀ d : Int, ∃ t,
      Ends (.dramTrainOsc ring o (some d)) s ring .ok (trainResult t o.channel o.rank o.dqBit) t ∧ (chanOf t o.channel).drift = d) ∧
    (AtWork s ring (.dramTrainOsc ring o none) → ∃ t,
      Ends (.dramTrainOsc ring o none) s ring .ok (trainResult t o.channel o.rank o.dqBit) t ∧ (chanOf t o.channel).retraining = true) ∧
    (AtWork s ring (.dramTrainRead ring o) →
      Ends (.dramTrainRead ring o) s ring .ok (trainResult s.chip o.channel o.rank o.dqBit) s.chip) ∧
    (AtWork s ring (.dramTrainSet ring o) → ∃ t,
      Ends (.dramTrainSet ring o) s ring .ok (trainResult t o.channel o.rank o.dqBit) t ∧
      sget {} (chanOf t o.channel).dq (18 * o.rank + o.dqBit) = ⟨o.rd, o.wr, o.vref⟩ ∧
      (∀ k, k ≠ 18 * o.rank + o.dqBit → sget {} (chanOf t o.channel).dq k = sget {} (chanOf s.chip o.channel).dq k) ∧
      ∀ c, c ≠ o.channel → chanOf t c = chanOf s.chip c))

/-! Ciphers (file 13) -/

/-- Keys and security associations (R353, R356, R357, R364, R367, R370), with their checks passed and their domains on: a key stands in its
slot; an erased slot holds none; a SecY takes its record; an SA is installed with its slot and packet number, becomes the encoding SA,
is read back, or is retired. -/
def Obligations.KeysAndAssociations : Prop :=
  ∀ (s : State) (ring : Nat),
    (∀ o : KeyWriteOps, AtWork s ring (.keyWrite ring o) → slotNeeds o.cls o.slot s.chip = [] →
      (∀ e, keyWriteCheck o s.chip = some e → Ends (.keyWrite ring o) s ring e 0 s.chip) ∧
      (keyWriteCheck o s.chip = none → ∃ t, Ends (.keyWrite ring o) s ring .ok 0 t ∧ slotEmpty t o.cls o.slot = false ∧
        (o.cls = 0 → linkKey t o.slot = some (o.payload.data.take (keyLen o.keyBits))) ∧
        (o.cls = 1 → t.cipher.spillActive = some o.slot))) ∧
    (∀ o : KeyEraseOps, AtWork s ring (.keyErase ring o) → slotNeeds o.cls o.slot s.chip = [] → slotRange o.cls o.slot = false →
      (slotEmpty s.chip o.cls o.slot = true → Ends (.keyErase ring o) s ring .keyAbsent 0 s.chip) ∧
      (slotEmpty s.chip o.cls o.slot = false → o.cls ≠ 1 →
        ∃ t, Ends (.keyErase ring o) s ring .ok 0 t ∧ slotEmpty t o.cls o.slot = true)) ∧
    (∀ p, saPort p s.chip = none → secyNeeds p s.chip = [] → isFenced s.chip (.platform (platformOf p)) = false →
      (∀ o : SaRecordOps, o.port = p → AtWork s ring (.saSetSecy ring o) → o.payload.len = 64 → secyBad o.payload.data = false →
        (secyOf s.chip p).tx = [] → (secyOf s.chip p).rx = [] → ∃ t, Ends (.saSetSecy ring o) s ring .ok 0 t ∧
          (secyOf t p).enable = decide (byteAt o.payload.data 0 = 1) ∧ (secyOf t p).suite = byteAt o.payload.data 1 ∧
          ∀ k, k ≠ p → secyOf t k = secyOf s.chip k) ∧
      (∀ (o : SaRecordOps) (key : List Byte), o.port = p → AtWork s ring (.saSetInstall ring o) → o.an ≤ 3 → o.payload.len = 64 →
        saBad (secyOf s.chip p) o.rx o.payload.data = false → linkKey s.chip (leAt o.payload.data 0 2) = some key →
        key.length = (if (secyOf s.chip p).suite % 2 = 0 then 16 else 32) → leAt o.payload.data 0 2 / 1024 = p / 64 →
        saOf s.chip p o.rx o.an = none → ∃ t a, Ends (.saSetInstall ring o) s ring .ok 0 t ∧ saOf t p o.rx o.an = some a ∧
          a.slot = leAt o.payload.data 0 2 ∧ a.pn = leAt o.payload.data 8 8 ∧ a.keyless = false ∧ a.exhausted = false) ∧
      (∀ (o : SaOps) (a : SaSt), o.port = p → AtWork s ring (.saSetEnableTx ring o) → o.an ≤ 3 → o.rx = false →
        saOf s.chip p false o.an = some a → a.keyless = false → a.exhausted = false →
        ∃ t, Ends (.saSetEnableTx ring o) s ring .ok 0 t ∧ (secyOf t p).encoding = some o.an) ∧
      (∀ o : SaOps, o.port = p → AtWork s ring (.saSetRetire ring o) → o.an ≤ 3 → (saOf s.chip p o.rx o.an).isSome = true →
        o.rx = true ∨ (secyOf s.chip p).encoding ≠ some o.an →
        ∃ t, Ends (.saSetRetire ring o) s ring .ok 0 t ∧ saOf t p o.rx o.an = none) ∧
      (∀ (o : SaRecordOps) (a : SaSt), o.port = p → AtWork s ring (.saSetRead ring o) → o.an ≤ 3 → o.payload.len = 64 →
        saOf s.chip p o.rx o.an = some a →
        let st := saState (secyOf s.chip p) o.rx o.an a
        Ends (.saSetRead ring o) s ring .ok (BitVec.ofNat 64 st) (hostWrite o.payload.addr (saRecord st a) s.chip)))

/-- Lookaside jobs (R372 to R377): a well-formed `CIPHER_JOB` whose buffers are permitted waits as the last job of the engine whose turn it
is; an engine's next job ends with the status its slot earns it and writes nothing, or with `OK` and its output at DST. -/
def Obligations.CipherJobs : Prop :=
  (∀ (s : State) (ring e : Nat) (o : CipherJobOps), AtWork s ring (.cipherJob ring o) → o.payload.len = 64 →
    descBad o.payload.data = false → descOverlap (jobDesc o.payload.data) = false → (jobDesc o.payload.data).slot ≤ 255 →
    descRegions s.chip ring (jobDesc o.payload.data) = true → isFenced s.chip .ci = false → engineFor s.chip = some e →
    ∃ t run, Becomes (.cipherJob ring o) s t ∧
      (engineOf t e).jobs = (engineOf s.chip e).jobs ++ [{ ring := some ring, desc := o.payload.data.take 64 }] ∧
      (∀ k, k ≠ e → engineOf t k = engineOf s.chip k) ∧ (ringOf t ring).running = some run ∧ run.outcome = none) ∧
  (∀ (s : State) (e ring : Nat) (j : JobSt) (env : JobEnv), e < 4 → dead s.chip = false → isFenced s.chip .ci = false →
    nextJob (engineOf s.chip e) = some j → j.ring = some ring → env.parity = none →
    let d := jobDesc j.desc
    match runJob d env (sget none s.chip.cipher.look d.slot) with
    | .inl st => ∃ t, Ends (.lookasideJobRun e env) s ring st 0 t ∧ t.hostMem = s.chip.hostMem ∧
        (engineOf t e).jobs = (engineOf s.chip e).jobs.erase j
    | .inr (out, _) => ∃ res t, Ends (.lookasideJobRun e env) s ring .ok res t ∧
        (engineOf t e).jobs = (engineOf s.chip e).jobs.erase j ∧
        (out.tag = [] → ∀ a, hostByte t a =
          if d.dst ≤ a ∧ a < d.dst + out.data.length then out.data[a - d.dst]? else hostByte s.chip a))

/-! Time (file 14) -/

/-- The time Orders (R384 to R389, R405): TIME_FREQ sets the increment within its bounds, TIME_SLEW the slew in progress with its D within
the bounds of the effective increment, and each restarts the watchdog; TIME_STEP sets or moves the clock, ends a slew, counts the step and
reports the time before it; TIME_READ reports. Operands out of range earn RANGE. Nothing but the Timetable's own state changes, and the run
count never, but for the count and the fault of a bound that the governor put in force (R474). -/
def Obligations.TimeOrders : Prop :=
  ∀ (s : State) (ring : Nat),
    (∀ ops : TimeFreqOps, AtWork s ring (.timeFreq ring ops) →
      let u := if limit incrMin incrMax ops.increment = ops.increment then s.chip else countClamp (executor s.chip 2) s.chip
      ∃ res tm, Ends (.timeFreq ring ops) s ring
          (if limit incrMin incrMax ops.increment = ops.increment ∧ (ops.leave = false ∨ s.chip.time.refLost = false) then .ok
            else .governed) res { u with time := tm } ∧
        tm.incr = limit incrMin incrMax ops.increment ∧ tm.wdogStart = s.chip.time.run ∧ tm.run = s.chip.time.run ∧
        tm.sec = s.chip.time.sec ∧ tm.ns = s.chip.time.ns ∧ tm.frac = s.chip.time.frac ∧
        tm.holdover = (s.chip.time.holdover && !(ops.leave && !s.chip.time.refLost))) ∧
    (∀ ops : TimeSlewOps, AtWork s ring (.timeSlew ring ops) →
      65536000000000 < ops.offset.natAbs ∨ ops.rate = 0 ∨ 1000 < ops.rate → Ends (.timeSlew ring ops) s ring .range 0 s.chip) ∧
    (∀ ops : TimeSlewOps, AtWork s ring (.timeSlew ring ops) → ops.offset.natAbs ≤ 65536000000000 → 1 ≤ ops.rate → ops.rate ≤ 1000 →
      let want := slewOf ops.rate (decide (0 < ops.offset))
      let d := cutSlew s.chip.time.incr want
      let u := if ops.offset = 0 ∨ d = want then s.chip else countClamp (executor s.chip 2) s.chip
      (0 < ops.offset → 0 < d) → (ops.offset < 0 → d < 0) →
      ∃ res tm, Ends (.timeSlew ring ops) s ring
          (if (ops.offset = 0 ∨ d = want) ∧ (ops.leave = false ∨ s.chip.time.refLost = false) then .ok else .governed) res
          { u with time := tm } ∧
        tm.slew = (if ops.offset = 0 then none else some ⟨ops.offset * 65536, d⟩) ∧ tm.wdogStart = s.chip.time.run ∧
        tm.run = s.chip.time.run ∧ tm.incr = s.chip.time.incr ∧ tm.sec = s.chip.time.sec ∧ tm.ns = s.chip.time.ns) ∧
    (∀ ops : TimeStepAbsOps, AtWork s ring (.timeStepAbsolute ring ops) →
      (999999999 < ops.ns → Ends (.timeStepAbsolute ring ops) s ring .range 0 s.chip) ∧
      (ops.ns ≤ 999999999 → ∃ st tm, Ends (.timeStepAbsolute ring ops) s ring st (BitVec.ofNat 64 (nowTs s.chip)) { s.chip with time := tm } ∧
        (st = .ok ∨ st = .governed) ∧ tm.sec = ops.seconds % 2 ^ 48 ∧ tm.ns = ops.ns ∧ tm.frac = 0 ∧ tm.slew = none ∧
        tm.stepCount = (s.chip.time.stepCount + 1) % 16 ∧ tm.run = s.chip.time.run)) ∧
    (∀ ops : TimeStepRelOps, AtWork s ring (.timeStepRelative ring ops) → s.chip.time.frac < 2 ^ 32 →
      let new : Int := (s.chip.time.sec : Int) * 1000000000 + s.chip.time.ns + ops.offset
      0 ≤ new → new < 2 ^ 48 * 1000000000 →
      ∃ st tm, Ends (.timeStepRelative ring ops) s ring st (BitVec.ofNat 64 (nowTs s.chip)) { s.chip with time := tm } ∧
        (st = .ok ∨ st = .governed) ∧ (tm.sec : Int) * 1000000000 + tm.ns = new ∧ tm.ns < 1000000000 ∧ tm.frac = s.chip.time.frac ∧
        tm.slew = none ∧ tm.stepCount = (s.chip.time.stepCount + 1) % 16 ∧ tm.run = s.chip.time.run) ∧
    (AtWork s ring (.timeRead ring none) → Ends (.timeRead ring none) s ring .ok (BitVec.ofNat 64 (nowTs s.chip)) s.chip) ∧
    (∀ p : Payload, AtWork s ring (.timeRead ring (some p)) → p.len = 48 →
      Ends (.timeRead ring (some p)) s ring .ok 0 (hostWrite p.addr (timeRecord s.chip) s.chip))

/-- What time itself brings (R384, R388, R390, R402, R403, R404), VDD_AON good: on the tick that ends it a slew adds its remainder to the
clock with its event bit; the watchdog, its time past, enters holdover with its event and fault; a copy's measurement locks or unlocks it; a
rising edge is captured once and counted, a second one marks the overrun; an enabled output rises on the tick that passes its target and
falls on the one that ends its width. A moment that has not come changes nothing. A write of TT_HOLD_WDOG sets it. -/
def Obligations.TimeEvents : Prop :=
  ∀ s : State, aonLost s.chip = false →
    (∀ w, s.chip.time.slew = some w → w.rem = slewAdd w → ∃ t, Becomes .slewEnd s t ∧ t.time.slew = none ∧ bit t.time.events 3 = true ∧
      (((t.time.sec * 1000000000 + t.time.ns) * 2 ^ 32 + t.time.frac : Nat) : Int) =
        (((s.chip.time.sec * 1000000000 + s.chip.time.ns) * 2 ^ 32 + s.chip.time.frac : Nat) + s.chip.time.incr + w.rem) %
          (2 ^ 48 * 1000000000 * 2 ^ 32)) ∧
    (slewDone s.chip.time = false → Becomes .slewEnd s s.chip) ∧
    (wdogDue s.chip = true → s.chip.time.holdover = false → ∃ u, Becomes .holdoverWatchdog s (raise .tt 0x02 clsTime 0 u) ∧
      u.time.holdover = true ∧ bit u.time.events 2 = true ∧ u.time.run = s.chip.time.run) ∧
    (wdogDue s.chip = false ∨ s.chip.time.holdover = true → Becomes .holdoverWatchdog s s.chip) ∧
    (∀ value mask, dead s.chip = false → isFenced s.chip .tt = false → ∃ t, Becomes (.ttHoldWdogWrite value mask) s t ∧
      holdWdog t = (mergeW (liveW s.chip (caddr .tt 0x0104)) value (mask &&& 0xFFFF#32)).toNat % 65536 ∧
      t.time.run = s.chip.time.run) ∧
    (∀ k delay, k < 8 → dead s.chip = false → (sget none s.chip.ports.causeway k).isSome = true →
      let c := tileCopy s.chip k
      ∃ u, tileCopy u k = measureCopy delay c ∧ Becomes (.timeCopyLoopMeasure (.tile k) delay) s
        (if c.locked = true ∧ (measureCopy delay c).locked = false then raise (.platform (4 * k)) 0x70 clsTime 2 u else u)) ∧
    (∀ n delay, n < 36 → dead s.chip = false → isOn s.chip (.eline n) = true →
      let c := egressCopy s.chip n
      ∃ u, egressCopy u n = measureCopy delay c ∧ Becomes (.timeCopyLoopMeasure (.egress n) delay) s
        (if c.locked = true ∧ (measureCopy delay c).locked = false then raise (.eline n) 0x90 clsTime 2 u else u)) ∧
    (∀ k, k < 2 →
      let p := sget {} s.chip.time.pps k
      ∃ t, Becomes (.ppsInCapture k) s t ∧ (sget {} t.time.pps k).new = true ∧
        (sget {} t.time.pps k).count = min 0xFFFF (p.count + 1) ∧ (sget {} t.time.pps k).overrun = p.new ∧
        (p.new = true → (sget {} t.time.pps k).ts = p.ts) ∧ (p.new = false → bit t.time.events k = true) ∧
        (∀ j, j ≠ k → sget {} t.time.pps j = sget {} s.chip.time.pps j)) ∧
    (∀ k, k < 2 →
      (ppsRises s.chip k = true → ∃ t, Becomes (.ppsOutPulse k) s t ∧ .pps k true ∈ t.out ∧
        (bit (ppsCtrl s.chip k) 30 = false → t.time.ppsHigh.contains k = true)) ∧
      (ppsRises s.chip k = false → Becomes (.ppsOutPulse k) s s.chip) ∧
      (ppsFalls s.chip k = true → ∃ t, Becomes (.ppsOutPulseEnd k) s t ∧ .pps k false ∈ t.out ∧ t.time.ppsHigh.contains k = false) ∧
      (ppsFalls s.chip k = false → Becomes (.ppsOutPulseEnd k) s s.chip))

/-! Telemetry (file 15) -/

/-- Telemetry at work (R417 to R421, R427, R429), the device running and the exporter not fenced: each queue's depth is sampled; a message
that is due goes out as one frame for its queue, which carries how many records it holds, or where its port is gone its records are counted
as lost; an enabled port sends its template when that is due; the sequence number waits for a frame to be admitted. The tick that passes a
multiple of PERIOD_US captures a dump, or counts it as skipped while a record is being written; a record written is the last one. A moment
that has not come changes nothing. -/
def Obligations.TelemetryEvents : Prop :=
  ∀ s : State, exporterUp s.chip = true →
    (∃ t, Becomes .queueDepthSample s t ∧ t.pkt = s.chip.pkt ∧
      ∀ q, (queueList s.chip).count q = 1 → isOn s.chip (.yard (queueYard s.chip q)) = true →
        monOf t 2 q = monAdd false (monOf s.chip 2 q) (depthOf s.chip q)) ∧
    (∀ e, e < 2 →
      let x := exportSt s.chip e
      let lost := caddr .tm (0x0114 + 8 * e)
      (messageDue s.chip e = true → ∃ u, Becomes (.ipfixMessageClose e) s (settle u) ∧ (exportSt u e).seq = x.seq ∧
        ((portOf s.chip (x.field 0x04 2)).isSome = true → usableHalf s.chip 0 ≠ none → chipHold s.chip = false →
          ∃ f, u.pkt.jn = s.chip.pkt.jn ++ [f] ∧ f.bytes = encapsulate x (ipfixMessage s.chip x 256 x.open'.flatten) ∧
            f.direct = some (queueId (x.field 0x04 2) (x.field 0x03 1)) ∧ f.post = some (e, x.open'.length)) ∧
        (portOf s.chip (x.field 0x04 2) = none → u.pkt.jn = s.chip.pkt.jn ∧
          (liveW u lost).toNat = min 0xFFFFFFFF ((liveW s.chip lost).toNat + x.open'.length))) ∧
      (messageDue s.chip e = false → Becomes (.ipfixMessageClose e) s s.chip) ∧
      (templateDue s.chip e = true → x.field 0 1 = 1 → (portOf s.chip (x.field 0x04 2)).isSome = true → usableHalf s.chip 0 ≠ none →
        chipHold s.chip = false →
        ∃ u f, Becomes (.ipfixTemplateSend e) s (settle u) ∧ u.pkt.jn = s.chip.pkt.jn ++ [f] ∧
          f.bytes = encapsulate x (ipfixMessage s.chip x 2 templateBody) ∧ (exportSt u e).seq = x.seq) ∧
      (templateDue s.chip e = false → Becomes (.ipfixTemplateSend e) s s.chip)) ∧
    (dumpPasses s.chip = true →
      (s.chip.tm.writing = none → ∃ t r, Becomes .dumpTick s t ∧ t.tm.writing = some r ∧ r.seq = s.chip.tm.seq + 1 ∧
        t.tm.seq = s.chip.tm.seq + 1 ∧ r.sections = s.chip.tm.sections ∧ r.skipped = s.chip.tm.skipped ∧ t.tm.skipped = 0) ∧
      (s.chip.tm.writing ≠ none → ∃ t, Becomes .dumpTick s t ∧ t.tm.writing = s.chip.tm.writing ∧ t.tm.seq = s.chip.tm.seq ∧
        t.tm.skipped = min 0xFFFFFFFF (s.chip.tm.skipped + 1))) ∧
    (dumpPasses s.chip = false → Becomes .dumpTick s s.chip) ∧
    (∀ r, s.chip.tm.writing = some r → ∃ t, Becomes .dumpRecordWritten s t ∧ t.tm.writing = none ∧ t.tm.last = some r ∧
      ∀ a, (r.count = 0 ∨ a < r.base + 0x5C1000 * ((r.seq - 1) % r.count)) → hostByte t a = hostByte s.chip a)

/-- The telemetry Orders (R422, R423, R431), with their checks passed: DUMP_SET sets the dump, an export port's record, or the IOAM
values; HIST_SET gives a monitor, or with INDEX 0xFFFF every one of its KIND, its binning with an empty histogram, clears it under its
binning, or reads one. -/
def Obligations.TelemetryOrders : Prop :=
  ∀ (s : State) (ring : Nat),
    (∀ o : DumpOps, AtWork s ring (.dumpSetDump ring o) → 100 ≤ o.periodUs → o.periodUs ≤ 10000000 →
      1000000 % o.periodUs = 0 ∨ o.periodUs % 1000000 = 0 → o.sections ≠ 0 ∨ o.en = false → o.base % 4096 = 0 → o.count ≤ 64 →
      o.count = 0 ∨ payloadOk s.chip ring o.base (0x5C1000 * o.count) true = true → isFenced s.chip .tm = false →
      ∃ tm, Ends (.dumpSetDump ring o) s ring .ok 0 { s.chip with tm := tm } ∧ tm.dumpEn = o.en ∧ tm.period = o.periodUs ∧
        tm.sections = o.sections ∧ tm.base = o.base ∧ tm.count = o.count ∧ tm.ring = ring ∧
        (o.en = true → tm.seq = 0 ∧ tm.skipped = 0) ∧ tm.mons = s.chip.tm.mons ∧ tm.exports = s.chip.tm.exports) ∧
    (∀ (o : ExportOps) (v : Port), AtWork s ring (.dumpSetExport ring o) → o.portE ≤ 1 → o.payload.len = 192 →
      exportBad o.payload.data = false → portOf s.chip (leAt o.payload.data 4 2) = some v →
      leAt o.payload.data 0x1C 1 + leAt o.payload.data 6 2 + 4 ≤ v.maxFrame → isFenced s.chip .tm = false →
      ∃ u, Ends (.dumpSetExport ring o) s ring .ok 0 (settle u) ∧ (exportSt u o.portE).record = o.payload.data ∧
        ∀ e, e ≠ o.portE → (exportSt u e).record = (exportSt s.chip e).record) ∧
    (∀ o : IoamOps, AtWork s ring (.dumpSetIoam ring o) → o.payload.len = 32 → leAt o.payload.data 0 8 < 2 ^ 56 →
      leAt o.payload.data 0x0C 1 ≠ 0 → allZero (slice o.payload.data 0x0D 3) = true → allZero (slice o.payload.data 0x18 8) = true →
      isFenced s.chip .tm = false →
      Ends (.dumpSetIoam ring o) s ring .ok 0 { s.chip with tm := { s.chip.tm with
        nodeId := leAt o.payload.data 0 8, nsdShort := leAt o.payload.data 8 4, hlBack := leAt o.payload.data 0x0C 1
        nsdWide := leAt o.payload.data 0x10 8 } }) ∧
    (∀ o : HistOps, histNeeds o.kind o.index s.chip = [] → histRange o.kind o.index = false → o.index ≠ 0xFFFF → o.index < 65536 →
      binningBad o = false → histChecks s.chip o.kind o.index = none →
      let others (t : Chip) : Prop := ∀ i, i < 65536 → i ≠ o.index → monOf t o.kind i = monOf s.chip o.kind i
      (AtWork s ring (.histSetSet ring o) → ∃ t, Ends (.histSetSet ring o) s ring .ok 0 t ∧ others t ∧
        monOf t o.kind o.index = { linear := o.linear, step := o.step, base := o.base }) ∧
      (AtWork s ring (.histSetClear ring o) → ∃ t, Ends (.histSetClear ring o) s ring .ok 0 t ∧ others t ∧
        monOf t o.kind o.index = { (monOf s.chip o.kind o.index).restart with bins := [] })) ∧
    (∀ o : HistOps, histNeeds o.kind 0xFFFF s.chip = [] → o.kind ≤ 5 → o.index = 0xFFFF → binningBad o = false →
      histChecks s.chip o.kind 0xFFFF = none →
      (AtWork s ring (.histSetSet ring o) → ∃ t, Ends (.histSetSet ring o) s ring .ok 0 t ∧
        ∀ i, i < monCount o.kind → monOf t o.kind i = { linear := o.linear, step := o.step, base := o.base }) ∧
      (AtWork s ring (.histSetClear ring o) → ∃ t, Ends (.histSetClear ring o) s ring .ok 0 t ∧
        ∀ i, i < monCount o.kind → monOf t o.kind i = { (monOf s.chip o.kind i).restart with bins := [] })) ∧
    (∀ o : HistReadOps, AtWork s ring (.histSetRead ring o) → histNeeds o.kind o.index s.chip = [] → histRange o.kind o.index = false →
      o.index ≠ 0xFFFF → o.payload.len = 272 → histChecks s.chip o.kind o.index = none →
      Ends (.histSetRead ring o) s ring .ok 0 (hostWrite o.payload.addr (monBytes (monOf s.chip o.kind o.index)) s.chip))

/-! Faults, fences, repair and relief (file 16) -/

/-- Registers outside Orders (R8, R67, R88, R113, R446) and lost links (R18, R462): a write of KS_ERR_CTRL takes its bits, SEV within its
bound; a write of a staged word of a Cabin that answers stages it and changes no live value, but for the count of the access (R426); BAR0
takes COUNTER_USER; BAR2 and the configuration header discard writes. A Causeway link that loses its framing in service takes its Tile's
link down. -/
def Obligations.RegisterWrites : Prop :=
  ∀ (s : State) (value mask : Word),
    (dead s.chip = false → isFenced s.chip .ks = false → mask &&& 0x80FF0707#32 ≠ 0#32 →
      ∃ t, Becomes (.ksErrCtrlWrite value mask) s t ∧
        (liveW t (caddr .ks 0x0110)).toNat = clampErr (mergeW (liveW s.chip (caddr .ks 0x0110)) value (mask &&& 0x80FF0707#32)).toNat %
          2 ^ 32) ∧
    (∀ i off w, dead s.chip = false → Answers s.chip i → i ≠ .sb → off < 0x100000 → off % 4 = 0 → wordSpec i off = some w → w.rws ≠ 0 →
      w.w1c = 0 → notHeld s.chip i off = false → linkCipherWord i off = false → mask &&& BitVec.ofNat 32 (w.ro ||| w.rc) = 0#32 →
      lineWaits s.chip i = false → inBlock off 0x48 8 4 0 = false →
      let m := mask &&& BitVec.ofNat 32 (w.rw ||| w.rws)
      m ≠ 0#32 → wordAt (caddr i off) = .inr (i, off) →
      ∀ posted, ∃ t, Becomes (.registerWrite (.cabin (caddr i off)) value mask posted) s t ∧
        stagedW t (caddr i off) = BitVec.ofNat 32 (clampWrite s.chip i off (mergeW (stagedW s.chip (caddr i off)) value m).toNat) ∧
        ∀ ca, liveW t ca = liveW (pmcCount i 0x02 0 s.chip) ca) ∧
    (∀ posted, barUp s.chip = true → s.chip.boot.done = true → Becomes (.registerWrite (.bar0 0x18) value mask posted) s
      { s.chip with host := { s.chip.host with
        counterUser := bit (mergeW (BitVec.ofNat 32 (b2n s.chip.host.counterUser)) value mask).toNat 0 } }) ∧
    (∀ posted off, Becomes (.registerWrite (.bar2 off) value mask posted) s s.chip ∧
      Becomes (.registerWrite (.config off) value mask posted) s s.chip) ∧
    (∀ k, k < 8 → dead s.chip = false → (sget none s.chip.ports.causeway k).isSome = true →
      Becomes (.causewayFramingLost k) s (causewayFail k s.chip))

/-- Acknowledgement and clearing (R443 to R445), and a handshake without an answer (R26, R447): FAULT_ACK acknowledges the named classes
everywhere and its result names those that were not; FAULT_CLEAR of one Cabin clears a record that is acknowledged and whose cause is
gone, and only it, else it says why not; a silent island is fenced with cause 5, faults 0xF2 and 0xF3 raised. -/
def Obligations.FaultOrders : Prop :=
  ∀ (s : State) (ring : Nat),
    (∀ classes, AtWork s ring (.faultAck ring classes) →
      (classes = 0 ∨ 0x1000 ≤ classes → Ends (.faultAck ring classes) s ring .badOperand 0 s.chip) ∧
      (classes ≠ 0 → classes < 0x1000 → ∃ t, Ends (.faultAck ring classes) s ring .ok
          (BitVec.ofNat 64 (maskOf ((span 0 12).filter (fun c => bit classes c && (sget {} s.chip.faults.classes c).unack)))) t ∧
        (∀ c, bit classes c = true → (sget {} t.faults.classes c).unack = false) ∧
        (∀ i c, bit classes c = true → (cabOf t i).unacked.contains c = false) ∧ t.faults.firstValid = s.chip.faults.firstValid ∧
        t.live = s.chip.live)) ∧
    (∀ (o : FaultClearOps) (i : Isl), AtWork s ring (.faultClear ring o) → o.all = false → o.island < 0x1000 → islOf o.island = some i →
      ((cabOf s.chip i).valid = false → Ends (.faultClear ring o) s ring .notFound 0 s.chip) ∧
      ((cabOf s.chip i).valid = true → (cabOf s.chip i).acked = false →
        Ends (.faultClear ring o) s ring .notAcked (clearResult 0 0 1) s.chip) ∧
      ((cabOf s.chip i).valid = true → (cabOf s.chip i).acked = true → causePresent s.chip i = true →
        Ends (.faultClear ring o) s ring .causePresent (clearResult 0 1 0) s.chip) ∧
      ((cabOf s.chip i).valid = true → clearBlock s.chip i = none → ∃ t, Ends (.faultClear ring o) s ring .ok (clearResult 1 0 0) t ∧
        (cabOf t i).valid = false ∧ (cabOf t i).count = 0 ∧ (cabOf t i).unacked = [] ∧ (cabOf t i).fenced = (cabOf s.chip i).fenced ∧
        (∀ j : Isl, j.code ≠ i.code → cabOf t j = cabOf s.chip j) ∧ t.pkt = s.chip.pkt)) ∧
    (∀ w v waiting silent records, islOf waiting = some w → islOf silent = some v → dead s.chip = false → isOn s.chip w = true →
      isOn s.chip v = true → isFenced s.chip v = false → w ≠ v →
      Becomes (.handshakeTimeout waiting silent records) s (settle (raiseIn records v 0xF3 clsHandshake 3
        (fenceIsland v 5 (raise w 0xF2 clsHandshake 2 s.chip)))))

/-- `UNIT_FENCE` and `UNIT_UNFENCE` (R455, R456), their domains on: fencing an island that is not fenced fences it with cause 2; a unit already
fenced, or for a repair not fenced, answers `OK` with result 1 and nothing changed; a repair refused says why; one that starts marks its
islands and goes on until a repair ends it, with the unit back and its generation stepped, or still fenced. -/
def Obligations.UnitOrders : Prop :=
  ∀ (s : State) (ring : Nat) (o : UnitOps),
    (AtWork s ring (.unitFence ring o) → unitNeeds o s.chip = [] →
      (∀ e, unitOf o = .inl e → Ends (.unitFence ring o) s ring e 0 s.chip) ∧
      (∀ u, unitOf o = .inr u → unitFenced s.chip u = true → Ends (.unitFence ring o) s ring .ok 1 s.chip) ∧
      (∀ i, unitOf o = .inr (.island i) → isFenced s.chip i = false →
        Ends (.unitFence ring o) s ring .ok 0 (settle (fenceIsland i 2 s.chip)))) ∧
    (∀ env : TrainEnv, AtWork s ring (.unitUnfence ring o {}) → unfenceNeeds o env s.chip = [] → islOf o.island ≠ some .ks →
      ∀ u, unitOf o = .inr u → pairIdle s.chip u = none →
      (∀ e r, unfenceCheck env u s.chip = some (e, r) → Ends (.unitUnfence ring o env) s ring e r s.chip) ∧
      (unfenceCheck env u s.chip = none → env.ended = false → ∃ t run, Becomes (.unitUnfence ring o env) s t ∧
        (∀ i ∈ repairGroup s.chip u, (cabOf t i).repair = true ∧ (cabOf t i).fenced = (cabOf s.chip i).fenced) ∧
        (ringOf t ring).running = some run ∧ run.outcome = none ∧ run.begun = true) ∧
      (∀ h, u = .island (.jn h) → unfenceCheck env u s.chip = none → env.ended = true →
        ∃ t, Ends (.unitUnfence ring o env) s ring .ok 0 (errUpdate (settle t)) ∧ isFenced t (.jn h) = false ∧
          (cabOf t (.jn h)).gen = ((cabOf s.chip (.jn h)).gen + 1) % 256 ∧ (cabOf t (.jn h)).repair = false))

/-- Relief Lines (R457 to R460): ASSIGN and RETURN prepare the pair, and with GO_NOW switch to it; GO switches to the prepared pair; one that its
checks refuse changes nothing. The automatic flow prepares the District's relief pair for the Platform that lost its Line. -/
def Obligations.ReliefLines : Prop :=
  ∀ (s : State) (ring : Nat),
    (∀ o : ReliefOps, AtWork s ring (.reliefAssignAssign ring o) →
      let n := 32 + o.platform / 8
      (∀ e, assignCheck o.platform s.chip = some e → e ≠ .ok → e ≠ .fenced → Ends (.reliefAssignAssign ring o) s ring e 0 s.chip) ∧
      (assignCheck o.platform s.chip = none → offDomains s.chip [.iline n] = [] →
        (o.goNow = false → ∃ res t, Ends (.reliefAssignAssign ring o) s ring .ok res t ∧ preparedFor t n = some o.platform ∧
          t.ports.serving = s.chip.ports.serving) ∧
        (o.goNow = true → ∃ res, Ends (.reliefAssignAssign ring o) s ring .ok res
          (switchTo o.platform n (preparePair n o.platform s.chip))))) ∧
    (∀ o : ReliefOps, AtWork s ring (.reliefAssignReturn ring o) →
      (∀ e, returnCheck o.platform s.chip = some e → e ≠ .fenced → Ends (.reliefAssignReturn ring o) s ring e 0 s.chip) ∧
      (returnCheck o.platform s.chip = none → offDomains s.chip [.iline o.platform] = [] → o.goNow = false →
        ∃ res t, Ends (.reliefAssignReturn ring o) s ring .ok res t ∧ preparedFor t o.platform = some o.platform ∧
          t.ports.serving = s.chip.ports.serving)) ∧
    (∀ k, AtWork s ring (.reliefAssignGo ring k) → k ≤ 31 →
      (preparedPair s.chip k = none → Ends (.reliefAssignGo ring k) s ring .notFound 0 s.chip) ∧
      (∀ n, preparedPair s.chip k = some n → reliefWaits s.chip k = false →
        ∃ t, Ends (.reliefAssignGo ring k) s ring .ok (reliefResult t k) t ∧ t = switchTo k n s.chip)) ∧
    (∀ d k, d < 4 → dead s.chip = false → sfind s.chip.ports.reliefDue d = some k → s.chip.sb.lapsed.contains (6 + 3 * d) = false →
      (smOf s.chip (executor s.chip (6 + 3 * d))).halted = false →
      reliefFree s.chip (32 + d) k = true → servesNow s.chip k = none → (domainSt s.chip (32 + d)).on = true →
      bit (liveW s.chip (caddr .ks 0x0118)).toNat 1 = false →
      ∃ t, Becomes (.reliefAutoPrepare d) s t ∧ sfind t.ports.reliefDue d = none ∧ preparedFor t (32 + d) = some k ∧
        t.ports.serving = s.chip.ports.serving)

/-! The Signal Box (file 17) -/

/-- The sequencer (R466): a word without ALU or bus operation sends its Signalman to the next address, to TARGET, back from the micro-stack,
round the loop, to its dispatcher or back from a trap, as its SEQ says; scratch registers and flags are unchanged unless the save frame
restores them. -/
def Obligations.MicroSequencer : Prop :=
  ∀ (s : State) (n : Nat) (inp : MwIn), SmReady s.chip n →
    let m := smOf s.chip n
    let next := (m.m.addr + 1) % 2 ^ 15
    let word (k : Nat) : Nat := putField inp.word.toNat 108 4 k
    let idle (w : Nat) : Prop := wAlu w = 0 ∧ wBus w = 0
    let Goes (c : Instr) (f : MicroSt) : Prop := ∃ t, Becomes c s t ∧ (smOf t n).m = f
    (PlainWord (word 0) → idle (word 0) → Goes (.mwSeqNext n inp) { m.m with addr := redirect m next }) ∧
    (PlainWord (word 1) → idle (word 1) → Goes (.mwSeqJump n inp) { m.m with addr := redirect m (wTarget (word 1)) }) ∧
    (idle (word 2) → wHold (word 2) = false → wWait (word 2) = false → wCond (word 2) = 1 →
      Goes (.mwSeqBranch n inp)
        { m.m with addr := redirect m (if m.m.z != wCneg (word 2) then wTarget (word 2) else next) }) ∧
    (PlainWord (word 3) → idle (word 3) → m.m.stack.length < 8 →
      Goes (.mwSeqCall n inp) { m.m with stack := m.m.stack ++ [next], addr := redirect m (wTarget (word 3)) }) ∧
    (∀ st x, PlainWord (word 4) → idle (word 4) → m.m.stack = st ++ [x] →
      Goes (.mwSeqReturn n inp) { m.m with stack := st, addr := redirect m x }) ∧
    (PlainWord (word 5) → idle (word 5) →
      let lc := (m.m.lc + 65535) % 65536
      Goes (.mwSeqLoop n inp) { m.m with lc := lc, addr := redirect m (if lc = 0 then next else wTarget (word 5)) }) ∧
    (PlainWord (word 6) → idle (word 6) →
      Goes (.mwSeqLdloop n inp) { m.m with lc := wImm (word 6) % 65536, addr := redirect m next }) ∧
    (PlainWord (word 7) → idle (word 7) → ∃ t, Becomes (.mwSeqYield n inp) s t ∧
      (smOf t n).m = { m.m with stack := [], addr := redirect m 0x0100 } ∧ (smOf t n).running = false ∧ (smOf t n).call = none) ∧
    (PlainWord (word 8) → idle (word 8) → ∃ t, Becomes (.mwSeqTrapret n inp) s t ∧
      (smOf t n).m = { m.save with addr := redirect m m.save.addr } ∧ (smOf t n).inTrap = false)

/-- The ALU (R468): a plain word writes its result, modulo 2^64, into DST and no other scratch register; NOP, CMP and TEST write none, and
CMP and TEST set Z and N from their result. -/
def Obligations.MicroAlu : Prop :=
  ∀ (s : State) (n : Nat) (inp : MwIn), SmReady s.chip n →
    let m := smOf s.chip n
    let word (k : Nat) : Nat := putField inp.word.toNat 79 6 k
    let ok (k : Nat) : Prop := PlainWord (word k) ∧ wSeq (word k) = 0 ∧ wBus (word k) = 0
    let a := scratch m (wSrcA inp.word.toNat)
    let b := if wImmB inp.word.toNat then wImm inp.word.toNat else scratch m (wSrcB inp.word.toNat)
    let Puts (c : Instr) (v : Nat) : Prop := ∃ t, Becomes c s t ∧
      ∀ r, scratch (smOf t n) r = if r = wDst inp.word.toNat then v % 2 ^ 64 else scratch m r
    let Sets (c : Instr) (v : Nat) : Prop := ∃ t, Becomes c s t ∧ (∀ r, scratch (smOf t n) r = scratch m r) ∧
      (smOf t n).m.z = decide (v = 0) ∧ (smOf t n).m.n = bit v 63
    (ok 0 → ∃ t, Becomes (.mwAluNop n inp) s t ∧ ∀ r, scratch (smOf t n) r = scratch m r) ∧
    (ok 1 → Puts (.mwAluMov n inp) a) ∧ (ok 2 → Puts (.mwAluImm n inp) (wImm inp.word.toNat)) ∧
    (ok 3 → Puts (.mwAluAdd n inp) (a + b)) ∧ (ok 4 → Puts (.mwAluSub n inp) (a + 2 ^ 64 - b % 2 ^ 64)) ∧
    (ok 5 → Puts (.mwAluAnd n inp) (a &&& b)) ∧ (ok 6 → Puts (.mwAluOr n inp) (a ||| b)) ∧
    (ok 7 → Puts (.mwAluXor n inp) (a ^^^ b)) ∧ (ok 8 → Puts (.mwAluNot n inp) (2 ^ 64 - 1 - a % 2 ^ 64)) ∧
    (ok 9 → Puts (.mwAluShl n inp) (a * 2 ^ (b % 64))) ∧ (ok 10 → Puts (.mwAluShr n inp) (a / 2 ^ (b % 64))) ∧
    (ok 11 → Sets (.mwAluCmp n inp) ((a + 2 ^ 64 - b % 2 ^ 64) % 2 ^ 64)) ∧ (ok 12 → Sets (.mwAluTest n inp) (a &&& b))

/-- The bus operations (R468, R474) of a plain word whose answer comes at once, and the end of a wait for one: FREAD reads a word of a Cabin
that answers, the access itself counted; FWRITE writes as FIELD_WRITE does; DMA_RD and DMA_WR move bytes between the local memory and a
firmware region; POST completes the Order it names, or writes its PENDING completion, or sends a record to a queue that takes it; FRAME
sends a DIRECT frame to the management queue of a port; CJOB queues a job; TREAD reads the time. -/
def Obligations.MicroBus : Prop :=
  ∀ (s : State) (n : Nat) (inp : MwIn), SmReady s.chip n →
    let m := smOf s.chip n
    let x := inp.word.toNat
    let ok (k : Nat) : Prop := PlainWord (putField x 61 4 k) ∧ wSeq x = 0 ∧ wAlu x = 0
    let a := scratch m (wSrcA x)
    let b := if wImmB x then wImm x else scratch m (wSrcB x)
    let g := scratch m (wBreg x)
    let len := wImm x % 65536
    (∀ i off, ok 1 → wordAt (g % 2 ^ 44) = .inr (i, off) → Answers s.chip i → 0xC0 ≤ off →
      ∃ t, Becomes (.mwBusFread n inp) s t ∧
        scratch (smOf t n) (wDst x) = (readWord (pmcCount i 0x02 0 s.chip) false i off).toNat) ∧
    (ok 2 → m.call = none → fwriteRefused (g % 2 ^ 44) (BitVec.ofNat 32 (wImm x)) = none →
      writeDomains s.chip (g % 2 ^ 44) (BitVec.ofNat 32 a) (BitVec.ofNat 32 (wImm x)) = [] →
      let r := writeWord (g % 2 ^ 44) (BitVec.ofNat 32 a) (BitVec.ofNat 32 (wImm x)) s.chip
      r.1 = .ok → ∃ t, Becomes (.mwBusFwrite n inp) s t ∧ t.staged = r.2.2.staged ∧ t.live = r.2.2.live ∧
        t.hostMem = s.chip.hostMem) ∧
    (ok 3 → 1 ≤ len → len ≤ 4096 → a + len ≤ 65536 → inRegion s.chip g len (fun _ attr => bit attr 2) = true → hostUp s.chip = true →
      len ≤ inp.dma.length → ∃ t, Becomes (.mwBusDmaRd n inp) s t ∧ locBytes (smOf t n) a len = inp.dma.take len ∧
        t.hostMem = s.chip.hostMem) ∧
    (ok 4 → 1 ≤ len → len ≤ 4096 → a + len ≤ 65536 → inRegion s.chip g len (fun _ attr => bit attr 2 && bit attr 1) = true →
      hostUp s.chip = true → ∃ t, Becomes (.mwBusDmaWr n inp) s t ∧
        ∀ k, hostByte t k = if g ≤ k ∧ k < g + len then (locBytes m a len)[k - g]? else hostByte s.chip k) ∧
    (∀ ring st, ok 5 → orderNamed s.chip len = some ring → statusOf (scratch m 8 / 2 ^ 16 % 2 ^ 16) = some st →
      (st ≠ .pending → ∃ t, Becomes (.mwBusPost n inp) s t ∧ t.host = (finishOrder ring st (BitVec.ofNat 64 (scratch m 9)) s.chip).host) ∧
      (∀ o, st = .pending → (ringOf s.chip ring).running = some o → hostUp s.chip = true → o.orphan = false → o.progress = true →
        o.pendingWritten = false → ∃ t, Becomes (.mwBusPost n inp) s t ∧
          t.host = (modRing ring (fun v => { v with running := some { o with pendingWritten := true } })
            (writeCompletion ring o .pending (BitVec.ofNat 64 (scratch m 9)) s.chip)).host)) ∧
    (ok 5 → orderNamed s.chip len = none → bits (wImm x) 16 8 < 16 →
      let r := deliverTry (bits (wImm x) 16 8) { record := true, inPort := 0xFFFF, reason := 0, ts := 0
                                                 bytes := leBytes 8 (scratch m 8) ++ leBytes 8 (scratch m 9), waybill := [] } s.chip
      r.1 = true → ∃ t, Becomes (.mwBusPost n inp) s t ∧ t.host = r.2.host ∧ t.hostMem = r.2.hostMem) ∧
    (∀ p, ok 6 → p = wImm x % 512 → (portOf s.chip p).isSome = true → 60 ≤ b % 2 ^ 14 → b % 2 ^ 14 ≤ 10240 → a + b % 2 ^ 14 ≤ 65536 →
      (framesLately s.chip p).length < 1000 → usableHalf s.chip 0 ≠ none → chipHold s.chip = false →
      ∃ u f t, Becomes (.mwBusFrame n inp) s t ∧ t.pkt = (settle u).pkt ∧ u.pkt.jn = s.chip.pkt.jn ++ [f] ∧
        f.bytes = locBytes m a (b % 2 ^ 14) ∧ f.direct = some (queueId p 15)) ∧
    (∀ e, ok 7 → a + 64 ≤ 65536 →
      let d := locBytes m a 64
      descBad d = false → descOverlap (jobDesc d) = false → (jobDesc d).slot ≤ 255 → descFirmware s.chip (jobDesc d) = true →
      isFenced s.chip .ci = false → engineFor s.chip = some e → ∃ t, Becomes (.mwBusCjob n inp) s t ∧
        (engineOf t e).jobs = (engineOf s.chip e).jobs ++ [{ ring := none, desc := d }]) ∧
    (ok 8 → ∃ t, Becomes (.mwBusTread n inp) s t ∧ scratch (smOf t n) (wDst x) = nowTs s.chip % 2 ^ 64) ∧
    (∀ w : BusWait, w.done = false → wCond w.word = 5 → wCneg w.word = false →
      ∀ s' : State, smRuns s'.chip n = true → (smOf s'.chip n).wait = some w →
        ∃ t, Becomes (.mwBusDone n) s' t ∧ (smOf t n).wait = none)

/-- Micro-traps and `MICRO_CALL` (R463, R469 to R472, R475, R476, R478, R483): an event of an empty queue traps a routine that runs, any other
waits in the queue; the watchdog, once the routine has run for 10 ms, and a closed bracket's trap abandon the routine; BREAK, HALT and STEP
halt with the state saved. STATUS reports, RESTART returns a Signalman to its dispatcher, and CALL begins a routine that its YIELD ends. -/
def Obligations.MicroTraps : Prop :=
  (∀ (s : State) (n event : Nat), n < 16 → event < 16 → dead s.chip = false → s.chip.boot.done = true →
    (smOf s.chip n).fenced = false →
    let m := smOf s.chip n
    (m.events ≠ [] ∨ m.running = false ∨ m.mask = true → ∃ t, Becomes (.microtrapEvent n event) s t ∧
      smOf t n = { m with events := m.events ++ [event] }) ∧
    (m.events = [] → m.running = true → m.mask = false → m.inTrap = false → SmReady s.chip n → ∃ t, Becomes (.microtrapEvent n event) s t ∧
      (smOf t n).events = [event] ∧ (smOf t n).inTrap = true ∧ (smOf t n).saveCause = 1 ∧ (smOf t n).save = m.m ∧
      (smOf t n).m = { m.m with addr := redirect m 0x10 })) ∧
  (∀ (s : State) (n : Nat), n < 16 → smRuns s.chip n = true → (smOf s.chip n).wait = none →
    let m := smOf s.chip n
    let Halted (c : Instr) (cause : Nat) : Prop := ∃ t, Becomes c s t ∧ (smOf t n).halted = true ∧ (smOf t n).lastCause = cause ∧
      (smOf t n).save = m.m ∧ (smOf t n).m = m.m
    (m.running = true → 10000000 ≤ elapsed s.chip m.turnAt → m.due = [] → m.bracket = 0 → m.inTrap = false →
      Becomes (.microtrapWatchdog n) s (takeTrap n 2 (modSm n (markDue 2) s.chip))) ∧
    (elapsed s.chip m.turnAt < 10000000 → Becomes (.microtrapWatchdog n) s s.chip) ∧
    (m.bracket = 0 → bpHit m = true → Halted (.microtrapBreak n) 3) ∧
    (m.bracket = 0 → m.due.contains 4 = true → Halted (.microtrapHalt n) 4) ∧
    (m.bracket = 0 → m.steps = some 0 → Halted (.microtrapStep n) 5) ∧
    (m.due.contains 8 = true → m.inTrap = false → Becomes (.microtrapBracket n) s (takeTrap n 8 s.chip))) ∧
  (∀ (s : State) (ring n : Nat),
    (AtWork s ring (.microCallStatus ring n) → Ends (.microCallStatus ring n) s ring (if n < 16 then .ok else .range)
      (if n < 16 then BitVec.ofNat 64 (smState s.chip n) else 0) s.chip) ∧
    (AtWork s ring (.microCallRestart ring n) → n < 16 →
      if n = 0 ∨ (n = 3 ∧ s.chip.sb.cover = some 0) then Ends (.microCallRestart ring n) s ring .busy 0 s.chip
      else ∃ t, Ends (.microCallRestart ring n) s ring .ok 0 t ∧ (smOf t n).halted = false ∧ (smOf t n).fenced = false ∧
        (smOf t n).running = false ∧ (smOf t n).m = { addr := redirect (smOf s.chip n) 0x0100 } ∧ t.sb.lapsed.contains n = false) ∧
    (∀ o : MicroCallOps, o.sm = n → n < 16 → AtWork s ring (.microCallCall ring o) → (smOf s.chip n).fenced = false →
      smIdle (smOf s.chip n) = true → ∃ t run, Becomes (.microCallCall ring o) s t ∧ scratch (smOf t n) 0 = o.arg0.toNat ∧
        scratch (smOf t n) 1 = o.arg1.toNat ∧ (smOf t n).running = true ∧ (smOf t n).call = some ring ∧
        (smOf t n).m.addr = redirect (smOf s.chip n) (0x3F00 + o.entry % 256) ∧ (ringOf t ring).running = some run ∧
        run.outcome = none ∧ run.begun = true))

/-! The test access port, the debug port and built-in self-test (files 17 and 18) -/

/-- The instruction register of the TAP (R479): each code selects its instruction, every other code BYPASS; IDCODE shifts out the device
identification. The commands of the debug port (R480 to R482), reached through DEBUG: STATUS always answers; with the vendor lock every
other one answers LOCKED; a Signalman or a Line that does not exist answers `RANGE`. HALT halts at a trap point; RUN resumes and STEP
executes n words of a halted Signalman, an event trap that is due being taken first; breakpoints, patch RAM, trap entries, the local memory
and the scratch registers take what is written; a trace needs a fenced Line, and of the packet path changes only that Line's generator. -/
def Obligations.DebugAccess : Prop :=
  (∀ s : State,
     let ir (k : Nat) : Chip := { s.chip with power := { s.chip.power with tapIr := k } }
     Becomes .tapExtest s (ir 0x00) ∧ Becomes .tapSamplePreload s (ir 0x02) ∧ Becomes .tapDebug s (ir 0x20) ∧
     (∃ w, Becomes .tapIdcode s (emit (.tdo w) (ir 0x01)) ∧ bits w 28 4 = 0 ∧ bits w 12 16 = 0x5120 ∧
       bits w 1 11 = Config.idcodeMaker.toNat ∧ bits w 0 1 = 1) ∧
     (∀ code, code < 256 → ¬ code ∈ [0x00, 0x01, 0x02, 0x20] → Becomes (.tapBypass code) s (ir code)) ∧
     (∀ (n : Nat) (p : DbgSpace) (o : TraceOps), s.chip.power.tapIr ≠ 0x20 → Becomes (.dbgStatus n) s s.chip ∧
       Becomes (.dbgHalt n) s s.chip ∧ Becomes (.dbgMemRead p) s s.chip ∧ Becomes (.dbgTraceRun o) s s.chip)) ∧
  (∀ s : State, dead s.chip = false → s.chip.power.tapIr = 0x20 →
     let Says (c : Instr) (st : Status) (bs : List Byte) (u : Chip) : Prop :=
       Becomes c s (if Config.vendorLock then emit .debugLocked s.chip else emit (.debug st bs) u)
     let Gated (c : Instr) : Prop := ∃ u, Becomes c s (if Config.vendorLock then emit .debugLocked s.chip else u)
     (∀ n k a v m p bs o e, (∃ st ans, Becomes (.dbgStatus n) s (emit (.debug st ans) s.chip)) ∧ Gated (.dbgHalt n) ∧ Gated (.dbgRun n) ∧
       Gated (.dbgStep n k) ∧ Gated (.dbgBpSet n k a) ∧ Gated (.dbgBpClr n k) ∧ Gated (.dbgSaveRead n) ∧ Gated (.dbgMemRead p) ∧
       Gated (.dbgMemWrite p v m bs) ∧ Gated (.dbgTraceRun o) ∧ Gated (.dbgTraceRead e n)) ∧
     (∀ n a k, 16 ≤ n → Becomes (.dbgStatus n) s (emit (.debug .range []) s.chip) ∧ Says (.dbgHalt n) .range [] s.chip ∧
       Says (.dbgRun n) .range [] s.chip ∧ Says (.dbgStep n k) .range [] s.chip ∧ Says (.dbgBpSet n k a) .range [] s.chip ∧
       Says (.dbgBpClr n k) .range [] s.chip ∧ Says (.dbgSaveRead n) .range [] s.chip ∧
       Says (.dbgMemRead (.scratch n k)) .range [] s.chip) ∧
     (∀ n a k v, n < 16 →
       let m := smOf s.chip n
       Becomes (.dbgStatus n) s (emit (.debug .ok (leBytes 4 (smState s.chip n))) s.chip) ∧
       (smRuns s.chip n = false → Says (.dbgHalt n) .ok [] s.chip) ∧
       (SmReady s.chip n → ∃ u, Says (.dbgHalt n) .ok [] u ∧ (smOf u n).halted = true ∧ (smOf u n).save = m.m ∧ (smOf u n).m = m.m) ∧
       (m.due = [] → ∃ u, Says (.dbgRun n) .ok [] u ∧ (smOf u n).halted = false ∧ (smOf u n).steps = none ∧ (smOf u n).m = m.m) ∧
       (m.halted = true → m.fenced = false → s.chip.boot.done = true → m.due = [1] → m.wait = none → m.bracket = 0 → m.inTrap = false →
         ∃ u w, Says (.dbgRun n) .ok [] u ∧ Says (.dbgStep n 1) .ok [] w ∧ ∀ y, y = u ∨ y = w →
           (smOf y n).inTrap = true ∧ (smOf y n).saveCause = 1 ∧ (smOf y n).save = m.m ∧
           (smOf y n).m = { m.m with addr := redirect m 0x10 }) ∧
       (m.halted = false → Says (.dbgStep n k) .badOperand [] s.chip) ∧
       (m.halted = true → m.due = [] → 1 ≤ k → k ≤ 65535 → ∃ u, Says (.dbgStep n k) .ok [] u ∧ (smOf u n).halted = false ∧
         (smOf u n).steps = some k ∧ (smOf u n).m = m.m) ∧
       (8 ≤ k → Says (.dbgBpSet n k a) .badOperand [] s.chip ∧ Says (.dbgBpClr n k) .badOperand [] s.chip) ∧
       (k < 8 → ∃ u w, Says (.dbgBpSet n k a) .ok [] u ∧ Says (.dbgBpClr n k) .ok [] w ∧
         (∀ j, sget none (smOf u n).bps j = if j = k then some (a % 2 ^ 15) else sget none m.bps j) ∧
         (∀ j, sget none (smOf w n).bps j = if j = k then none else sget none m.bps j)) ∧
       (∃ bs, bs.length = 160 ∧ bs.take 2 = leBytes 2 m.save.addr ∧ Says (.dbgSaveRead n) .ok bs s.chip) ∧
       (k < 16 → Says (.dbgMemRead (.scratch n k)) .ok (leBytes 8 (scratch m k)) s.chip ∧
         ∃ u, Says (.dbgMemWrite (.scratch n k) 0 0 (leBytes 8 v)) .ok [] u ∧
           ∀ r, scratch (smOf u n) r = if r = k then v % 2 ^ 64 else scratch m r) ∧
       (a < 0x4000 → Says (.dbgMemRead (.control n a)) .ok (leBytes 14 (Config.romWord (16384 * n + a)).toNat) s.chip ∧
         Says (.dbgMemWrite (.control n a) v 0 []) .badOperand [] s.chip) ∧
       (∀ bs, a < 2048 → ∃ u, Says (.dbgMemWrite (.patch n a) v 0 bs) .ok [] u ∧ (smOf u n).patched = true ∧
         ∀ j, sget 0 (smOf u n).patch j = if j = a then leAt bs 0 14 else sget 0 m.patch j) ∧
       (∀ bs, a < 64 → ∃ u, Says (.dbgMemWrite (.trap n a) v 0 bs) .ok [] u ∧ (smOf u n).patched = true ∧
         ∀ j, sget none (smOf u n).traps j = if j = a then some ⟨leAt bs 0 2, leAt bs 2 2, bit (leAt bs 4 1) 0⟩ else sget none m.traps j) ∧
       (∀ bs : List Byte, a + bs.length ≤ 65536 → ∃ u, Says (.dbgMemWrite (.localMem n a bs.length) v 0 bs) .ok [] u ∧
         ∀ j, locBytes (smOf u n) j 1 = if a ≤ j ∧ j < a + bs.length then bs[j - a]?.toList else locBytes m j 1)) ∧
     (∀ ca v k, writeDomains s.chip ca v k = [] →
       let r := writeWord ca v k s.chip
       Says (.dbgMemWrite (.field ca) v.toNat k.toNat []) r.1 (leBytes 4 r.2.1.toNat) r.2.2) ∧
     (∀ o : TraceOps, o.line < 36 → o.sm < 16 → o.len ≤ 10240 → o.off + o.len ≤ 65536 → o.bank ≤ 2 →
       (isFenced s.chip (lineIsl o.egress o.line) = false → Says (.dbgTraceRun o) .fenced [] s.chip) ∧
       (isFenced s.chip (lineIsl o.egress o.line) = true → ∃ u rnd, Says (.dbgTraceRun o) .ok [] u ∧
         u.pkt = (modLine o.egress o.line (fun l => { l with rnd := rnd }) s.chip).pkt ∧ u.live = s.chip.live ∧
         u.host = s.chip.host)) ∧
     (∀ e n, n < 36 → Says (.dbgTraceRead e n) .ok (sget [] s.chip.sb.traces (2 * n + b2n e)) s.chip))

/-- `BIST_RUN` (R485 to R491): a target its checks refuse, or a condition not met, starts no test; a test that starts fences its target and
forgets its kept result; READ writes the kept record; ABORT cuts the running test, whose completion it waits for. The end of a test (R487
to R490, R492): it passes only uncut, with every pattern applied and the expected signature. The island is reset and the record kept, and
written to the payload of the Order; a pass ends the Order with the count, after `UNIT_UNFENCE` where RETURN asks for it; any other
verdict raises source 0xF0 first. The test of an Order that was given up (R472) ends so too, with no payload and no completion. A condition
lost during the run cuts it short. -/
def Obligations.BuiltInSelfTest : Prop :=
  (∀ (s : State) (ring : Nat) (o : BistOps),
     let Going (c : Instr) (t : Chip) : Prop := Becomes c s t ∧ ∃ run, (ringOf t ring).running = some run ∧ run.begun = true
     (∀ e, bistTarget o s.chip = .inl e →
       (∀ cond, AtWork s ring (.bistRunRun ring o {}) → Ends (.bistRunRun ring o cond) s ring e 0 s.chip) ∧
       (AtWork s ring (.bistRunRead ring o) → Ends (.bistRunRead ring o) s ring e 0 s.chip) ∧
       (AtWork s ring (.bistRunAbort ring o) → Ends (.bistRunAbort ring o) s ring e 0 s.chip)) ∧
     (∀ i, bistTarget o s.chip = .inr i →
       (∀ cond : BistCond, AtWork s ring (.bistRunRun ring o {}) →
         (bistBusy i s.chip = true → Ends (.bistRunRun ring o cond) s ring .busy 0 s.chip) ∧
         (bistBusy i s.chip = false → repairDomains s.chip (bistGroup i) = [] →
           ((cond.clock && cond.supply) = false →
             Ends (.bistRunRun ring o cond) s ring .conditions 0 (raise i 0xF1 clsBist 0 s.chip)) ∧
           (cond.clock = true → cond.supply = true →
             let u := bistClearKeys i o.type (settle (bistFence i o.sub o.type s.chip))
             ∃ t, Becomes (.bistRunRun ring o cond) s t ∧ t.pkt = u.pkt ∧ t.ports = u.ports ∧ t.cipher = u.cipher ∧
               bistRuns t [i] = true ∧ sget [] t.bist.results (bistKey i o.sub) = [] ∧
               (∀ k, k ≠ bistKey i o.sub → sget [] t.bist.results k = sget [] u.bist.results k)))) ∧
       (AtWork s ring (.bistRunRead ring o) →
         (sget [] s.chip.bist.results (bistKey i o.sub) = [] → Ends (.bistRunRead ring o) s ring .notFound 0 s.chip) ∧
         (∀ b bs p, sget [] s.chip.bist.results (bistKey i o.sub) = b :: bs → o.payload = some p →
           Ends (.bistRunRead ring o) s ring .ok 0 (hostWrite p.addr (b :: bs) s.chip))) ∧
       (AtWork s ring (.bistRunAbort ring o) →
         let hit (r : BistRun) : Bool := r.island = (bistIsland i).code && r.sub = o.sub
         (s.chip.bist.runs.any hit = false → Ends (.bistRunAbort ring o) s ring .notFound 0 s.chip) ∧
         (s.chip.bist.runs.any hit = true → ∃ t, Going (.bistRunAbort ring o) t ∧ (∀ r ∈ t.bist.runs, hit r = true → bit r.cut 2 = true) ∧
           t.pkt = s.chip.pkt ∧ t.live = s.chip.live)))) ∧
  (∀ (s : State) (target : BistTarget) (i : Isl) (r : BistRun), dead s.chip = false → runOf target s.chip = some (i, r) →
     (∀ f : BistFind,
       let st := bistVerdict (bistExpected i r.type) r f
       let applied := bistApplied r f
       let put (u : Chip) : Chip := match r.payload with
         | none => u
         | some a => if bistOrderAt u r then hostWrite a (sget [] u.bist.results (bistKey i r.sub)) u else u
       let fin (u : Chip) (st : Status) (res : DWord) (t : Chip) : Chip := if bistOrderAt u r then finishOrder r.ring st res t else t
       let Kept (u : Chip) : Prop := (∀ x ∈ u.bist.runs, ¬ (x.island = r.island ∧ x.sub = r.sub)) ∧
         ((∀ q, i ≠ .quarry q) ∨ r.type = 5 → bistOrderAt u r = bistOrderAt s.chip r) ∧
         (sget [] u.bist.results (bistKey i r.sub)).take 4 = leBytes 1 r.type ++ leBytes 1 r.sub ++ leBytes 2 st.code ∧
         (sget [] u.bist.results (bistKey i r.sub)).length = 48 ∧ (∀ j : Isl, cabOf u j = cabOf s.chip j)
       (st = .ok ↔ r.cut = 0 ∧ applied = f.expected % 2 ^ 48 ∧ f.signature % 2 ^ 32 = bistExpected i r.type) ∧
       (r.cut ≠ 0 → st = .incomplete) ∧
       (st = .ok → r.ret = false → ∃ u, Kept u ∧ Becomes (.bistRunEnd target f) s
         (endAborts i r.sub (fin u .ok (BitVec.ofNat 64 applied) (put u)))) ∧
       (st = .ok → r.ret = true → ∃ u, Kept u ∧
         let b := bistReturn i r.sub r.type f.train (put u)
         Becomes (.bistRunEnd target f) s (endAborts i r.sub (fin u (if b.1 = .trainFail then .trainFail else .ok)
           (packD [(48, 16, b.1.code), (0, 48, applied)]) b.2))) ∧
       (st ≠ .ok → ∃ u, Kept u ∧ Becomes (.bistRunEnd target f) s
         (endAborts i r.sub (fin u st (BitVec.ofNat 64 applied) (settle (raise i 0xF0 clsBist 3 (put u))))))) ∧
     (∀ clock supply, ∃ t, Becomes (.bistConditionLost target clock supply) s t ∧
       (∀ x ∈ t.bist.runs, x.island = r.island → x.sub = r.sub → (clock = true → bit x.cut 0 = true) ∧ (supply = true → bit x.cut 1 = true)) ∧
       t.pkt = s.chip.pkt ∧ t.host = s.chip.host ∧ t.live = s.chip.live))

/-! The whole device -/

/-- The frame of the commands that work inside the device (`innerCommand` names the others: resets, supply and reference events, domain modes,
start-up, word writes, microwords, self-test, the TAP's instruction register, and every command that writes host memory): whatever they do,
the boot state, every byte of host memory, the self-test results, the last word access without an Order, and the supplies, pins, reset
causes and power domains stay as they are; of the power state only the list of domains wanted on may grow. -/
def Obligations.InnerCommandFrames : Prop :=
  ∀ (c : Instr) (s t : State), innerCommand c = true → exec c s = .next t →
    t.pending = s.pending ∧ t.chip.boot = s.chip.boot ∧ t.chip.hostMem = s.chip.hostMem ∧ t.chip.bist = s.chip.bist ∧
    t.chip.lastWrite = s.chip.lastWrite ∧ { t.chip.power with wanted := [] } = { s.chip.power with wanted := [] }

/-- The invariant of host memory: from every state whose host memory stands in canonical form, every step that answers a next state leaves it
so; two memories that read alike at every address are then equal. -/
def Obligations.StepKeepsHostMemory : Prop :=
  (∀ s t : State, Memory.wf s.chip.hostMem = true → step s = .next t → Memory.wf t.chip.hostMem = true) ∧
  (∀ s t : Chip, Memory.wf s.hostMem = true → Memory.wf t.hostMem = true → (∀ a, hostByte s a = hostByte t a) → s.hostMem = t.hostMem)
end

