-- ==== Sys2Proof/Laws/Frames.lean ====
section
/-!
SUPPORT. The frame of the shared operations: none of them touches the boot state, host memory, the results of self-test, the last word
access without an Order, or the supplies, pins, causes and domains; of the power state at most the domains wanted on change.
-/

set_option linter.unusedSimpArgs false

namespace Sys2Proof.Machine

/-- What the operations inside the device leave alone. -/
def kept (s : Chip) : BootSt × Option (Status × Word) × BistSt × List Host.Cell × PowerSt :=
  (s.boot, s.lastWrite, s.bist, s.hostMem, { s.power with wanted := [] })

/-- A record update of other fields. -/
theorem kept_mk (x : Chip) (o h l st sh f p pk c t tm sb pm fr) :
    kept ⟨o, x.hostMem, x.power, x.boot, h, l, st, sh, x.lastWrite, f, p, pk, c, t, tm, sb, pm, x.bist, fr⟩ = kept x := rfl

/-- A record update of other fields and of the wanted domains. -/
theorem kept_pw (x : Chip) (o h l st sh f p pk c t tm sb pm fr w) :
    kept ⟨o, x.hostMem, { x.power with wanted := w }, x.boot, h, l, st, sh, x.lastWrite, f, p, pk, c, t, tm, sb, pm, x.bist, fr⟩ =
      kept x := rfl

theorem kept_ite (c : Prop) [Decidable c] (a b : Chip) : kept (if c then a else b) = if c then kept a else kept b := by split <;> rfl

theorem kept_foldl {α : Type} {f : Chip → α → Chip} (h : ∀ s a, kept (f s a) = kept s) (l : List α) (s : Chip) :
    kept (l.foldl f s) = kept s := by
  induction l generalizing s with
  | nil => rfl
  | cons a l ih => exact (ih _).trans (h s a)

theorem kept_foldl_snd {α β : Type} {f : β × Chip → α → β × Chip} (h : ∀ r a, kept (f r a).2 = kept r.2) (l : List α) (r : β × Chip) :
    kept (l.foldl f r).2 = kept r.2 := by
  induction l generalizing r with
  | nil => rfl
  | cons a l ih => exact (ih _).trans (h r a)


theorem emit_kept (o : Output) (s : Chip) : kept (emit o s) = kept s := by rfl

theorem msix_kept (v : Nat) (s : Chip) : kept (msix v s) = kept s := by
  simp only [msix, kept_mk, kept_pw, kept_ite, ite_self, emit_kept]

theorem freeTake_kept (s : Chip) : kept (freeTake s) = kept s := by rfl

theorem freeBytesTake_kept (n : Nat) (s : Chip) : kept (freeBytesTake n s) = kept s := by rfl

theorem setLive_kept (ca : Nat) (v : Word) (s : Chip) : kept (setLive ca v s) = kept s := by rfl

theorem setStaged_kept (ca : Nat) (v : Word) (s : Chip) : kept (setStaged ca v s) = kept s := by rfl

theorem setShadow_kept (ca : Nat) (v : Word) (s : Chip) : kept (setShadow ca v s) = kept s := by rfl

theorem setField'_kept (i : Isl) (off lo w v : Nat) (s : Chip) : kept (setField' i off lo w v s) = kept s := by
  simp only [setField', kept_mk, kept_pw, kept_ite, ite_self, setLive_kept]

theorem bumpField_kept (i : Isl) (off lo w n : Nat) (s : Chip) : kept (bumpField i off lo w n s) = kept s := by
  simp only [bumpField, kept_mk, kept_pw, kept_ite, ite_self, setField'_kept]

theorem bump_kept (i : Isl) (off n : Nat) (s : Chip) : kept (bump i off n s) = kept s := by
  simp only [bump, kept_mk, kept_pw, kept_ite, ite_self, bumpField_kept]

theorem pmcAdd_kept (i : Isl) (k n : Nat) (s : Chip) : kept (pmcAdd i k n s) = kept s := by
  simp only [pmcAdd, kept_mk, kept_pw, kept_ite, ite_self, setLive_kept]

theorem pmcMark_kept (i : Isl) (k till : Nat) (s : Chip) : kept (pmcMark i k till s) = kept s := by rfl

theorem pmcCount_kept (i : Isl) (event sub : Nat) (s : Chip) : kept (pmcCount i event sub s) = kept s := by
  unfold pmcCount
  repeat' first
    | with_reducible rfl
    | simp only [kept_mk, kept_pw, kept_ite, ite_self, freeTake_kept, pmcAdd_kept, pmcMark_kept]
    | split
    | refine (kept_foldl (fun _ _ => ?_) _ _).trans ?_

theorem restartClock_kept (i : Isl) (s : Chip) : kept (restartClock i s) = kept s := by rfl

theorem resetWords_kept (i : Isl) (s : Chip) : kept (resetWords i s) = kept s := by rfl

theorem modCab_kept (i : Isl) (f : CabSt → CabSt) (s : Chip) : kept (modCab i f s) = kept s := by rfl

theorem countFencedReq_kept (i : Isl) (s : Chip) : kept (countFencedReq i s) = kept s := by
  simp only [countFencedReq, kept_mk, kept_pw, kept_ite, ite_self, bump_kept]

theorem setPort_kept (p : Nat) (v : Option Port) (s : Chip) : kept (setPort p v s) = kept s := by rfl

theorem modPort_kept (p : Nat) (f : Port → Port) (s : Chip) : kept (modPort p f s) = kept s := by
  unfold modPort
  (repeat' split) <;> first | rfl | simp only [kept_mk, kept_pw, kept_ite, ite_self, setPort_kept]

theorem modLane_kept (l : Nat) (f : LaneSt → LaneSt) (s : Chip) : kept (modLane l f s) = kept s := by rfl

theorem setServing_kept (k : Nat) (n : Option Nat) (s : Chip) : kept (setServing k n s) = kept s := by rfl

theorem setLine_kept (egress : Bool) (n : Nat) (v : LineSt) (s : Chip) : kept (setLine egress n v s) = kept s := by
  simp only [setLine, kept_mk, kept_pw, kept_ite, ite_self]

theorem modLine_kept (egress : Bool) (n : Nat) (f : LineSt → LineSt) (s : Chip) : kept (modLine egress n f s) = kept s := by
  simp only [modLine, kept_mk, kept_pw, kept_ite, ite_self, setLine_kept]

theorem modPkt_kept (f : PacketSt → PacketSt) (s : Chip) : kept (modPkt f s) = kept s := by rfl

theorem setQueue_kept (q : Nat) (l : List Copy) (s : Chip) : kept (setQueue q l s) = kept s := by rfl

theorem modQueueSt_kept (q : Nat) (f : QueueSt → QueueSt) (s : Chip) : kept (modQueueSt q f s) = kept s := by rfl

theorem modYard_kept (y : Nat) (f : YardSt → YardSt) (s : Chip) : kept (modYard y f s) = kept s := by
  simp only [modYard, kept_mk, kept_pw, kept_ite, ite_self, modPkt_kept, setField'_kept]

theorem modQuarry_kept (q : Nat) (f : QuarrySt → QuarrySt) (s : Chip) : kept (modQuarry q f s) = kept s := by rfl

theorem modChan_kept (c : Nat) (f : ChanSt → ChanSt) (s : Chip) : kept (modChan c f s) = kept s := by rfl

theorem noteStale_kept (s : Chip) : kept (noteStale s) = kept s := by rfl

theorem setMon_kept (kind idx : Nat) (m : Mon) (s : Chip) : kept (setMon kind idx m s) = kept s := by rfl

theorem monSample_kept (kind idx : Nat) (v : Int) (s : Chip) : kept (monSample kind idx v s) = kept s := by rfl

theorem modExport_kept (e : Nat) (f : ExportSt → ExportSt) (s : Chip) : kept (modExport e f s) = kept s := by rfl

theorem countPosts_kept (e n : Nat) (sent : Bool) (s : Chip) : kept (countPosts e n sent s) = kept s := by
  unfold countPosts
  repeat' first
    | with_reducible rfl
    | simp only [kept_mk, kept_pw, kept_ite, ite_self, bump_kept, modExport_kept, pmcCount_kept]
    | split
    | refine (kept_foldl (fun _ _ => ?_) _ _).trans ?_

theorem postOutcome_kept (post : Option (Nat × Nat)) (sent : Bool) (s : Chip) : kept (postOutcome post sent s) = kept s := by
  unfold postOutcome
  (repeat' split) <;> first | rfl | simp only [kept_mk, kept_pw, kept_ite, ite_self, countPosts_kept]

theorem postcardSelect_kept (i : Isl) (w : Waybill) (s : Chip) : kept (postcardSelect i w s) = kept s := by
  simp only [postcardSelect, kept_mk, kept_pw, kept_ite, ite_self, countPosts_kept, modExport_kept]

theorem finishWaybill_kept (i : Isl) (w : Waybill) (s : Chip) : kept (finishWaybill i w s) = kept s := by
  simp only [finishWaybill, kept_mk, kept_pw, kept_ite, ite_self, emit_kept, postcardSelect_kept]

theorem dropWaybill_kept (i : Isl) (reason : Nat) (w : Waybill) (s : Chip) : kept (dropWaybill i reason w s) = kept s := by
  simp only [dropWaybill, kept_mk, kept_pw, kept_ite, ite_self, finishWaybill_kept]

theorem grant_kept (y r c : Nat) (headroom : Bool) (s : Chip) : kept (grant y r c headroom s) = kept s := by
  simp only [grant, kept_mk, kept_pw, kept_ite, ite_self, modYard_kept, pmcCount_kept]

theorem countRefusal_kept (y r h reason : Nat) (s : Chip) : kept (countRefusal y r h reason s) = kept s := by
  simp only [countRefusal, kept_mk, kept_pw, kept_ite, ite_self, bump_kept, countFencedReq_kept, pmcCount_kept]

theorem returnUnused_kept (y r u : Nat) (headroom : Bool) (s : Chip) : kept (returnUnused y r u headroom s) = kept s := by
  simp only [returnUnused, kept_mk, kept_pw, kept_ite, ite_self, modYard_kept]

theorem freeCells_kept (y r n : Nat) (ret : List Nat) (s : Chip) : kept (freeCells y r n ret s) = kept s := by
  unfold freeCells
  repeat' first
    | with_reducible rfl
    | simp only [kept_mk, kept_pw, kept_ite, ite_self, modYard_kept, pmcCount_kept]
    | split
    | refine (kept_foldl (fun _ _ => ?_) _ _).trans ?_

theorem setShare_kept (y fid : Nat) (v : Share) (s : Chip) : kept (setShare y fid v s) = kept s := by rfl

theorem decShare_kept (y fid : Nat) (idxs : List Nat) (s : Chip) : kept (decShare y fid idxs s) = kept s := by
  unfold decShare
  (repeat' split) <;> first | rfl | simp only [kept_mk, kept_pw, kept_ite, ite_self, freeCells_kept, returnUnused_kept, setShare_kept]

theorem releaseCopy_kept (c : Copy) (s : Chip) : kept (releaseCopy c s) = kept s := by
  simp only [releaseCopy, kept_mk, kept_pw, kept_ite, ite_self, decShare_kept, freeCells_kept]

theorem pruneTx_kept (s : Chip) : kept (pruneTx s) = kept s := by rfl

theorem pruneSegs_kept (s : Chip) : kept (pruneSegs s) = kept s := by rfl

theorem hostOutcome_kept (h : Option (Nat × Nat × Bool)) (st : Status) (ts : Nat) (s : Chip) : kept (hostOutcome h st ts s) = kept s := by
  unfold hostOutcome
  (repeat' split) <;> first | rfl | simp only [kept_mk, kept_pw, kept_ite, ite_self]

theorem recordDrop_kept (i : Isl) (reason : Nat) (c : Copy) (s : Chip) : kept (recordDrop i reason c s) = kept s := by
  simp only [recordDrop, kept_mk, kept_pw, kept_ite, ite_self, dropWaybill_kept, hostOutcome_kept, modPkt_kept]

theorem keepDiscard_kept (c : Copy) (s : Chip) : kept (keepDiscard c s) = kept s := by rfl

theorem startDiscard_kept (i : Isl) (reason : Nat) (c : Copy) (s : Chip) : kept (startDiscard i reason c s) = kept s := by
  simp only [startDiscard, kept_mk, kept_pw, kept_ite, ite_self, keepDiscard_kept, recordDrop_kept]

theorem dropCopy_kept (i : Isl) (reason : Nat) (c : Copy) (s : Chip) : kept (dropCopy i reason c s) = kept s := by
  simp only [dropCopy, kept_mk, kept_pw, kept_ite, ite_self, recordDrop_kept, releaseCopy_kept, startDiscard_kept]

theorem dropQueued_kept (i : Copy → Isl) (reason : Nat) (f : Copy → Bool) (s : Chip) : kept (dropQueued i reason f s) = kept s := by
  unfold dropQueued
  repeat' first
    | with_reducible rfl
    | simp only [kept_mk, kept_pw, kept_ite, ite_self, modPkt_kept, pruneSegs_kept, startDiscard_kept]
    | split
    | refine (kept_foldl (fun _ _ => ?_) _ _).trans ?_

theorem sendPfc_kept (p g : Nat) (on : Bool) (s : Chip) : kept (sendPfc p g on s) = kept s := by
  unfold sendPfc
  repeat' first
    | with_reducible rfl
    | simp only [kept_mk, kept_pw, kept_ite, ite_self, emit_kept, pmcCount_kept]
    | split
    | refine (kept_foldl (fun _ _ => ?_) _ _).trans ?_

theorem xoffUpdate_kept (s : Chip) : kept (xoffUpdate s) = kept s := by
  unfold xoffUpdate
  repeat' first
    | with_reducible rfl
    | simp only [kept_mk, kept_pw, kept_ite, ite_self, modYard_kept, sendPfc_kept]
    | split
    | refine (kept_foldl (fun _ _ => ?_) _ _).trans ?_

theorem spillModes_kept (s : Chip) : kept (spillModes s) = kept s := by
  unfold spillModes
  repeat' first
    | with_reducible rfl
    | simp only [kept_mk, kept_pw, kept_ite, ite_self, modQueueSt_kept, setQueue_kept]
    | split
    | refine (kept_foldl (fun _ _ => ?_) _ _).trans ?_

theorem rebuildMap_kept (q : Nat) (s : Chip) : kept (rebuildMap q s) = kept s := by
  simp only [rebuildMap, kept_mk, kept_pw, kept_ite, ite_self, modQuarry_kept]

theorem relimit_kept (y : Nat) (s : Chip) : kept (relimit y s) = kept s := by
  unfold relimit
  repeat' first
    | with_reducible rfl
    | simp only [kept_mk, kept_pw, kept_ite, ite_self, setLive_kept, setShadow_kept]
    | split
    | refine (kept_foldl (fun _ _ => ?_) _ _).trans ?_

theorem spillKeyDrain_kept (s : Chip) : kept (spillKeyDrain s) = kept s := by
  unfold spillKeyDrain
  (repeat' split) <;> first | rfl | simp only [kept_mk, kept_pw, kept_ite, ite_self]

theorem account_kept (s : Chip) : kept (account s) = kept s := by
  unfold account
  rw [noteStale_kept, spillKeyDrain_kept]
  refine (kept_foldl (fun s q => rebuildMap_kept ..) _ _).trans ?_
  rw [spillModes_kept, xoffUpdate_kept]

theorem setGroup_kept (g : Nat) (v : Option Group) (s : Chip) : kept (setGroup g v s) = kept s := by rfl

theorem regroupPort_kept (p : Nat) (s : Chip) : kept (regroupPort p s) = kept s := by rfl

theorem recclkHold_kept (f : Nat → Bool) (s : Chip) : kept (recclkHold f s) = kept s := by rfl

theorem recclkResume_kept (f : Nat → Bool) (s : Chip) : kept (recclkResume f s) = kept s := by rfl

theorem cutTx_kept (p : Nat) (s : Chip) : kept (cutTx p s) = kept s := by
  unfold cutTx
  repeat' first
    | with_reducible rfl
    | simp only [kept_mk, kept_pw, kept_ite, ite_self, modPkt_kept, startDiscard_kept]
    | split
    | refine (kept_foldl (fun _ _ => ?_) _ _).trans ?_

theorem cutRx_kept (p : Nat) (s : Chip) : kept (cutRx p s) = kept s := by rfl

theorem portTo_kept (p : Nat) (st : PortState) (s : Chip) : kept (portTo p st s) = kept s := by
  unfold portTo
  (repeat' split) <;> first | rfl | simp only [kept_mk, kept_pw, kept_ite, ite_self, account_kept, cutRx_kept, cutTx_kept, emit_kept,
      modPort_kept, recclkHold_kept, regroupPort_kept, setPort_kept]

theorem portToUp_kept (p : Nat) (s : Chip) : kept (portToUp p s) = kept s := by
  simp only [portToUp, kept_mk, kept_pw, kept_ite, ite_self, modPort_kept, recclkResume_kept, regroupPort_kept]

theorem holdPorts_kept (k : Nat) (s : Chip) : kept (holdPorts k s) = kept s := by
  unfold holdPorts
  repeat' first
    | with_reducible rfl
    | simp only [kept_mk, kept_pw, kept_ite, ite_self, portTo_kept]
    | split
    | refine (kept_foldl (fun _ _ => ?_) _ _).trans ?_

theorem unholdPorts_kept (k : Nat) (s : Chip) : kept (unholdPorts k s) = kept s := by
  unfold unholdPorts
  repeat' first
    | with_reducible rfl
    | simp only [kept_mk, kept_pw, kept_ite, ite_self, portTo_kept]
    | split
    | refine (kept_foldl (fun _ _ => ?_) _ _).trans ?_

theorem rehold_kept (s0 s : Chip) : kept (rehold s0 s) = kept s := by
  unfold rehold
  repeat' first
    | with_reducible rfl
    | simp only [kept_mk, kept_pw, kept_ite, ite_self, holdPorts_kept, unholdPorts_kept]
    | split
    | refine (kept_foldl (fun _ _ => ?_) _ _).trans ?_

theorem lanesDown_kept (k : Nat) (s : Chip) : kept (lanesDown k s) = kept s := by
  unfold lanesDown
  repeat' first
    | with_reducible rfl
    | simp only [kept_mk, kept_pw, kept_ite, ite_self, modLane_kept]
    | split
    | refine (kept_foldl (fun _ _ => ?_) _ _).trans ?_

theorem portsDown_kept (k : Nat) (s : Chip) : kept (portsDown k s) = kept s := by
  unfold portsDown
  repeat' first
    | with_reducible rfl
    | simp only [kept_mk, kept_pw, kept_ite, ite_self, portTo_kept]
    | split
    | refine (kept_foldl (fun _ _ => ?_) _ _).trans ?_

theorem finishOrder_kept (ring : Nat) (st : Status) (res : DWord) (s : Chip) : kept (finishOrder ring st res s) = kept s := by rfl

theorem errUpdate_kept (s : Chip) : kept (errUpdate s) = kept s := by rfl

theorem classUpdate_kept (s : Chip) : kept (classUpdate s) = kept s := by rfl

theorem modSm_kept (n : Nat) (f : SmSt → SmSt) (s : Chip) : kept (modSm n f s) = kept s := by rfl

theorem giveUp_kept (ring : Nat) (c : Instr) (s : Chip) : kept (giveUp ring c s) = kept s := by
  unfold giveUp
  repeat' first
    | with_reducible rfl
    | simp only [kept_mk, kept_pw, kept_ite, ite_self, modCab_kept]
    | split
    | refine (kept_foldl (fun _ _ => ?_) _ _).trans ?_

theorem abandonCall_kept (n : Nat) (st : Status) (s : Chip) : kept (abandonCall n st s) = kept s := by
  unfold abandonCall
  repeat' first
    | with_reducible rfl
    | simp only [kept_mk, kept_pw, kept_ite, ite_self, finishOrder_kept, giveUp_kept, modSm_kept, setStaged_kept]
    | split
    | refine (kept_foldl (fun _ _ => ?_) _ _).trans ?_

theorem lapseOrders_kept (s : Chip) : kept (lapseOrders s) = kept s := by
  unfold lapseOrders
  repeat' first
    | with_reducible rfl
    | simp only [kept_mk, kept_pw, kept_ite, ite_self, finishOrder_kept, giveUp_kept]
    | split
    | refine (kept_foldl (fun _ _ => ?_) _ _).trans ?_

theorem fenceSm_kept (n : Nat) (s : Chip) : kept (fenceSm n s) = kept s := by
  simp only [fenceSm, kept_mk, kept_pw, kept_ite, ite_self, abandonCall_kept, lapseOrders_kept, modSm_kept]

theorem setFence_kept (i : Isl) (cause : Nat) (s : Chip) : kept (setFence i cause s) = kept s := by rfl

theorem dropRx_kept (i : Isl) (reason : Nat) (f : RxFrame) (s : Chip) : kept (dropRx i reason f s) = kept s := by
  simp only [dropRx, kept_mk, kept_pw, kept_ite, ite_self, dropWaybill_kept, hostOutcome_kept]

theorem dropJn_kept (i : Isl) (reason : Nat) (f : JnFrame) (s : Chip) : kept (dropJn i reason f s) = kept s := by
  simp only [dropJn, kept_mk, kept_pw, kept_ite, ite_self, dropWaybill_kept, hostOutcome_kept, postOutcome_kept]

theorem clearIline_kept (reason n : Nat) (s : Chip) : kept (clearIline reason n s) = kept s := by
  unfold clearIline
  repeat' first
    | with_reducible rfl
    | simp only [kept_mk, kept_pw, kept_ite, ite_self, dropRx_kept, modPkt_kept]
    | split
    | refine (kept_foldl (fun _ _ => ?_) _ _).trans ?_

theorem clearEline_kept (reason n : Nat) (s : Chip) : kept (clearEline reason n s) = kept s := by
  unfold clearEline
  repeat' first
    | with_reducible rfl
    | simp only [kept_mk, kept_pw, kept_ite, ite_self, dropCopy_kept, dropRx_kept, modPkt_kept]
    | split
    | refine (kept_foldl (fun _ _ => ?_) _ _).trans ?_

theorem stompTx_kept (t : TxCopy) (s : Chip) : kept (stompTx t s) = kept s := by
  simp only [stompTx, kept_mk, kept_pw, kept_ite, ite_self, bump_kept, emit_kept, finishWaybill_kept, freeTake_kept, hostOutcome_kept,
      modPkt_kept, releaseCopy_kept]

theorem emptyChannels_kept (q : Nat) (s : Chip) : kept (emptyChannels q s) = kept s := by
  unfold emptyChannels
  repeat' first
    | with_reducible rfl
    | simp only [kept_mk, kept_pw, kept_ite, ite_self, modChan_kept]
    | split
    | refine (kept_foldl (fun _ _ => ?_) _ _).trans ?_

theorem clearYard_kept (y : Nat) (s : Chip) : kept (clearYard y s) = kept s := by
  unfold clearYard
  repeat' first
    | with_reducible rfl
    | simp only [kept_mk, kept_pw, kept_ite, ite_self, dropCopy_kept, dropQueued_kept, emptyChannels_kept, modPkt_kept, modQuarry_kept,
        modYard_kept, stompTx_kept]
    | split
    | refine (kept_foldl (fun _ _ => ?_) _ _).trans ?_

theorem clearQuarry_kept (q : Nat) (s : Chip) : kept (clearQuarry q s) = kept s := by
  simp only [clearQuarry, kept_mk, kept_pw, kept_ite, ite_self, dropQueued_kept, emptyChannels_kept, modQuarry_kept]

theorem clearJn_kept (h : Nat) (s : Chip) : kept (clearJn h s) = kept s := by
  unfold clearJn
  repeat' first
    | with_reducible rfl
    | simp only [kept_mk, kept_pw, kept_ite, ite_self, dropJn_kept, dropWaybill_kept, modPkt_kept]
    | split
    | refine (kept_foldl (fun _ _ => ?_) _ _).trans ?_

theorem clearEngines_kept (s : Chip) : kept (clearEngines s) = kept s := by
  unfold clearEngines
  repeat' first
    | with_reducible rfl
    | simp only [kept_mk, kept_pw, kept_ite, ite_self, finishOrder_kept]
    | split
    | refine (kept_foldl (fun _ _ => ?_) _ _).trans ?_

theorem engineOutOfUse_kept (e : Nat) (s : Chip) : kept (engineOutOfUse e s) = kept s := by
  unfold engineOutOfUse
  repeat' first
    | with_reducible rfl
    | simp only [kept_mk, kept_pw, kept_ite, ite_self, finishOrder_kept]
    | split
    | refine (kept_foldl (fun _ _ => ?_) _ _).trans ?_

theorem cancelPrepared_kept (n : Nat) (s : Chip) : kept (cancelPrepared n s) = kept s := by rfl

theorem reliefFence_kept (n : Nat) (s : Chip) : kept (reliefFence n s) = kept s := by
  unfold reliefFence
  repeat' first
    | with_reducible rfl
    | simp only [kept_mk, kept_pw, kept_ite, ite_self, setServing_kept]
    | split
    | refine (kept_foldl (fun _ _ => ?_) _ _).trans ?_

theorem cancelCommit_kept (n : Nat) (s : Chip) : kept (cancelCommit n s) = kept s := by
  unfold cancelCommit
  (repeat' split) <;> first | rfl | simp only [kept_mk, kept_pw, kept_ite, ite_self, finishOrder_kept, modPkt_kept]

theorem endRetrain_kept (st st' : Status) (c : Nat) (s : Chip) : kept (endRetrain st st' c s) = kept s := by
  unfold endRetrain
  repeat' first
    | with_reducible rfl
    | simp only [kept_mk, kept_pw, kept_ite, ite_self, finishOrder_kept, modChan_kept]
    | split
    | refine (kept_foldl (fun _ _ => ?_) _ _).trans ?_

theorem fenceLine_kept (egress : Bool) (n cause : Nat) (s : Chip) : kept (fenceLine egress n cause s) = kept s := by
  simp only [fenceLine, kept_mk, kept_pw, kept_ite, ite_self, clearEline_kept, clearIline_kept, setFence_kept]

theorem fencePlatform_kept (k cause : Nat) (s : Chip) : kept (fencePlatform k cause s) = kept s := by
  simp only [fencePlatform, kept_mk, kept_pw, kept_ite, ite_self, lanesDown_kept, portsDown_kept, setFence_kept]

theorem fenceIsland_kept (i : Isl) (cause : Nat) (s : Chip) : kept (fenceIsland i cause s) = kept s := by
  unfold fenceIsland
  repeat' first
    | with_reducible rfl
    | simp only [kept_mk, kept_pw, kept_ite, ite_self, cancelCommit_kept, cancelPrepared_kept, clearEngines_kept, clearJn_kept,
        clearQuarry_kept, clearYard_kept, endRetrain_kept, fenceLine_kept, fencePlatform_kept, finishOrder_kept, modQuarry_kept,
            rehold_kept, reliefFence_kept, relimit_kept, setFence_kept, spillKeyDrain_kept]
    | split
    | refine (kept_foldl (fun _ _ => ?_) _ _).trans ?_

theorem fenceTile_kept (t cause : Nat) (s : Chip) : kept (fenceTile t cause s) = kept s := by
  unfold fenceTile
  repeat' first
    | with_reducible rfl
    | simp only [kept_mk, kept_pw, kept_ite, ite_self, fencePlatform_kept]
    | split
    | refine (kept_foldl (fun _ _ => ?_) _ _).trans ?_

theorem fenceChannel_kept (q k cause : Nat) (s : Chip) : kept (fenceChannel q k cause s) = kept s := by
  simp only [fenceChannel, kept_mk, kept_pw, kept_ite, ite_self, bump_kept, dropQueued_kept, endRetrain_kept, fenceIsland_kept,
      modChan_kept, modQuarry_kept, rebuildMap_kept, spillKeyDrain_kept]

theorem fenceFor_kept (i : Isl) (loc : Nat) (s : Chip) : kept (fenceFor i loc s) = kept s := by
  unfold fenceFor
  (repeat' split) <;> first | rfl | simp only [kept_mk, kept_pw, kept_ite, ite_self, engineOutOfUse_kept, fenceChannel_kept,
      fenceIsland_kept, fenceSm_kept, fenceTile_kept]

theorem dropAllFrames_kept (s : Chip) : kept (dropAllFrames s) = kept s := by
  unfold dropAllFrames
  repeat' first
    | with_reducible rfl
    | simp only [kept_mk, kept_pw, kept_ite, ite_self, clearEline_kept, clearIline_kept, clearJn_kept, dropQueued_kept, modPkt_kept,
        modYard_kept, spillKeyDrain_kept]
    | split
    | refine (kept_foldl (fun _ _ => ?_) _ _).trans ?_

theorem startHold_kept (src own : Nat) (s : Chip) : kept (startHold src own s) = kept s := by
  simp only [startHold, kept_mk, kept_pw, kept_ite, ite_self, dropAllFrames_kept]

theorem raiseIn_kept (cabin : Bool) (i : Isl) (loc cls sev : Nat) (s : Chip) : kept (raiseIn cabin i loc cls sev s) = kept s := by
  simp only [raiseIn, kept_mk, kept_pw, kept_ite, ite_self, account_kept, bumpField_kept, errUpdate_kept, fenceFor_kept, modCab_kept,
      msix_kept, startHold_kept]

theorem raise_kept (i : Isl) (loc cls sev : Nat) (s : Chip) : kept (raise i loc cls sev s) = kept s := by
  simp only [raise, kept_mk, kept_pw, kept_ite, ite_self, raiseIn_kept]

theorem retireLimit_kept (s : Chip) : kept (retireLimit s) = kept s := by
  unfold retireLimit
  repeat' first
    | with_reducible rfl
    | simp only [kept_mk, kept_pw, kept_ite, ite_self, raise_kept]
    | split
    | refine (kept_foldl (fun _ _ => ?_) _ _).trans ?_

theorem settle_kept (s : Chip) : kept (settle s) = kept s := by
  rw [settle, account_kept, retireLimit_kept]

theorem ttEvent_kept (k : Nat) (s : Chip) : kept (ttEvent k s) = kept s := by
  simp only [ttEvent, kept_mk, kept_pw, kept_ite, ite_self, msix_kept]

theorem ppsFall_kept (k : Nat) (s : Chip) : kept (ppsFall k s) = kept s := by rfl

theorem ppsHold_kept (s : Chip) : kept (ppsHold s) = kept s := by
  unfold ppsHold
  repeat' first
    | with_reducible rfl
    | simp only [kept_mk, kept_pw, kept_ite, ite_self, ppsFall_kept]
    | split
    | refine (kept_foldl (fun _ _ => ?_) _ _).trans ?_

theorem ppsTick_kept (s0 : Chip) (k : Nat) (s : Chip) : kept (ppsTick s0 k s) = kept s := by
  simp only [ppsTick, kept_mk, kept_pw, kept_ite, ite_self, emit_kept, ppsFall_kept]

theorem idleTick_kept (s : Chip) : kept (idleTick s) = kept s := by
  simp only [idleTick, kept_mk, kept_pw, kept_ite, ite_self, ppsTick_kept, ttEvent_kept]

theorem clearSecys_kept (k : Nat) (s : Chip) : kept (clearSecys k s) = kept s := by rfl

theorem clearMons_kept (i : Isl) (s : Chip) : kept (clearMons i s) = kept s := by rfl

theorem resetLine_kept (egress : Bool) (n : Nat) (s : Chip) : kept (resetLine egress n s) = kept s := by
  simp only [resetLine, kept_mk, kept_pw, kept_ite, ite_self, modLine_kept, modPkt_kept]

theorem resetIsland_kept (i : Isl) (s : Chip) : kept (resetIsland i s) = kept s := by
  unfold resetIsland
  repeat' first
    | with_reducible rfl
    | simp only [kept_mk, kept_pw, kept_ite, ite_self, clearMons_kept, clearSecys_kept, endRetrain_kept, lanesDown_kept, modChan_kept,
        modLane_kept, modPkt_kept, resetLine_kept, resetWords_kept]
    | split
    | refine (kept_foldl (fun _ _ => ?_) _ _).trans ?_

theorem dropCopyOf_kept (t : Nat) (s : Chip) : kept (dropCopyOf t s) = kept s := by rfl

theorem unlockTile_kept (t : Nat) (s : Chip) : kept (unlockTile t s) = kept s := by
  simp only [unlockTile, kept_mk, kept_pw, kept_ite, ite_self, dropCopyOf_kept, raise_kept]

theorem causewayUp_kept (t : Nat) (w : Word) (s : Chip) : kept (causewayUp t w s) = kept s := by
  simp only [causewayUp, kept_mk, kept_pw, kept_ite, ite_self, unlockTile_kept]

theorem causewayOff_kept (t : Nat) (s : Chip) : kept (causewayOff t s) = kept s := by rfl

theorem tileDown_kept (t : Nat) (s : Chip) : kept (tileDown t s) = kept s := by
  unfold tileDown
  repeat' first
    | with_reducible rfl
    | simp only [kept_mk, kept_pw, kept_ite, ite_self, lanesDown_kept, portsDown_kept]
    | split
    | refine (kept_foldl (fun _ _ => ?_) _ _).trans ?_

theorem causewayFail_kept (t : Nat) (s : Chip) : kept (causewayFail t s) = kept s := by
  simp only [causewayFail, kept_mk, kept_pw, kept_ite, ite_self, causewayOff_kept, raise_kept, tileDown_kept]

theorem trainCauseway_kept (t : Nat) (env : List (Nat × Word)) (s : Chip) : kept (trainCauseway t env s) = kept s := by
  unfold trainCauseway
  repeat' first
    | with_reducible rfl
    | simp only [kept_mk, kept_pw, kept_ite, ite_self, causewayFail_kept, causewayUp_kept, unlockTile_kept]
    | split
    | refine (kept_foldl (fun _ _ => ?_) _ _).trans ?_

theorem wantDomains_kept (ns : List Nat) (s : Chip) : kept (wantDomains ns s) = kept s := by rfl

theorem fillBuckets_kept (q : Nat) (s : Chip) : kept (fillBuckets q s) = kept s := by
  simp only [fillBuckets, kept_mk, kept_pw, kept_ite, ite_self, freeTake_kept, modQueueSt_kept]

theorem chargeQueue_kept (q len : Nat) (s : Chip) : kept (chargeQueue q len s) = kept s := by
  simp only [chargeQueue, kept_mk, kept_pw, kept_ite, ite_self, fillBuckets_kept, modQueueSt_kept]

theorem wdogEnter_kept (s : Chip) : kept (wdogEnter s) = kept s := by
  simp only [wdogEnter, kept_mk, kept_pw, kept_ite, ite_self, ppsHold_kept, raise_kept, ttEvent_kept]

theorem clockTick_kept (s : Chip) : kept (clockTick s) = kept s := by
  simp only [clockTick, kept_mk, kept_pw, kept_ite, ite_self, idleTick_kept, wdogEnter_kept]

theorem tickClocks_kept (s : Chip) : kept (tickClocks s) = kept s := by rfl

theorem levelTick_kept (i : Isl) (k d : Nat) (s : Chip) : kept (levelTick i k d s) = kept s := by
  unfold levelTick
  repeat' first
    | with_reducible rfl
    | simp only [kept_mk, kept_pw, kept_ite, ite_self, freeTake_kept, pmcAdd_kept, pmcMark_kept]
    | split
    | refine (kept_foldl (fun _ _ => ?_) _ _).trans ?_

theorem pmcTick_kept (s0 : Chip) : kept (pmcTick s0) = kept s0 := by
  unfold pmcTick
  repeat' first
    | with_reducible rfl
    | simp only [kept_mk, kept_pw, kept_ite, ite_self, levelTick_kept, tickClocks_kept]
    | split
    | refine (kept_foldl (fun _ _ => ?_) _ _).trans ?_

theorem clearRc_kept (i : Isl) (off : Nat) (s : Chip) : kept (clearRc i off s) = kept s := by
  unfold clearRc
  repeat' first
    | with_reducible rfl
    | simp only [kept_mk, kept_pw, kept_ite, ite_self, setLive_kept]
    | split
    | refine (kept_foldl (fun _ _ => ?_) _ _).trans ?_

theorem readOnce_kept (live : Bool) (i : Isl) (off : Nat) (s : Chip) : kept ((readOnce live i off s).2) = kept s := by
  simp only [readOnce, kept_mk, kept_pw, kept_ite, ite_self, clearRc_kept]

theorem recclkUpdate_kept (s : Chip) : kept (recclkUpdate s) = kept s := by rfl

theorem afterCommit_kept (i : Isl) (s : Chip) : kept (afterCommit i s) = kept s := by
  unfold afterCommit
  (repeat' split) <;> first | rfl | simp only [kept_mk, kept_pw, kept_ite, ite_self, modQuarry_kept, ppsHold_kept, rebuildMap_kept,
      recclkUpdate_kept]

theorem commitIsl_kept (i : Isl) (s : Chip) : kept (commitIsl i s).2 = kept s := by
  unfold commitIsl
  rw [afterCommit_kept]
  refine (kept_foldl_snd (fun r p => ?_) _ _).trans (kept_mk ..)
  exact (setShadow_kept ..).trans (setLive_kept ..)

theorem commitAll_kept (is : List Isl) (s : Chip) : kept (commitAll is s).2 = kept s := by
  unfold commitAll
  refine kept_foldl_snd (fun r i => ?_) _ _
  exact commitIsl_kept ..

theorem modRing_kept (r : Nat) (f : RingSt → RingSt) (s : Chip) : kept (modRing r f s) = kept s := by rfl

theorem ringEvent_kept (s : Chip) : kept (ringEvent s) = kept s := by
  simp only [ringEvent, kept_mk, kept_pw, kept_ite, ite_self, msix_kept]

theorem stopRing_kept (ring : Nat) (s : Chip) : kept (stopRing ring s) = kept s := by
  simp only [stopRing, kept_mk, kept_pw, kept_ite, ite_self, modRing_kept, ringEvent_kept]

theorem noteFence_kept (seq : Nat) (fence : Bool) (s : Chip) : kept (noteFence seq fence s) = kept s := by rfl

theorem startOrder_kept (ring : Nat) (o : OrderFetch) (s : Chip) : kept (startOrder ring o s) = kept s := by
  unfold startOrder
  repeat' first
    | with_reducible rfl
    | simp only [kept_mk, kept_pw, kept_ite, ite_self, modRing_kept, noteFence_kept, pmcCount_kept, ringEvent_kept, stopRing_kept]
    | split
    | refine (kept_foldl (fun _ _ => ?_) _ _).trans ?_

theorem countClamp_kept (n : Nat) (s : Chip) : kept (countClamp n s) = kept s := by
  simp only [countClamp, kept_mk, kept_pw, kept_ite, ite_self, bump_kept, raise_kept]

theorem modDma_kept (q : Nat) (f : RingSt → RingSt) (s : Chip) : kept (modDma q f s) = kept s := by rfl

theorem modQ_kept (dma : Bool) (n : Nat) (f : RingSt → RingSt) (s : Chip) : kept (modQ dma n f s) = kept s := by
  simp only [modQ, kept_mk, kept_pw, kept_ite, ite_self, modDma_kept, modRing_kept]

theorem cfgErr_kept (dma : Bool) (n : Nat) (s : Chip) : kept (cfgErr dma n s) = kept s := by
  simp only [cfgErr, kept_mk, kept_pw, kept_ite, ite_self, modQ_kept, ringEvent_kept]

theorem discardIssued_kept (dma : Bool) (n : Nat) (s : Chip) : kept (discardIssued dma n s) = kept s := by
  simp only [discardIssued, kept_mk, kept_pw, kept_ite, ite_self, modQ_kept]

theorem writeRingCfg_kept (dma : Bool) (n k : Nat) (value mask : Word) (s : Chip) : kept (writeRingCfg dma n k value mask s) = kept s := by
  simp only [writeRingCfg, kept_mk, kept_pw, kept_ite, ite_self, cfgErr_kept, discardIssued_kept, modQ_kept]

theorem ringTail_kept (n i : Nat) (fences : List Nat) (s : Chip) : kept (ringTail n i fences s) = kept s := by
  simp only [ringTail, kept_mk, kept_pw, kept_ite, ite_self, cfgErr_kept, modRing_kept]

theorem cplHead_kept (dma : Bool) (n j : Nat) (s : Chip) : kept (cplHead dma n j s) = kept s := by
  simp only [cplHead, kept_mk, kept_pw, kept_ite, ite_self, cfgErr_kept, modQ_kept]

theorem dmaTail_kept (q i : Nat) (ds : List (Option (List Byte))) (s : Chip) : kept (dmaTail q i ds s) = kept s := by
  simp only [dmaTail, kept_mk, kept_pw, kept_ite, ite_self, cfgErr_kept, modDma_kept]

theorem stopDma_kept (q : Nat) (s : Chip) : kept (stopDma q s) = kept s := by
  simp only [stopDma, kept_mk, kept_pw, kept_ite, ite_self, modDma_kept, ringEvent_kept]

theorem cfgRow_kept (dma : Bool) (n : Nat) (cfg : Word) (s : Chip) : kept (cfgRow dma n cfg s) = kept s := by
  simp only [cfgRow, kept_mk, kept_pw, kept_ite, ite_self, writeRingCfg_kept]

theorem writeMsix_kept (k : Nat) (w : Word) (s : Chip) : kept (writeMsix k w s) = kept s := by
  simp only [writeMsix, kept_mk, kept_pw, kept_ite, ite_self, emit_kept, msix_kept]

theorem blockCommit_kept (islands : Nat) (s : Chip) : kept ((blockCommit islands s).2.2) = kept s := by
  unfold blockCommit
  repeat' first
    | with_reducible rfl
    | simp only [kept_mk, kept_pw, kept_ite, ite_self, commitAll_kept, countFencedReq_kept, settle_kept]
    | split
    | refine (kept_foldl (fun _ _ => ?_) _ _).trans ?_

theorem modInst_kept (egress : Bool) (n iid : Nat) (f : Inst → Inst) (s : Chip) : kept (modInst egress n iid f s) = kept s := by
  simp only [modInst, kept_mk, kept_pw, kept_ite, ite_self, modLine_kept]

theorem lineCount_kept (egress : Bool) (n off k : Nat) (s : Chip) : kept (lineCount egress n off k s) = kept s := by
  simp only [lineCount, kept_mk, kept_pw, kept_ite, ite_self, bump_kept]

theorem programLoad_kept (o : LoadOps) (s : Chip) : kept ((programLoad o s).2.2) = kept s := by
  unfold programLoad
  repeat' first
    | with_reducible rfl
    | simp only [kept_mk, kept_pw, kept_ite, ite_self, countFencedReq_kept, modLine_kept]
    | split
    | refine (kept_foldl (fun _ _ => ?_) _ _).trans ?_

theorem parserLoad_kept (o : LoadOps) (s : Chip) : kept ((parserLoad o s).2.2) = kept s := by
  unfold parserLoad
  repeat' first
    | with_reducible rfl
    | simp only [kept_mk, kept_pw, kept_ite, ite_self, countFencedReq_kept, modLine_kept]
    | split
    | refine (kept_foldl (fun _ _ => ?_) _ _).trans ?_

theorem switchLines_kept (egress drains : Bool) (ns : List Nat) (s : Chip) : kept (switchLines egress drains ns s) = kept s := by
  unfold switchLines
  repeat' first
    | with_reducible rfl
    | simp only [kept_mk, kept_pw, kept_ite, ite_self, lineCount_kept, modLine_kept]
    | split
    | refine (kept_foldl (fun _ _ => ?_) _ _).trans ?_

theorem restartRnd_kept (egress : Bool) (n : Nat) (s : Chip) : kept (restartRnd egress n s) = kept s := by
  simp only [restartRnd, kept_mk, kept_pw, kept_ite, ite_self, modLine_kept]

theorem commitEpoch_kept (lines ageMs : Nat) (s : Chip) : kept ((commitEpoch lines ageMs s).2) = kept s := by
  unfold commitEpoch
  repeat' first
    | with_reducible rfl
    | simp only [kept_mk, kept_pw, kept_ite, ite_self, commitAll_kept, modPkt_kept, noteStale_kept, restartRnd_kept, switchLines_kept]
    | split
    | refine (kept_foldl (fun _ _ => ?_) _ _).trans ?_

theorem commitResult_kept (lines ageMs waited : Nat) (s : Chip) : kept ((commitResult lines ageMs waited s).2.2) = kept s := by
  simp only [commitResult, kept_mk, kept_pw, kept_ite, ite_self, commitEpoch_kept]

theorem retireEpoch_kept (s : Chip) : kept (retireEpoch s) = kept s := by
  unfold retireEpoch
  repeat' first
    | with_reducible rfl
    | simp only [kept_mk, kept_pw, kept_ite, ite_self, lineCount_kept, modPkt_kept, noteStale_kept]
    | split
    | refine (kept_foldl (fun _ _ => ?_) _ _).trans ?_

theorem epochSummary_kept (s : Chip) : kept ((epochSummary s).2.2) = kept s := by rfl

theorem epochBank_kept (o : EpochBankOps) (s : Chip) : kept ((epochBank o s).2.2) = kept s := by
  unfold epochBank
  repeat' first
    | with_reducible rfl
    | simp only [kept_mk, kept_pw, kept_ite, ite_self, countFencedReq_kept]
    | split
    | refine (kept_foldl (fun _ _ => ?_) _ _).trans ?_

theorem modSecy_kept (p : Nat) (f : SecySt → SecySt) (s : Chip) : kept (modSecy p f s) = kept s := by rfl

theorem msCount_kept (p off : Nat) (s : Chip) : kept (msCount p off s) = kept s := by
  simp only [msCount, kept_mk, kept_pw, kept_ite, ite_self, bump_kept]

theorem setRxSa_kept (p an : Nat) (a : SaSt) (s : Chip) : kept (setRxSa p an a s) = kept s := by rfl

theorem secOpen_kept (p : Nat) (f : List Byte) (s : Chip) : kept (secOpen p f s).2 = kept s := by
  unfold secOpen
  repeat' first
    | with_reducible rfl
    | simp only [msCount_kept, setRxSa_kept]
    | split

theorem secReceive_kept (p : Nat) (f : List Byte) (s : Chip) : kept (secReceive p f s).2 = kept s := by
  unfold secReceive
  repeat' first
    | with_reducible rfl
    | simp only [msCount_kept, secOpen_kept]
    | split

theorem linkParity_kept (p k : Nat) (s : Chip) : kept (linkParity p k s) = kept s := by
  simp only [linkParity, kept_mk, kept_pw, kept_ite, ite_self, raise_kept]

theorem setFreeze_kept (l : Nat) (v : Bool) (s : Chip) : kept (setFreeze l v s) = kept s := by
  simp only [setFreeze, kept_mk, kept_pw, kept_ite, ite_self, setLive_kept, setShadow_kept]

theorem adaptLane_kept (l : Nat) (s : Chip) : kept (adaptLane l s) = kept s := by
  simp only [adaptLane, kept_mk, kept_pw, kept_ite, ite_self, modLane_kept]

theorem tuneSetTx_kept (l : Nat) (t : TxSet) (v : Port) (s : Chip) : kept ((tuneSetTx l t v s).2.2) = kept s := by
  unfold tuneSetTx
  (repeat' split) <;> first | rfl | simp only [kept_mk, kept_pw, kept_ite, ite_self, countClamp_kept, modLane_kept]

theorem tuneRelease_kept (l : Nat) (v : Port) (s : Chip) : kept ((tuneRelease l v s).2.2) = kept s := by
  unfold tuneRelease
  (repeat' split) <;> first | rfl | simp only [kept_mk, kept_pw, kept_ite, ite_self, modLane_kept, setFreeze_kept]

theorem faultPort_kept (l : Nat) (s : Chip) : kept (faultPort l s) = kept s := by
  unfold faultPort
  (repeat' split) <;> first | rfl | simp only [kept_mk, kept_pw, kept_ite, ite_self, portTo_kept]

theorem faultLeave_kept (p : Nat) (s : Chip) : kept (faultLeave p s) = kept s := by
  unfold faultLeave
  (repeat' split) <;> first | rfl | simp only [kept_mk, kept_pw, kept_ite, ite_self, portTo_kept]

theorem relockTimeout_kept (l : Nat) (s : Chip) : kept (relockTimeout l s) = kept s := by
  unfold relockTimeout
  (repeat' split) <;> first | rfl | simp only [kept_mk, kept_pw, kept_ite, ite_self, modLane_kept, retrain_kept]

theorem trainFail_kept (l : Nat) (best : TxSet) (margin : Nat) (s : Chip) : kept (trainFail l best margin s) = kept s := by
  unfold trainFail
  split
  · rfl
  · split
    · rfl
    · dsimp only
      split
      · rfl
      · split <;> simp only [bumpField_kept, modLane_kept, modPort_kept, portTo_kept, raise_kept]

theorem markInProgress_kept (p : Nat) (s : Chip) : kept (markInProgress p s) = kept s := by
  simp only [markInProgress, kept_mk, kept_pw, kept_ite, ite_self, modPkt_kept]

theorem recclkFollow_kept (p old new : Nat) (s : Chip) : kept (recclkFollow p old new s) = kept s := by
  unfold recclkFollow
  repeat' first
    | with_reducible rfl
    | simp only [kept_mk, kept_pw, kept_ite, ite_self, setLive_kept, setShadow_kept]
    | split
    | refine (kept_foldl (fun _ _ => ?_) _ _).trans ?_

theorem anAgree_kept (p : Nat) (partner : Partner) (v : Port) (s : Chip) : kept (anAgree p partner v s) = kept s := by
  unfold anAgree
  (repeat' split) <;> first | rfl | simp only [kept_mk, kept_pw, kept_ite, ite_self, emit_kept, modPort_kept, portTo_kept,
      recclkFollow_kept]

theorem lockLane_kept (trained : Bool) (l : Nat) (s : Chip) : kept (lockLane trained l s) = kept s := by
  unfold lockLane
  dsimp only
  rw [adaptLane_kept, modLane_kept]
  split
  · rw [emit_kept, freeTake_kept]
  · rfl

theorem align_kept (p skewNs : Nat) (v : Port) (s : Chip) : kept (align p skewNs v s) = kept s := by
  simp only [align, kept_mk, kept_pw, kept_ite, ite_self, modPort_kept, portToUp_kept, raise_kept]

theorem enterQuiet_kept (p : Nat) (v : Port) (s : Chip) : kept (enterQuiet p v s) = kept s := by
  unfold enterQuiet
  repeat' first
    | with_reducible rfl
    | simp only [kept_mk, kept_pw, kept_ite, ite_self, modLane_kept, modPort_kept, portTo_kept]
    | split
    | refine (kept_foldl (fun _ _ => ?_) _ _).trans ?_

theorem pfcReceive_kept (p classes : Nat) (quanta : List Nat) (v : Port) (s : Chip) : kept (pfcReceive p classes quanta v s) = kept s := by
  simp only [pfcReceive, kept_mk, kept_pw, kept_ite, ite_self, bump_kept, modPort_kept]

theorem xoffAgain_kept (p k : Nat) (v : Port) (s : Chip) : kept (xoffAgain p k v s) = kept s := by
  simp only [xoffAgain, kept_mk, kept_pw, kept_ite, ite_self, emit_kept, pmcCount_kept]

theorem frameEnter_kept (f : FrameIn) (n : Nat) (v : Port) (bytes : List Byte) (bad : Nat) (s : Chip) : kept (frameEnter f n v bytes bad s)
    = kept s := by
  simp only [frameEnter, kept_mk, kept_pw, kept_ite, ite_self, bump_kept, freeTake_kept, modPkt_kept]

theorem frameTake_kept (f : FrameIn) (n : Nat) (v : Port) (s : Chip) : kept (frameTake f n v s) = kept s := by
  unfold frameTake
  dsimp only
  repeat' first
    | with_reducible rfl
    | simp only [bump_kept, frameEnter_kept, linkParity_kept, pfcReceive_kept, pmcCount_kept, secReceive_kept]
    | split

theorem frameReceive_kept (f : FrameIn) (s : Chip) : kept (frameReceive f s) = kept s := by
  unfold frameReceive
  repeat' first
    | with_reducible rfl
    | simp only [kept_mk, kept_pw, kept_ite, ite_self, bump_kept, frameTake_kept, settle_kept]
    | split
    | refine (kept_foldl (fun _ _ => ?_) _ _).trans ?_

theorem refuseCopy_kept (y reason : Nat) (f : JnFrame) (c : CopyPlan) (s : Chip) : kept (refuseCopy y reason f c s) = kept s := by
  simp only [refuseCopy, kept_mk, kept_pw, kept_ite, ite_self, dropWaybill_kept]

theorem appendCopy_kept (y n : Nat) (f : JnFrame) (c : CopyPlan) (s : Chip) : kept (appendCopy y n f c s) = kept s := by rfl

theorem yardDecide_kept (y : Nat) (f : JnFrame) (cs : List CopyPlan) (s : Chip) : kept ((yardDecide y f cs s).2) = kept s := by
  unfold yardDecide
  repeat' first
    | with_reducible rfl
    | simp only [kept_mk, kept_pw, kept_ite, ite_self, appendCopy_kept, bump_kept, countFencedReq_kept, countRefusal_kept,
        freeBytesTake_kept, grant_kept, modPkt_kept, refuseCopy_kept]
    | split
    | refine (kept_foldl (fun _ _ => ?_) _ _).trans ?_

theorem hostFormed_kept (f : JnFrame) (plans admitted : Nat) (waits : Bool) (s : Chip) : kept (hostFormed f plans admitted waits s) = kept
    s := by
  simp only [hostFormed, kept_mk, kept_pw, kept_ite, ite_self, hostOutcome_kept, postOutcome_kept]

theorem noCopy_kept (f : JnFrame) (plans : List CopyPlan) (s : Chip) : kept (noCopy f plans s) = kept s := by
  simp only [noCopy, kept_mk, kept_pw, kept_ite, ite_self, dropWaybill_kept, hostOutcome_kept]

theorem formCopies_kept (f : JnFrame) (s : Chip) : kept (formCopies f s) = kept s := by
  unfold formCopies
  repeat' first
    | with_reducible rfl
    | simp only [kept_mk, kept_pw, kept_ite, ite_self, bump_kept, hostFormed_kept, noCopy_kept, pmcCount_kept, yardDecide_kept]
    | split
    | refine (kept_foldl (fun _ _ => ?_) _ _).trans ?_
    | refine (kept_foldl_snd (fun _ _ => ?_) _ _).trans ?_
    | dsimp only

theorem headerDefect_kept (d : HeaderDefect) (s : Chip) : kept (headerDefect d s) = kept s := by
  unfold headerDefect
  (repeat' split) <;> first | rfl | simp only [kept_mk, kept_pw, kept_ite, ite_self, raise_kept]

theorem junctionStep_kept (half : Nat) (d : HeaderDefect) (s : Chip) : kept (junctionStep half d s) = kept s := by
  unfold junctionStep
  repeat' first
    | with_reducible rfl
    | simp only [kept_mk, kept_pw, kept_ite, ite_self, formCopies_kept, headerDefect_kept, modPkt_kept]
    | split
    | refine (kept_foldl (fun _ _ => ?_) _ _).trans ?_

theorem lastCell_kept (fid : Nat) (s : Chip) : kept (lastCell fid s) = kept s := by
  unfold lastCell
  repeat' first
    | with_reducible rfl
    | simp only [kept_mk, kept_pw, kept_ite, ite_self, modPkt_kept, returnUnused_kept, setShare_kept]
    | split
    | refine (kept_foldl (fun _ _ => ?_) _ _).trans ?_

theorem retireCell_kept (k : Nat) (c : Copy) (s : Chip) : kept ((retireCell k c s).2) = kept s := by
  unfold retireCell
  repeat' first
    | with_reducible rfl
    | simp only [kept_mk, kept_pw, kept_ite, ite_self, freeCells_kept, setShare_kept]
    | split
    | refine (kept_foldl (fun _ _ => ?_) _ _).trans ?_

theorem cellFault_kept (y : Nat) (r : Repeat) (s : Chip) : kept (cellFault y r s) = kept s := by
  unfold cellFault
  (repeat' split) <;> first | rfl | simp only [kept_mk, kept_pw, kept_ite, ite_self, pmcCount_kept, raise_kept]

theorem keepCopy_kept (c : Copy) (s : Chip) : kept (keepCopy c s) = kept s := by rfl

theorem endMirrors_kept (cid : Nat) (s : Chip) : kept (endMirrors cid s) = kept s := by rfl

theorem endCopy_kept (p : Nat) (t : TxCopy) (s : Chip) : kept (endCopy p t s) = kept s := by
  simp only [endCopy, kept_mk, kept_pw, kept_ite, ite_self, bump_kept, chargeQueue_kept, emit_kept, endMirrors_kept, finishWaybill_kept,
      hostOutcome_kept, modPkt_kept, monSample_kept, pmcCount_kept, releaseCopy_kept]

theorem transmitEnd_kept (p : Nat) (s : Chip) : kept (transmitEnd p s) = kept s := by
  unfold transmitEnd
  repeat' first
    | with_reducible rfl
    | simp only [kept_mk, kept_pw, kept_ite, ite_self, endCopy_kept, settle_kept]
    | split
    | refine (kept_foldl (fun _ _ => ?_) _ _).trans ?_

theorem mirrorWrite_kept (half : Nat) (d : CellDefect) (s : Chip) : kept (mirrorWrite half d s) = kept s := by
  unfold mirrorWrite
  (repeat' split) <;> first | rfl | simp only [kept_mk, kept_pw, kept_ite, ite_self, bump_kept, cellFault_kept, dropWaybill_kept,
      modPkt_kept, yardDecide_kept]

theorem discardWalk_kept (cid : Nat) (s : Chip) : kept (discardWalk cid s) = kept s := by
  unfold discardWalk
  repeat' first
    | with_reducible rfl
    | simp only [kept_mk, kept_pw, kept_ite, ite_self, modPkt_kept, pruneSegs_kept, releaseCopy_kept, settle_kept]
    | split
    | refine (kept_foldl (fun _ _ => ?_) _ _).trans ?_

theorem reenter_kept (n : Nat) (s : Chip) : kept (reenter n s) = kept s := by
  unfold reenter
  (repeat' split) <;> first | rfl | simp only [kept_mk, kept_pw, kept_ite, ite_self, modPkt_kept]

theorem access_kept (c : Nat) (t : DramTx) (s : Chip) : kept (access c t s) = kept s := by
  simp only [access, kept_mk, kept_pw, kept_ite, ite_self, modChan_kept, modQuarry_kept, pmcCount_kept]

theorem issueTx_kept (c : Nat) (s : Chip) : kept (issueTx c s) = kept s := by
  unfold issueTx
  (repeat' split) <;> first | rfl | simp only [kept_mk, kept_pw, kept_ite, ite_self, access_kept]

theorem issueReads_kept (c id n : Nat) (s : Chip) : kept (issueReads c id n s) = kept s := by
  induction n generalizing s with
  | zero => rfl
  | succ n ih =>
    unfold issueReads
    repeat' first
      | with_reducible rfl
      | rw [ih]
      | simp only [kept_mk, kept_pw, kept_ite, ite_self, issueTx_kept]
      | split

theorem readAll_kept (y id : Nat) (s : Chip) : kept (readAll y id s) = kept s := kept_foldl (fun _ _ => issueReads_kept ..) _ _

theorem tickChannels_kept (s : Chip) : kept (tickChannels s) = kept s := by
  unfold tickChannels
  repeat' first
    | with_reducible rfl
    | simp only [kept_mk, kept_pw, kept_ite, ite_self, issueTx_kept]
    | split
    | refine (kept_foldl (fun _ _ => ?_) _ _).trans ?_

theorem enqueueTx_kept (q id : Nat) (write : Bool) (l : List (Nat × Nat)) (s : Chip) : kept (enqueueTx q id write l s) = kept s := by
  unfold enqueueTx
  repeat' first
    | with_reducible rfl
    | simp only [kept_mk, kept_pw, kept_ite, ite_self, modChan_kept, modQuarry_kept]
    | split
    | refine (kept_foldl (fun _ _ => ?_) _ _).trans ?_

theorem markBad_kept (q cid : Nat) (s : Chip) : kept (markBad q cid s) = kept s := by
  unfold markBad
  repeat' first
    | with_reducible rfl
    | simp only [kept_mk, kept_pw, kept_ite, ite_self, keepCopy_kept, setShare_kept]
    | split
    | refine (kept_foldl (fun _ _ => ?_) _ _).trans ?_

theorem segDefect_kept (q y : Nat) (cells : List (Nat × Nat)) (d : CellDefect) (s : Chip) : kept (segDefect q y cells d s) = kept s := by
  unfold segDefect
  (repeat' split) <;> first | rfl | simp only [kept_mk, kept_pw, kept_ite, ite_self, cellFault_kept, markBad_kept, retireCell_kept]

theorem countNoSlot_kept (q y : Nat) (x : Nat × Nat) (s : Chip) : kept (countNoSlot q y x s) = kept s := by
  simp only [countNoSlot, kept_mk, kept_pw, kept_ite, ite_self, bump_kept, modQuarry_kept]

theorem putSegment_kept (q y slot k : Nat) (key : List Byte) (cells : List (Nat × Nat)) (s : Chip) : kept (putSegment q y slot k key cells
    s) = kept s := by
  simp only [putSegment, kept_mk, kept_pw, kept_ite, ite_self, bump_kept, emit_kept, enqueueTx_kept, freeTake_kept, modPkt_kept,
      modQuarry_kept, modQueueSt_kept]

theorem writeSegment_kept (q : Nat) (d : CellDefect) (s : Chip) : kept (writeSegment q d s) = kept s := by
  unfold writeSegment
  repeat' first
    | with_reducible rfl
    | simp only [kept_mk, kept_pw, kept_ite, ite_self, countNoSlot_kept, putSegment_kept, segDefect_kept]
    | split
    | refine (kept_foldl (fun _ _ => ?_) _ _).trans ?_

theorem modSeg_kept (y id : Nat) (f : Seg → Seg) (s : Chip) : kept (modSeg y id f s) = kept s := by rfl

theorem handOver_kept (g : Seg) (c : Copy) (s : Chip) : kept (handOver g c s) = kept s := by
  simp only [handOver, kept_mk, kept_pw, kept_ite, ite_self, decShare_kept, keepCopy_kept]

theorem acceptSegment_kept (id : Nat) (s : Chip) : kept (acceptSegment id s) = kept s := by
  unfold acceptSegment
  repeat' first
    | with_reducible rfl
    | simp only [kept_mk, kept_pw, kept_ite, ite_self, handOver_kept, modSeg_kept, pruneSegs_kept]
    | split
    | refine (kept_foldl (fun _ _ => ?_) _ _).trans ?_

theorem prefetch_kept (q : Nat) (s : Chip) : kept (prefetch q s) = kept s := by
  unfold prefetch
  repeat' first
    | with_reducible rfl
    | simp only [kept_mk, kept_pw, kept_ite, ite_self, enqueueTx_kept, modSeg_kept]
    | split
    | refine (kept_foldl (fun _ _ => ?_) _ _).trans ?_

theorem segHeader_kept (y : Nat) (g : Seg) (env : ReturnEnv) (s : Chip) : kept ((segHeader y g env s).2) = kept s := by
  unfold segHeader
  repeat' first
    | with_reducible rfl
    | simp only [kept_mk, kept_pw, kept_ite, ite_self, fenceIsland_kept, raise_kept]
    | split
    | refine (kept_foldl (fun _ _ => ?_) _ _).trans ?_

theorem badCell_kept (y k : Nat) (s : Chip) : kept (badCell y k s) = kept s := by rfl

theorem returnCell_kept (y : Nat) (g : Seg) (x : Nat × Repeat) (s : Chip) : kept (returnCell y g x s) = kept s := by
  unfold returnCell
  (repeat' split) <;> first | rfl | simp only [kept_mk, kept_pw, kept_ite, ite_self, badCell_kept, modSeg_kept, raise_kept]

theorem joinHead_kept (g : Seg) (s : Chip) : kept (joinHead g s) = kept s := by rfl

theorem admitReturns_kept (n q : Nat) (s : Chip) : kept (admitReturns n q s) = kept s := by
  induction n generalizing s with
  | zero => rfl
  | succ n ih =>
    unfold admitReturns
    split
    · rfl
    · dsimp only
      split
      · rfl
      · split
        · rfl
        · rw [ih, pruneTx_kept, modQuarry_kept, joinHead_kept, grant_kept]

theorem returnSegment_kept (id : Nat) (env : ReturnEnv) (s : Chip) : kept (returnSegment id env s) = kept s := by
  unfold returnSegment
  split
  · rfl
  · dsimp only
    split
    · rfl
    · split
      · rw [segHeader_kept, readAll_kept]
      · rw [admitReturns_kept, modSeg_kept]
        refine (kept_foldl (fun s x => returnCell_kept ..) _ _).trans ?_
        rw [bump_kept, segHeader_kept, readAll_kept]

theorem closeRows_kept (c : Nat) (f : Nat → Bool) (s : Chip) : kept (closeRows c f s) = kept s := by rfl

theorem refreshAll_kept (c rank : Nat) (s : Chip) : kept (refreshAll c rank s) = kept s := by
  simp only [refreshAll, kept_mk, kept_pw, kept_ite, ite_self, closeRows_kept, emit_kept, modChan_kept, pmcCount_kept]

theorem refreshBank_kept (c rank : Nat) (s : Chip) : kept (refreshBank c rank s) = kept s := by
  simp only [refreshBank, kept_mk, kept_pw, kept_ite, ite_self, closeRows_kept, emit_kept, modChan_kept, pmcCount_kept]

theorem payRefresh_kept (c rank n : Nat) (s : Chip) : kept (payRefresh c rank n s) = kept s := by
  induction n generalizing s with
  | zero => rfl
  | succ n ih =>
    unfold payRefresh
    split
    · rfl
    · rw [ih, refreshBank_kept]

theorem refreshRank_kept (c rank : Nat) (s : Chip) : kept (refreshRank c rank s) = kept s := by
  unfold refreshRank
  dsimp only
  split
  · exact refreshAll_kept ..
  · exact payRefresh_kept ..

theorem refresh_kept (c : Nat) (s : Chip) : kept (refresh c s) = kept s := by
  unfold refresh
  repeat' first
    | with_reducible rfl
    | simp only [kept_mk, kept_pw, kept_ite, ite_self, refreshRank_kept]
    | split
    | refine (kept_foldl (fun _ _ => ?_) _ _).trans ?_

theorem mr4_kept (c rank : Nat) (high : Bool) (s : Chip) : kept (mr4 c rank high s) = kept s := by
  simp only [mr4, kept_mk, kept_pw, kept_ite, ite_self, emit_kept, modChan_kept, raise_kept]

theorem idleRow_kept (c bank : Nat) (s : Chip) : kept (idleRow c bank s) = kept s := by
  simp only [idleRow, kept_mk, kept_pw, kept_ite, ite_self, closeRows_kept, emit_kept]

theorem enterSelfRefresh_kept (q : Nat) (s : Chip) : kept (enterSelfRefresh q s) = kept s := by
  unfold enterSelfRefresh
  repeat' first
    | with_reducible rfl
    | simp only [kept_mk, kept_pw, kept_ite, ite_self, bump_kept, closeRows_kept, emit_kept, modQuarry_kept]
    | split
    | refine (kept_foldl (fun _ _ => ?_) _ _).trans ?_

theorem exitSelfRefresh_kept (q : Nat) (s : Chip) : kept (exitSelfRefresh q s) = kept s := by
  unfold exitSelfRefresh
  repeat' first
    | with_reducible rfl
    | simp only [kept_mk, kept_pw, kept_ite, ite_self, emit_kept, modQuarry_kept]
    | split
    | refine (kept_foldl (fun _ _ => ?_) _ _).trans ?_

theorem startRetrain_kept (c : Nat) (s : Chip) : kept (startRetrain c s) = kept s := by rfl

theorem measureOsc_kept (c : Nat) (drift : Option Int) (s : Chip) : kept (measureOsc c drift s) = kept s := by
  unfold measureOsc
  repeat' first
    | with_reducible rfl
    | simp only [kept_mk, kept_pw, kept_ite, ite_self, modChan_kept, modQuarry_kept, startRetrain_kept]
    | split
    | refine (kept_foldl (fun _ _ => ?_) _ _).trans ?_

theorem failChannel_kept (q k : Nat) (s : Chip) : kept (failChannel q k s) = kept s := by
  simp only [failChannel, kept_mk, kept_pw, kept_ite, ite_self, fenceChannel_kept, raise_kept]

theorem retrain_kept (c : Nat) (env : DramEnv) (s : Chip) : kept (retrain c env s) = kept s := by
  unfold retrain
  repeat' first
    | with_reducible rfl
    | simp only [kept_mk, kept_pw, kept_ite, ite_self, endRetrain_kept, failChannel_kept, finishOrder_kept, modChan_kept, trainFail_kept]
    | split
    | refine (kept_foldl (fun _ _ => ?_) _ _).trans ?_

theorem trainChannel_kept (c ranks : Nat) (env : DramEnv) (s : Chip) : kept (trainChannel c ranks env s) = kept s := by rfl

theorem bringUp_kept (q speed channels ranks grain : Nat) (xor' : Bool) (env : DramEnv) (s : Chip) : kept (bringUp q speed channels ranks
    grain xor' env s) = kept s := by
  unfold bringUp
  repeat' first
    | with_reducible rfl
    | simp only [kept_mk, kept_pw, kept_ite, ite_self, failChannel_kept, modPkt_kept, modQuarry_kept, trainChannel_kept]
    | split
    | refine (kept_foldl (fun _ _ => ?_) _ _).trans ?_

theorem planYard_kept (gs : List PlanGroup) (qs : List Nat) (y : Nat) (s : Chip) : kept (planYard gs qs y s) = kept s := by
  simp only [planYard, kept_mk, kept_pw, kept_ite, ite_self, commitIsl_kept, modYard_kept]

theorem derivePlan_kept (s : Chip) : kept (derivePlan s) = kept s := by
  unfold derivePlan
  repeat' first
    | with_reducible rfl
    | simp only [kept_mk, kept_pw, kept_ite, ite_self, planYard_kept]
    | split
    | refine (kept_foldl (fun _ _ => ?_) _ _).trans ?_

theorem deriveWord_kept (i : Isl) (off : Nat) (w : Word) (s : Chip) : kept (deriveWord i off w s) = kept s := by
  unfold deriveWord
  exact (kept_mk ..).trans ((setShadow_kept ..).trans (setLive_kept ..))

theorem setCtrl_kept (q grain : Nat) (xor' : Bool) (s : Chip) : kept (setCtrl q grain xor' s) = kept s := by
  unfold setCtrl
  exact (commitIsl_kept ..).trans (deriveWord_kept ..)

theorem spillEnable_kept (o : SpillEnableOps) (env : DramEnv) (s : Chip) : kept ((spillEnable o env s).2.2) = kept s := by
  unfold spillEnable
  repeat' first
    | with_reducible rfl
    | simp only [kept_mk, kept_pw, kept_ite, ite_self, bringUp_kept, countFencedReq_kept, derivePlan_kept, setCtrl_kept, settle_kept,
        trainFail_kept]
    | split
    | refine (kept_foldl (fun _ _ => ?_) _ _).trans ?_

theorem disableQuarry_kept (q : Nat) (s : Chip) : kept (disableQuarry q s) = kept s := by
  unfold disableQuarry
  rw [settle_kept, derivePlan_kept, commitIsl_kept, modQuarry_kept, modPkt_kept]
  exact (kept_foldl (fun s c => (modChan_kept ..).trans (endRetrain_kept ..)) _ _).trans rfl

theorem disableDone_kept (q : Nat) (s : Chip) : kept (disableDone q s) = kept s := by
  unfold disableDone
  repeat' first
    | with_reducible rfl
    | simp only [kept_mk, kept_pw, kept_ite, ite_self, disableQuarry_kept, finishOrder_kept]
    | split
    | refine (kept_foldl (fun _ _ => ?_) _ _).trans ?_

theorem disableTimeout_kept (q : Nat) (s : Chip) : kept (disableTimeout q s) = kept s := by
  unfold disableTimeout
  (repeat' split) <;> first | rfl | simp only [kept_mk, kept_pw, kept_ite, ite_self, finishOrder_kept, modQuarry_kept]

theorem spillQueue_kept (o : SpillQueueOps) (s : Chip) : kept ((spillQueue o s).2.2) = kept s := by
  unfold spillQueue
  repeat' first
    | with_reducible rfl
    | simp only [kept_mk, kept_pw, kept_ite, ite_self, commitIsl_kept, countFencedReq_kept, derivePlan_kept, deriveWord_kept, settle_kept]
    | split
    | refine (kept_foldl (fun _ _ => ?_) _ _).trans ?_

theorem setRecclk_kept (f : Nat → Word → Word) (s : Chip) : kept (setRecclk f s) = kept s := by
  simp only [setRecclk, kept_mk, kept_pw, kept_ite, ite_self, commitIsl_kept, deriveWord_kept]

theorem resetPortQueues_kept (p : Nat) (s : Chip) : kept (resetPortQueues p s) = kept s := by
  unfold resetPortQueues
  (repeat' split) <;> first | rfl | simp only [kept_mk, kept_pw, kept_ite, ite_self, modPkt_kept]

theorem resetPortWords_kept (p : Nat) (s : Chip) : kept (resetPortWords p s) = kept s := by
  unfold resetPortWords
  exact (kept_foldl (fun s w => deriveWord_kept ..) _ _).trans (deriveWord_kept ..)

theorem disableSecy_kept (p : Nat) (s : Chip) : kept (disableSecy p s) = kept s := by rfl

theorem presetLanes_kept (p : Nat) (mode : Nat) (drop : Bool) (s : Chip) : kept (presetLanes p mode drop s) = kept s := by
  unfold presetLanes
  repeat' first
    | with_reducible rfl
    | simp only [kept_mk, kept_pw, kept_ite, ite_self, modLane_kept, retrain_kept, setFreeze_kept]
    | split
    | refine (kept_foldl (fun _ _ => ?_) _ _).trans ?_

theorem giveUpLanes_kept (ls : List Nat) (s : Chip) : kept (giveUpLanes ls s) = kept s := by
  unfold giveUpLanes
  repeat' first
    | with_reducible rfl
    | simp only [kept_mk, kept_pw, kept_ite, ite_self, modLane_kept, retrain_kept, setFreeze_kept]
    | split
    | refine (kept_foldl (fun _ _ => ?_) _ _).trans ?_

theorem portRemove_kept (p : Nat) (s : Chip) : kept (portRemove p s) = kept s := by
  unfold portRemove
  repeat' first
    | with_reducible rfl
    | simp only [kept_mk, kept_pw, kept_ite, ite_self, commitIsl_kept, derivePlan_kept, dropQueued_kept, giveUpLanes_kept, modPkt_kept,
        portTo_kept, resetPortQueues_kept, setPort_kept, setRecclk_kept, settle_kept]
    | split
    | refine (kept_foldl (fun _ _ => ?_) _ _).trans ?_

theorem setMgmt_kept (n : Nat) (g : Option Mgmt) (s : Chip) : kept (setMgmt n g s) = kept s := by rfl

theorem mgmtConfigure_kept (o : PortSetOps) (s : Chip) : kept (mgmtConfigure o s) = kept s := by
  simp only [mgmtConfigure, kept_mk, kept_pw, kept_ite, ite_self, setMgmt_kept]

theorem handshakeTimeout_kept (waiting silent : Isl) (records : Bool) (s : Chip) : kept (handshakeTimeout waiting silent records s) = kept
    s := by
  simp only [handshakeTimeout, kept_mk, kept_pw, kept_ite, ite_self, fenceIsland_kept, raiseIn_kept, raise_kept]

theorem mapCabs_kept (f : CabSt → CabSt) (s : Chip) : kept (mapCabs f s) = kept s := by rfl

theorem faultAckRun_kept (classes : Nat) (s : Chip) : kept ((faultAckRun classes s).2.2) = kept s := by
  unfold faultAckRun
  (repeat' split) <;> first | rfl | simp only [kept_mk, kept_pw, kept_ite, ite_self, mapCabs_kept]

theorem afterClear_kept (s : Chip) : kept (afterClear s) = kept s := by
  simp only [afterClear, kept_mk, kept_pw, kept_ite, ite_self, classUpdate_kept, errUpdate_kept]

theorem faultClearRun_kept (o : FaultClearOps) (s : Chip) : kept ((faultClearRun o s).2.2) = kept s := by
  unfold faultClearRun
  repeat' first
    | with_reducible rfl
    | simp only [kept_mk, kept_pw, kept_ite, ite_self, afterClear_kept, modCab_kept]
    | split
    | refine (kept_foldl (fun _ _ => ?_) _ _).trans ?_

theorem unitFenceRun_kept (o : UnitOps) (s : Chip) : kept ((unitFenceRun o s).2.2) = kept s := by
  unfold unitFenceRun
  repeat' first
    | with_reducible rfl
    | simp only [kept_mk, kept_pw, kept_ite, ite_self, engineOutOfUse_kept, fenceChannel_kept, fenceIsland_kept, settle_kept]
    | split
    | refine (kept_foldl (fun _ _ => ?_) _ _).trans ?_

theorem restoreWords_kept (i : Isl) (s : Chip) : kept (restoreWords i s) = kept s := by
  unfold restoreWords
  repeat' first
    | with_reducible rfl
    | simp only [kept_mk, kept_pw, kept_ite, ite_self, setLive_kept]
    | split
    | refine (kept_foldl (fun _ _ => ?_) _ _).trans ?_

theorem copyWords_kept (src dst : Isl) (s : Chip) : kept (copyWords src dst s) = kept s := by
  unfold copyWords
  repeat' first
    | with_reducible rfl
    | simp only [kept_mk, kept_pw, kept_ite, ite_self, setLive_kept, setShadow_kept]
    | split
    | refine (kept_foldl (fun _ _ => ?_) _ _).trans ?_

theorem preparePair_kept (n k : Nat) (s : Chip) : kept (preparePair n k s) = kept s := by
  simp only [preparePair, kept_mk, kept_pw, kept_ite, ite_self, copyWords_kept, noteStale_kept, restartRnd_kept, setLine_kept]

theorem switchTo_kept (k n : Nat) (s0 : Chip) : kept (switchTo k n s0) = kept s0 := by
  simp only [switchTo, kept_mk, kept_pw, kept_ite, ite_self, modLine_kept, rehold_kept, setServing_kept, settle_kept]

theorem reliefPrepare_kept (chk : Option Status) (n k : Nat) (goNow : Bool) (s : Chip) : kept ((reliefPrepare chk n k goNow s).2.2) = kept
    s := by
  unfold reliefPrepare
  repeat' first
    | with_reducible rfl
    | simp only [kept_mk, kept_pw, kept_ite, ite_self, countFencedReq_kept, preparePair_kept, switchTo_kept]
    | split
    | refine (kept_foldl (fun _ _ => ?_) _ _).trans ?_

theorem reliefGo_kept (k : Nat) (s : Chip) : kept ((reliefGo k s).2.2) = kept s := by
  unfold reliefGo
  repeat' first
    | with_reducible rfl
    | simp only [kept_mk, kept_pw, kept_ite, ite_self, switchTo_kept]
    | split
    | refine (kept_foldl (fun _ _ => ?_) _ _).trans ?_

theorem liftFence_kept (i : Isl) (s : Chip) : kept (liftFence i s) = kept s := by rfl

theorem endRepair_kept (is : List Isl) (s : Chip) : kept (endRepair is s) = kept s := by
  unfold endRepair
  repeat' first
    | with_reducible rfl
    | simp only [kept_mk, kept_pw, kept_ite, ite_self, modCab_kept]
    | split
    | refine (kept_foldl (fun _ _ => ?_) _ _).trans ?_

theorem resetRestore_kept (i : Isl) (s : Chip) : kept (resetRestore i s) = kept s := by
  simp only [resetRestore, kept_mk, kept_pw, kept_ite, ite_self, resetIsland_kept, restoreWords_kept]

theorem returnPair_kept (n : Nat) (s0 : Chip) : kept (returnPair n s0) = kept s0 := by
  simp only [returnPair, kept_mk, kept_pw, kept_ite, ite_self, liftFence_kept, rehold_kept, resetRestore_kept, restartRnd_kept,
      setLine_kept, setServing_kept]

theorem returnPlatform_kept (k : Nat) (s : Chip) : kept (returnPlatform k s) = kept s := by
  unfold returnPlatform
  repeat' first
    | with_reducible rfl
    | simp only [kept_mk, kept_pw, kept_ite, ite_self, liftFence_kept, portTo_kept, presetLanes_kept, resetRestore_kept]
    | split
    | refine (kept_foldl (fun _ _ => ?_) _ _).trans ?_

theorem modCipher_kept (f : CipherSt → CipherSt) (s : Chip) : kept (modCipher f s) = kept s := by rfl

theorem writeSpillKey_kept (k : Nat) (key : List Byte) (s : Chip) : kept (writeSpillKey k key s) = kept s := by
  simp only [writeSpillKey, kept_mk, kept_pw, kept_ite, ite_self, modCipher_kept, spillKeyDrain_kept]

theorem keyWrite_kept (o : KeyWriteOps) (s : Chip) : kept ((keyWrite o s).2.2) = kept s := by
  unfold keyWrite
  (repeat' split) <;> first | rfl | simp only [kept_mk, kept_pw, kept_ite, ite_self, modCipher_kept, writeSpillKey_kept]

theorem keyless_kept (slot : Nat) (s : Chip) : kept (keyless slot s) = kept s := by rfl

theorem dropJobs_kept (slot : Nat) (s : Chip) : kept (dropJobs slot s) = kept s := by
  unfold dropJobs
  repeat' first
    | with_reducible rfl
    | simp only [kept_mk, kept_pw, kept_ite, ite_self, finishOrder_kept, modCipher_kept]
    | split
    | refine (kept_foldl (fun _ _ => ?_) _ _).trans ?_

theorem keyErase_kept (o : KeyEraseOps) (s : Chip) : kept ((keyErase o s).2.2) = kept s := by
  unfold keyErase
  repeat' first
    | with_reducible rfl
    | simp only [kept_mk, kept_pw, kept_ite, ite_self, dropJobs_kept, keyless_kept, modCipher_kept]
    | split
    | refine (kept_foldl (fun _ _ => ?_) _ _).trans ?_

theorem setSa_kept (p : Nat) (rx : Bool) (an : Nat) (a : Option SaSt) (s : Chip) : kept (setSa p rx an a s) = kept s := by rfl

theorem queueJob_kept (e : Nat) (j : JobSt) (s : Chip) : kept (queueJob e j s) = kept s := by rfl

theorem hostPipeline_kept (tag : Nat × Nat × Bool) (port : Nat) (bytes : List Byte) (s : Chip) : kept (hostPipeline tag port bytes s) =
    kept s := by
  unfold hostPipeline
  repeat' first
    | with_reducible rfl
    | simp only [kept_mk, kept_pw, kept_ite, ite_self, countFencedReq_kept, dropRx_kept, freeTake_kept, modPkt_kept]
    | split
    | refine (kept_foldl (fun _ _ => ?_) _ _).trans ?_

theorem directFrame_kept (tag : Option (Nat × Nat × Bool)) (post : Option (Nat × Nat)) (q : Nat) (bytes : List Byte) (s : Chip) : kept
    (directFrame tag post q bytes s) = kept s := by
  unfold directFrame
  repeat' first
    | with_reducible rfl
    | simp only [kept_mk, kept_pw, kept_ite, ite_self, bump_kept, countFencedReq_kept, dropJn_kept, freeTake_kept, modPkt_kept]
    | split
    | refine (kept_foldl (fun _ _ => ?_) _ _).trans ?_

theorem hostMgmt_kept (n : Nat) (bytes : List Byte) (s : Chip) : kept (hostMgmt n bytes s) = kept s := by
  unfold hostMgmt
  (repeat' split) <;> first | rfl | simp only [kept_mk, kept_pw, kept_ite, ite_self, emit_kept]

theorem takeDescriptor_kept (q : Nat) (bytes : List Byte) (s : Chip) : kept (takeDescriptor q bytes s) = kept s := by
  unfold takeDescriptor
  repeat' first
    | with_reducible rfl
    | simp only [kept_mk, kept_pw, kept_ite, ite_self, directFrame_kept, hostMgmt_kept, hostOutcome_kept, hostPipeline_kept, modDma_kept,
        modPkt_kept, stopDma_kept]
    | split
    | refine (kept_foldl (fun _ _ => ?_) _ _).trans ?_

theorem takeTrap_kept (n c : Nat) (s : Chip) : kept (takeTrap n c s) = kept s := by
  simp only [takeTrap, kept_mk, kept_pw, kept_ite, ite_self, abandonCall_kept, modSm_kept, raise_kept]

theorem settleTraps_kept (n : Nat) (s : Chip) : kept (settleTraps n s) = kept s := by
  unfold settleTraps
  (repeat' split) <;> first | rfl | simp only [kept_mk, kept_pw, kept_ite, ite_self, takeTrap_kept]

theorem takeIfNow_kept (n c : Nat) (s : Chip) : kept (takeIfNow n c s) = kept s := by
  simp only [takeIfNow, kept_mk, kept_pw, kept_ite, ite_self, takeTrap_kept]

theorem condRaw_kept (n : Nat) (b : BusWait) (s : Chip) : kept ((condRaw n b s).2) = kept s := by
  unfold condRaw
  repeat' first
    | with_reducible rfl
    | simp only [kept_mk, kept_pw, kept_ite, ite_self, freeTake_kept]
    | split
    | refine (kept_foldl (fun _ _ => ?_) _ _).trans ?_

theorem condOf_kept (n : Nat) (b : BusWait) (s : Chip) : kept ((condOf n b s).2) = kept s := by
  simp only [condOf, kept_mk, kept_pw, kept_ite, ite_self, condRaw_kept]

theorem runAlu_kept (n w : Nat) (s : Chip) : kept (runAlu n w s) = kept s := by
  unfold runAlu
  repeat' first
    | with_reducible rfl
    | simp only [kept_mk, kept_pw, kept_ite, ite_self, freeTake_kept, modSm_kept]
    | split
    | refine (kept_foldl (fun _ _ => ?_) _ _).trans ?_

theorem yieldCall_kept (n w : Nat) (s : Chip) : kept (yieldCall n w s) = kept s := by
  unfold yieldCall
  repeat' first
    | with_reducible rfl
    | simp only [kept_mk, kept_pw, kept_ite, ite_self, finishOrder_kept, modSm_kept]
    | split
    | refine (kept_foldl (fun _ _ => ?_) _ _).trans ?_

theorem finishWord_kept (n : Nat) (b : BusWait) (cond : Bool) (s : Chip) : kept (finishWord n b cond s) = kept s := by
  simp only [finishWord, kept_mk, kept_pw, kept_ite, ite_self, modSm_kept, runAlu_kept, settleTraps_kept, yieldCall_kept]

theorem cycleWord_kept (n : Nat) (b : BusWait) (s : Chip) : kept (cycleWord n b s) = kept s := by
  simp only [cycleWord, kept_mk, kept_pw, kept_ite, ite_self, condOf_kept, finishWord_kept, modSm_kept]

theorem busDone_kept (n : Nat) (s : Chip) : kept (busDone n s) = kept s := by
  unfold busDone
  (repeat' split) <;> first | rfl | simp only [kept_mk, kept_pw, kept_ite, ite_self, cycleWord_kept]

theorem dutyEvent_kept (n event : Nat) (s : Chip) : kept (dutyEvent n event s) = kept s := by
  simp only [dutyEvent, kept_mk, kept_pw, kept_ite, ite_self, modSm_kept, settleTraps_kept]

theorem watchdogTrap_kept (n : Nat) (s : Chip) : kept (watchdogTrap n s) = kept s := by
  simp only [watchdogTrap, kept_mk, kept_pw, kept_ite, ite_self, modSm_kept, settleTraps_kept]

theorem microStatus_kept (sm : Nat) (s : Chip) : kept ((microStatus sm s).2.2) = kept s := by
  unfold microStatus
  (repeat' split) <;> first | rfl | simp only [kept_mk, kept_pw, kept_ite, ite_self]

theorem restartSm_kept (n : Nat) (s : Chip) : kept (restartSm n s) = kept s := by
  simp only [restartSm, kept_mk, kept_pw, kept_ite, ite_self, abandonCall_kept, modSm_kept]

theorem microRestart_kept (sm : Nat) (s : Chip) : kept ((microRestart sm s).2.2) = kept s := by
  unfold microRestart
  (repeat' split) <;> first | rfl | simp only [kept_mk, kept_pw, kept_ite, ite_self, restartSm_kept]

theorem answer_kept (st : Status) (bs : List Byte) (s : Chip) : kept (answer st bs s) = kept s := by rfl

theorem debugStatus_kept (sm : Nat) (s : Chip) : kept (debugStatus sm s) = kept s := by
  simp only [debugStatus, kept_mk, kept_pw, kept_ite, ite_self, answer_kept]

theorem debugHalt_kept (n : Nat) (s : Chip) : kept (debugHalt n s) = kept s := by
  simp only [debugHalt, kept_mk, kept_pw, kept_ite, ite_self, answer_kept, modSm_kept, takeIfNow_kept]

theorem resumeSm_kept (n : Nat) (s : Chip) : kept (resumeSm n s) = kept s := by
  simp only [resumeSm, kept_mk, kept_pw, kept_ite, ite_self, modSm_kept, settleTraps_kept]

theorem debugRun_kept (n : Nat) (s : Chip) : kept (debugRun n s) = kept s := by
  simp only [debugRun, kept_mk, kept_pw, kept_ite, ite_self, answer_kept, modSm_kept, resumeSm_kept]

theorem debugStep_kept (n k : Nat) (s : Chip) : kept (debugStep n k s) = kept s := by
  simp only [debugStep, kept_mk, kept_pw, kept_ite, ite_self, answer_kept, modSm_kept, resumeSm_kept]

theorem debugBp_kept (n k : Nat) (a : Option Nat) (s : Chip) : kept (debugBp n k a s) = kept s := by
  simp only [debugBp, kept_mk, kept_pw, kept_ite, ite_self, answer_kept, modSm_kept]

theorem debugSave_kept (n : Nat) (s : Chip) : kept (debugSave n s) = kept s := by rfl

theorem traceRun_kept (o : TraceOps) (s : Chip) : kept (traceRun o s) = kept s := by
  simp only [traceRun, kept_mk, kept_pw, kept_ite, ite_self, modLine_kept]

theorem debugTrace_kept (o : TraceOps) (s : Chip) : kept (debugTrace o s) = kept s := by
  simp only [debugTrace, kept_mk, kept_pw, kept_ite, ite_self, answer_kept, traceRun_kept]

theorem debugTraceRead_kept (egress : Bool) (n : Nat) (s : Chip) : kept (debugTraceRead egress n s) = kept s := by
  simp only [debugTraceRead, kept_mk, kept_pw, kept_ite, ite_self, answer_kept]

theorem sendMessage_kept (e n : Nat) (msg : List Byte) (s : Chip) : kept (sendMessage e n msg s) = kept s := by
  simp only [sendMessage, kept_mk, kept_pw, kept_ite, ite_self, countPosts_kept, directFrame_kept, modExport_kept]

theorem openMessage_kept (e : Nat) (s : Chip) : kept (openMessage e s) = kept s := by rfl

theorem closeMessage_kept (e : Nat) (s : Chip) : kept (closeMessage e s) = kept s := by
  simp only [closeMessage, kept_mk, kept_pw, kept_ite, ite_self, modExport_kept, sendMessage_kept]

theorem sendTemplate_kept (e : Nat) (s : Chip) : kept (sendTemplate e s) = kept s := by
  simp only [sendTemplate, kept_mk, kept_pw, kept_ite, ite_self, modExport_kept, sendMessage_kept]

theorem sampleDepths_kept (s : Chip) : kept (sampleDepths s) = kept s := by
  unfold sampleDepths
  repeat' first
    | with_reducible rfl
    | simp only [kept_mk, kept_pw, kept_ite, ite_self, monSample_kept]
    | split
    | refine (kept_foldl (fun _ _ => ?_) _ _).trans ?_

theorem captureIsland_kept (i : Isl) (s : Chip) : kept ((captureIsland i s).2) = kept s := by
  simp only [captureIsland, kept_mk, kept_pw, kept_ite, ite_self, freeTake_kept]

theorem captureIslands_kept (s : Chip) : kept (captureIslands s).2 = kept s := by
  unfold captureIslands
  refine (kept_foldl_snd (fun r k => ?_) _ _)
  split
  · rfl
  · split
    · rename_i i _ _; exact captureIsland_kept i r.2
    · rfl

theorem capture_kept (s : Chip) : kept (capture s) = kept s := by
  unfold capture
  repeat' first
    | with_reducible rfl
    | simp only [kept_mk, kept_pw, kept_ite, ite_self, captureIslands_kept]
    | split
    | refine (kept_foldl (fun _ _ => ?_) _ _).trans ?_

theorem dumpTick_kept (s : Chip) : kept (dumpTick s) = kept s := by
  simp only [dumpTick, kept_mk, kept_pw, kept_ite, ite_self, capture_kept]

theorem blockTick_kept (s : Chip) : kept (blockTick s) = kept s := by
  simp only [blockTick, kept_mk, kept_pw, kept_ite, ite_self, clockTick_kept, dumpTick_kept, pmcTick_kept, tickChannels_kept]

theorem dumpSet_kept (ring : Nat) (o : DumpOps) (s : Chip) : kept ((dumpSet ring o s).2.2) = kept s := by
  unfold dumpSet
  (repeat' split) <;> first | rfl | simp only [kept_mk, kept_pw, kept_ite, ite_self, countFencedReq_kept]

theorem replaceExport_kept (e : Nat) (d : List Byte) (s : Chip) : kept (replaceExport e d s) = kept s := by
  simp only [replaceExport, kept_mk, kept_pw, kept_ite, ite_self, closeMessage_kept, modExport_kept, openMessage_kept, sendTemplate_kept]

theorem exportSet_kept (o : ExportOps) (s : Chip) : kept ((exportSet o s).2.2) = kept s := by
  unfold exportSet
  repeat' first
    | with_reducible rfl
    | simp only [kept_mk, kept_pw, kept_ite, ite_self, countFencedReq_kept, replaceExport_kept, settle_kept]
    | split
    | refine (kept_foldl (fun _ _ => ?_) _ _).trans ?_

theorem ioamSet_kept (o : IoamOps) (s : Chip) : kept ((ioamSet o s).2.2) = kept s := by
  unfold ioamSet
  repeat' first
    | with_reducible rfl
    | simp only [kept_mk, kept_pw, kept_ite, ite_self, countFencedReq_kept]
    | split
    | refine (kept_foldl (fun _ _ => ?_) _ _).trans ?_

theorem putFates_kept (egress : Bool) (l : List (Nat × Inst × Nat)) (s : Chip) : kept (putFates egress l s) = kept s := by
  unfold putFates
  repeat' first
    | with_reducible rfl
    | simp only [kept_mk, kept_pw, kept_ite, ite_self, lineCount_kept, modInst_kept]
    | split
    | refine (kept_foldl (fun _ _ => ?_) _ _).trans ?_

theorem setLedger_kept (egress : Bool) (n : Nat) (r : Rec) (s : Chip) : kept (setLedger egress n r s) = kept s := by
  simp only [setLedger, kept_mk, kept_pw, kept_ite, ite_self, modLine_kept]

theorem loseTimeRef_kept (s : Chip) : kept (loseTimeRef s) = kept s := by
  simp only [loseTimeRef, kept_mk, kept_pw, kept_ite, ite_self, ppsHold_kept, raise_kept, ttEvent_kept]

theorem measureRef_kept (hz : Option Nat) (s : Chip) : kept (measureRef hz s) = kept s := by
  unfold measureRef
  (repeat' split) <;> first | rfl | simp only [kept_mk, kept_pw, kept_ite, ite_self, loseTimeRef_kept]

theorem hostReset_kept (s : Chip) : kept (hostReset s) = kept s := by rfl

theorem setSources_kept (egress : Bool) (p : Nat) (l : NatSet) (s : Chip) : kept (setSources egress p l s) = kept s := by rfl

theorem mirrorDelete_kept (k : Nat) (s : Chip) : kept ((mirrorDelete k s).2.2) = kept s := by
  unfold mirrorDelete
  (repeat' split) <;> first | rfl | simp only [kept_mk, kept_pw, kept_ite, ite_self, modPkt_kept]

theorem mirrorSet_kept (o : MirrorSetOps) (s : Chip) : kept ((mirrorSet o s).2.2) = kept s := by
  unfold mirrorSet
  (repeat' split) <;> first | rfl | simp only [kept_mk, kept_pw, kept_ite, ite_self, modPkt_kept]

theorem mirrorAttach_kept (o : MirrorAttachOps) (s : Chip) : kept ((mirrorAttach o s).2.2) = kept s := by
  unfold mirrorAttach
  repeat' first
    | with_reducible rfl
    | simp only [kept_mk, kept_pw, kept_ite, ite_self, setSources_kept]
    | split
    | refine (kept_foldl (fun _ _ => ?_) _ _).trans ?_

theorem mirrorDetach_kept (o : MirrorAttachOps) (s : Chip) : kept ((mirrorDetach o s).2.2) = kept s := by
  unfold mirrorDetach
  repeat' first
    | with_reducible rfl
    | simp only [kept_mk, kept_pw, kept_ite, ite_self, setSources_kept]
    | split
    | refine (kept_foldl (fun _ _ => ?_) _ _).trans ?_

theorem queuePolicy_kept (o : QueuePortOps) (s : Chip) : kept (queuePolicy o s).2.2 = kept s := by
  unfold queuePolicy
  split
  · rfl
  · split
    · rfl
    · split
      · exact countFencedReq_kept ..
      · dsimp only
        rw [settle_kept, derivePlan_kept, commitIsl_kept]
        refine (kept_foldl (fun s w => deriveWord_kept ..) _ _).trans ?_
        rw [deriveWord_kept, modPort_kept]

theorem writeSched_kept (q : Nat) (cfg lo hi : Word) (s : Chip) : kept (writeSched q cfg lo hi s) = kept s := by
  unfold writeSched
  split
  · rfl
  · rw [fillBuckets_kept]
    exact (deriveWord_kept ..).trans ((deriveWord_kept ..).trans ((deriveWord_kept ..).trans (fillBuckets_kept ..)))

theorem queueValues_kept (o : QueueQueueOps) (s : Chip) : kept ((queueValues o s).2.2) = kept s := by
  unfold queueValues
  repeat' first
    | with_reducible rfl
    | simp only [kept_mk, kept_pw, kept_ite, ite_self, commitIsl_kept, countFencedReq_kept, derivePlan_kept, modQueueSt_kept, settle_kept,
        writeSched_kept]
    | split
    | refine (kept_foldl (fun _ _ => ?_) _ _).trans ?_

theorem groupSet_kept (o : QueueMcOps) (s : Chip) : kept ((groupSet o s).2.2) = kept s := by
  unfold groupSet
  repeat' first
    | with_reducible rfl
    | simp only [kept_mk, kept_pw, kept_ite, ite_self, modPkt_kept]
    | split
    | refine (kept_foldl (fun _ _ => ?_) _ _).trans ?_

theorem modTime_kept (f : TimeSt → TimeSt) (s : Chip) : kept (modTime f s) = kept s := by rfl

theorem leaveHoldover_kept (leave : Bool) (s : Chip) : kept (leaveHoldover leave s) = kept s := by
  simp only [leaveHoldover, kept_mk, kept_pw, kept_ite, ite_self, modTime_kept]

theorem restartWdog_kept (s : Chip) : kept (restartWdog s) = kept s := by rfl

theorem timeFreq_kept (ops : TimeFreqOps) (s : Chip) : kept ((timeFreq ops s).2.2) = kept s := by
  simp only [timeFreq, kept_mk, kept_pw, kept_ite, ite_self, countClamp_kept, leaveHoldover_kept, modTime_kept, restartWdog_kept]

theorem timeSlew_kept (ops : TimeSlewOps) (s : Chip) : kept ((timeSlew ops s).2.2) = kept s := by
  unfold timeSlew
  repeat' first
    | with_reducible rfl
    | simp only [kept_mk, kept_pw, kept_ite, ite_self, countClamp_kept, leaveHoldover_kept, modTime_kept, restartWdog_kept]
    | split
    | refine (kept_foldl (fun _ _ => ?_) _ _).trans ?_

theorem stepClock_kept (f : TimeSt → TimeSt) (leave : Bool) (s : Chip) : kept ((stepClock f leave s).2.2) = kept s := by
  simp only [stepClock, kept_mk, kept_pw, kept_ite, ite_self, leaveHoldover_kept, modTime_kept]

theorem timeStepAbs_kept (ops : TimeStepAbsOps) (s : Chip) : kept ((timeStepAbs ops s).2.2) = kept s := by
  unfold timeStepAbs
  (repeat' split) <;> first | rfl | simp only [kept_mk, kept_pw, kept_ite, ite_self, stepClock_kept]

theorem timeStepRel_kept (ops : TimeStepRelOps) (s : Chip) : kept ((timeStepRel ops s).2.2) = kept s := by
  unfold timeStepRel
  repeat' first
    | with_reducible rfl
    | simp only [kept_mk, kept_pw, kept_ite, ite_self, stepClock_kept]
    | split
    | refine (kept_foldl (fun _ _ => ?_) _ _).trans ?_

theorem loopMeasure_kept (copy : TimeCopy) (delay : Nat) (s : Chip) : kept (loopMeasure copy delay s) = kept s := by
  unfold loopMeasure
  (repeat' split) <;> first | rfl | simp only [kept_mk, kept_pw, kept_ite, ite_self, modTime_kept, raise_kept]

theorem ppsCapture_kept (k : Nat) (s : Chip) : kept (ppsCapture k s) = kept s := by
  simp only [ppsCapture, kept_mk, kept_pw, kept_ite, ite_self, modTime_kept, ttEvent_kept]

end Sys2Proof.Machine
end

