-- ==== Sys2Proof/Laws/Sparse.lean ====
section
/-!
SUPPORT. The laws of sparse maps: what reads of a map give after a write, for every map, and that every operation keeps the canonical
form.
-/

namespace Sys2Proof.Machine

variable {α : Type}

@[simp] theorem sget_nil (d : α) (k : Nat) : sget d [] k = d := rfl
@[simp] theorem sfind_nil (k : Nat) : sfind ([] : Sparse α) k = none := rfl

theorem sget_eq (d : α) (m : Sparse α) (k : Nat) : sget d m k = (sfind m k).getD d := by
  induction m with
  | nil => rfl
  | cons x m ih => obtain ⟨a, v⟩ := x; simp only [sget, sfind]; split <;> simp [ih]

theorem sfind_sins (m : Sparse α) (k k' : Nat) (v : α) : sfind (sins m k v) k' = if k' = k then some v else sfind m k' := by
  induction m with
  | nil => grind [sins, sfind]
  | cons x m ih => grind [sins, sfind]

theorem sfind_sdel (m : Sparse α) (k k' : Nat) : sfind (sdel m k) k' = if k' = k then none else sfind m k' := by
  induction m with
  | nil => grind [sdel, sfind]
  | cons x m ih => grind [sdel, sfind]

theorem sget_sput [DecidableEq α] (d : α) (m : Sparse α) (k k' : Nat) (v : α) :
    sget d (sput d m k v) k' = if k' = k then v else sget d m k' := by
  unfold sput
  split
  · rw [sget_eq, sfind_sdel]; split <;> simp_all [sget_eq]
  · rw [sget_eq, sfind_sins]; split <;> simp_all [sget_eq]

theorem sget_smod [DecidableEq α] (d : α) (m : Sparse α) (k k' : Nat) (f : α → α) :
    sget d (smod d m k f) k' = if k' = k then f (sget d m k) else sget d m k' := sget_sput ..

theorem sfind_filter (m : Sparse α) (p : Nat → Bool) (k : Nat) :
    sfind (m.filter (fun x => p x.1)) k = if p k then sfind m k else none := by
  induction m with
  | nil => simp
  | cons x m ih =>
    obtain ⟨a, v⟩ := x
    by_cases hp : p a = true
    · simp only [List.filter, hp, sfind, ih]; split
      · subst_vars; simp [hp]
      · rfl
    · simp only [Bool.not_eq_true] at hp
      simp only [List.filter, hp, sfind, ih]; split
      · split
        · subst_vars; simp_all
        · rfl
      · rfl

theorem sget_filter (d : α) (m : Sparse α) (p : Nat → Bool) (k : Nat) :
    sget d (m.filter (fun x => p x.1)) k = if p k then sget d m k else d := by
  rw [sget_eq, sfind_filter]; split <;> simp [sget_eq]

/-! The canonical form -/

theorem srising_some (lo : Nat) (m : Sparse α) :
    srising (some lo) m = true ↔ srising none m = true ∧ ∀ x ∈ m, lo < x.1 := by
  induction m generalizing lo with
  | nil => simp [srising]
  | cons x m ih =>
    obtain ⟨a, v⟩ := x
    simp only [srising, Bool.and_eq_true, decide_eq_true_eq, List.mem_cons, forall_eq_or_imp]
    constructor
    · intro ⟨h, g⟩
      exact ⟨g, h, fun y hy => Nat.lt_trans h (((ih a).1 g).2 y hy)⟩
    · intro ⟨g, h, _⟩
      exact ⟨h, g⟩

theorem sins_mem (m : Sparse α) (k : Nat) (v : α) (x : Nat × α) (h : x ∈ sins m k v) : x = (k, v) ∨ x ∈ m := by
  induction m with
  | nil => simpa [sins] using h
  | cons y m ih =>
    obtain ⟨a, w⟩ := y
    simp only [sins] at h
    split at h
    · simpa using h
    · split at h
      · rcases List.mem_cons.1 h with h | h
        · exact .inl h
        · exact .inr (List.mem_cons_of_mem _ h)
      · rcases List.mem_cons.1 h with h | h
        · exact .inr (h ▸ List.mem_cons_self ..)
        · exact (ih h).imp id (List.mem_cons_of_mem _)

theorem sins_rising (m : Sparse α) (k : Nat) (v : α) (h : srising none m = true) : srising none (sins m k v) = true := by
  induction m with
  | nil => rfl
  | cons x m ih =>
    obtain ⟨a, w⟩ := x
    have h' := (srising_some a m).1 h
    simp only [sins]
    split
    · rename_i hk
      simp only [srising, Bool.and_eq_true, decide_eq_true_eq]
      exact ⟨hk, h⟩
    · split
      · subst_vars; exact h
      · exact (srising_some a _).2 ⟨ih h'.1, fun x hx => by
          rcases sins_mem m k v x hx with rfl | hm
          · dsimp only; omega
          · exact h'.2 x hm⟩

theorem sdel_mem (m : Sparse α) (k : Nat) (x : Nat × α) (h : x ∈ sdel m k) : x ∈ m := by
  induction m with
  | nil => simp [sdel] at h
  | cons y m ih =>
    obtain ⟨a, w⟩ := y
    simp only [sdel] at h
    split at h
    · exact List.mem_cons_of_mem _ (ih h)
    · rcases List.mem_cons.1 h with h | h
      · exact h ▸ List.mem_cons_self ..
      · exact List.mem_cons_of_mem _ (ih h)

theorem sdel_rising (m : Sparse α) (k : Nat) (h : srising none m = true) : srising none (sdel m k) = true := by
  induction m with
  | nil => rfl
  | cons x m ih =>
    obtain ⟨a, w⟩ := x
    have h' := (srising_some a m).1 h
    simp only [sdel]
    split
    · exact ih h'.1
    · exact (srising_some a _).2 ⟨ih h'.1, fun x hx => h'.2 x (sdel_mem m k x hx)⟩

theorem sput_swf [DecidableEq α] (d : α) (m : Sparse α) (k : Nat) (v : α) (h : swf d m = true) : swf d (sput d m k v) = true := by
  simp only [swf, Bool.and_eq_true, List.all_eq_true, decide_eq_true_eq] at h ⊢
  unfold sput
  split
  · exact ⟨sdel_rising m k h.1, fun x hx => h.2 x (sdel_mem m k x hx)⟩
  · refine ⟨sins_rising m k v h.1, fun x hx => ?_⟩
    rcases sins_mem m k v x hx with rfl | hm
    · assumption
    · exact h.2 x hm

theorem smod_swf [DecidableEq α] (d : α) (m : Sparse α) (k : Nat) (f : α → α) (h : swf d m = true) : swf d (smod d m k f) = true :=
  sput_swf d m k _ h

/-! Host memory -/

/-- Every write of bytes keeps the canonical form of host memory. -/
theorem putBytes_wf (m : List Host.Cell) (a : Nat) (bs : List Byte) (h : Memory.wf m = true) : Memory.wf (putBytes m a bs) = true := by
  induction bs generalizing m a with
  | nil => exact h
  | cons b bs ih => exact ih _ _ (sins_rising m a b h)

theorem hostWrite_wf (a : Nat) (bs : List Byte) (s : Chip) (h : Memory.wf s.hostMem = true) :
    Memory.wf (hostWrite a bs s).hostMem = true := putBytes_wf _ _ _ h

/-- Host memory as reset leaves it. -/
theorem reset_wf : Memory.wf State.reset.chip.hostMem = true := rfl

/-- A byte of host memory after bytes were written from an address: the byte written there, or what stood there. -/
theorem putBytes_find (m : List Host.Cell) (a : Nat) (bs : List Byte) (k : Nat) :
    sfind (putBytes m a bs) k = if a ≤ k ∧ k < a + bs.length then bs[k - a]? else sfind m k := by
  induction bs generalizing m a with
  | nil => simp [putBytes] <;> omega
  | cons b bs ih =>
    rw [putBytes, ih, sfind_sins]
    by_cases h : k = a
    · subst h; simp <;> omega
    · by_cases h1 : a + 1 ≤ k ∧ k < a + 1 + bs.length
      · have h2 : a ≤ k ∧ k < a + (bs.length + 1) := by omega
        have h3 : k - a = (k - (a + 1)) + 1 := by omega
        simp only [h1, List.length_cons, h2, h3, List.getElem?_cons_succ]; simp
      · have h2 : ¬ (a ≤ k ∧ k < a + (bs.length + 1)) := by omega
        rw [if_neg h1, if_neg h, if_neg (by rw [List.length_cons]; exact h2)]

end Sys2Proof.Machine
end

