-- ==== Sys2Proof/Laws/State.lean ====
section
/-!
SUPPORT. What each named update of the state leaves alone: one lemma per field, so that no proof unfolds a record update; and what each
read gives after the update it reads.
-/

namespace Sys2Proof.Machine

@[simp] theorem emit_hostMem (o : Output) (s : Chip) : (emit o s).hostMem = s.hostMem := rfl
@[simp] theorem emit_power (o : Output) (s : Chip) : (emit o s).power = s.power := rfl
@[simp] theorem emit_boot (o : Output) (s : Chip) : (emit o s).boot = s.boot := rfl
@[simp] theorem emit_host (o : Output) (s : Chip) : (emit o s).host = s.host := rfl
@[simp] theorem emit_live (o : Output) (s : Chip) : (emit o s).live = s.live := rfl
@[simp] theorem emit_staged (o : Output) (s : Chip) : (emit o s).staged = s.staged := rfl
@[simp] theorem emit_shadow (o : Output) (s : Chip) : (emit o s).shadow = s.shadow := rfl
@[simp] theorem emit_lastWrite (o : Output) (s : Chip) : (emit o s).lastWrite = s.lastWrite := rfl
@[simp] theorem emit_faults (o : Output) (s : Chip) : (emit o s).faults = s.faults := rfl
@[simp] theorem emit_ports (o : Output) (s : Chip) : (emit o s).ports = s.ports := rfl
@[simp] theorem emit_pkt (o : Output) (s : Chip) : (emit o s).pkt = s.pkt := rfl
@[simp] theorem emit_cipher (o : Output) (s : Chip) : (emit o s).cipher = s.cipher := rfl
@[simp] theorem emit_time (o : Output) (s : Chip) : (emit o s).time = s.time := rfl
@[simp] theorem emit_tm (o : Output) (s : Chip) : (emit o s).tm = s.tm := rfl
@[simp] theorem emit_sb (o : Output) (s : Chip) : (emit o s).sb = s.sb := rfl
@[simp] theorem emit_pmc (o : Output) (s : Chip) : (emit o s).pmc = s.pmc := rfl
@[simp] theorem emit_bist (o : Output) (s : Chip) : (emit o s).bist = s.bist := rfl
@[simp] theorem emit_free (o : Output) (s : Chip) : (emit o s).free = s.free := rfl

@[simp] theorem hostWrite_out (a : Nat) (bs : List Byte) (s : Chip) : (hostWrite a bs s).out = s.out := rfl
@[simp] theorem hostWrite_power (a : Nat) (bs : List Byte) (s : Chip) : (hostWrite a bs s).power = s.power := rfl
@[simp] theorem hostWrite_boot (a : Nat) (bs : List Byte) (s : Chip) : (hostWrite a bs s).boot = s.boot := rfl
@[simp] theorem hostWrite_host (a : Nat) (bs : List Byte) (s : Chip) : (hostWrite a bs s).host = s.host := rfl
@[simp] theorem hostWrite_live (a : Nat) (bs : List Byte) (s : Chip) : (hostWrite a bs s).live = s.live := rfl
@[simp] theorem hostWrite_staged (a : Nat) (bs : List Byte) (s : Chip) : (hostWrite a bs s).staged = s.staged := rfl
@[simp] theorem hostWrite_shadow (a : Nat) (bs : List Byte) (s : Chip) : (hostWrite a bs s).shadow = s.shadow := rfl
@[simp] theorem hostWrite_lastWrite (a : Nat) (bs : List Byte) (s : Chip) : (hostWrite a bs s).lastWrite = s.lastWrite := rfl
@[simp] theorem hostWrite_faults (a : Nat) (bs : List Byte) (s : Chip) : (hostWrite a bs s).faults = s.faults := rfl
@[simp] theorem hostWrite_ports (a : Nat) (bs : List Byte) (s : Chip) : (hostWrite a bs s).ports = s.ports := rfl
@[simp] theorem hostWrite_pkt (a : Nat) (bs : List Byte) (s : Chip) : (hostWrite a bs s).pkt = s.pkt := rfl
@[simp] theorem hostWrite_cipher (a : Nat) (bs : List Byte) (s : Chip) : (hostWrite a bs s).cipher = s.cipher := rfl
@[simp] theorem hostWrite_time (a : Nat) (bs : List Byte) (s : Chip) : (hostWrite a bs s).time = s.time := rfl
@[simp] theorem hostWrite_tm (a : Nat) (bs : List Byte) (s : Chip) : (hostWrite a bs s).tm = s.tm := rfl
@[simp] theorem hostWrite_sb (a : Nat) (bs : List Byte) (s : Chip) : (hostWrite a bs s).sb = s.sb := rfl
@[simp] theorem hostWrite_pmc (a : Nat) (bs : List Byte) (s : Chip) : (hostWrite a bs s).pmc = s.pmc := rfl
@[simp] theorem hostWrite_bist (a : Nat) (bs : List Byte) (s : Chip) : (hostWrite a bs s).bist = s.bist := rfl
@[simp] theorem hostWrite_free (a : Nat) (bs : List Byte) (s : Chip) : (hostWrite a bs s).free = s.free := rfl

@[simp] theorem modRing_out (r : Nat) (f : RingSt → RingSt) (s : Chip) : (modRing r f s).out = s.out := rfl
@[simp] theorem modRing_hostMem (r : Nat) (f : RingSt → RingSt) (s : Chip) : (modRing r f s).hostMem = s.hostMem := rfl
@[simp] theorem modRing_power (r : Nat) (f : RingSt → RingSt) (s : Chip) : (modRing r f s).power = s.power := rfl
@[simp] theorem modRing_boot (r : Nat) (f : RingSt → RingSt) (s : Chip) : (modRing r f s).boot = s.boot := rfl
@[simp] theorem modRing_live (r : Nat) (f : RingSt → RingSt) (s : Chip) : (modRing r f s).live = s.live := rfl
@[simp] theorem modRing_staged (r : Nat) (f : RingSt → RingSt) (s : Chip) : (modRing r f s).staged = s.staged := rfl
@[simp] theorem modRing_shadow (r : Nat) (f : RingSt → RingSt) (s : Chip) : (modRing r f s).shadow = s.shadow := rfl
@[simp] theorem modRing_lastWrite (r : Nat) (f : RingSt → RingSt) (s : Chip) : (modRing r f s).lastWrite = s.lastWrite := rfl
@[simp] theorem modRing_faults (r : Nat) (f : RingSt → RingSt) (s : Chip) : (modRing r f s).faults = s.faults := rfl
@[simp] theorem modRing_ports (r : Nat) (f : RingSt → RingSt) (s : Chip) : (modRing r f s).ports = s.ports := rfl
@[simp] theorem modRing_pkt (r : Nat) (f : RingSt → RingSt) (s : Chip) : (modRing r f s).pkt = s.pkt := rfl
@[simp] theorem modRing_cipher (r : Nat) (f : RingSt → RingSt) (s : Chip) : (modRing r f s).cipher = s.cipher := rfl
@[simp] theorem modRing_time (r : Nat) (f : RingSt → RingSt) (s : Chip) : (modRing r f s).time = s.time := rfl
@[simp] theorem modRing_tm (r : Nat) (f : RingSt → RingSt) (s : Chip) : (modRing r f s).tm = s.tm := rfl
@[simp] theorem modRing_sb (r : Nat) (f : RingSt → RingSt) (s : Chip) : (modRing r f s).sb = s.sb := rfl
@[simp] theorem modRing_pmc (r : Nat) (f : RingSt → RingSt) (s : Chip) : (modRing r f s).pmc = s.pmc := rfl
@[simp] theorem modRing_bist (r : Nat) (f : RingSt → RingSt) (s : Chip) : (modRing r f s).bist = s.bist := rfl
@[simp] theorem modRing_free (r : Nat) (f : RingSt → RingSt) (s : Chip) : (modRing r f s).free = s.free := rfl

@[simp] theorem modDma_out (q : Nat) (f : RingSt → RingSt) (s : Chip) : (modDma q f s).out = s.out := rfl
@[simp] theorem modDma_hostMem (q : Nat) (f : RingSt → RingSt) (s : Chip) : (modDma q f s).hostMem = s.hostMem := rfl
@[simp] theorem modDma_power (q : Nat) (f : RingSt → RingSt) (s : Chip) : (modDma q f s).power = s.power := rfl
@[simp] theorem modDma_boot (q : Nat) (f : RingSt → RingSt) (s : Chip) : (modDma q f s).boot = s.boot := rfl
@[simp] theorem modDma_live (q : Nat) (f : RingSt → RingSt) (s : Chip) : (modDma q f s).live = s.live := rfl
@[simp] theorem modDma_staged (q : Nat) (f : RingSt → RingSt) (s : Chip) : (modDma q f s).staged = s.staged := rfl
@[simp] theorem modDma_shadow (q : Nat) (f : RingSt → RingSt) (s : Chip) : (modDma q f s).shadow = s.shadow := rfl
@[simp] theorem modDma_lastWrite (q : Nat) (f : RingSt → RingSt) (s : Chip) : (modDma q f s).lastWrite = s.lastWrite := rfl
@[simp] theorem modDma_faults (q : Nat) (f : RingSt → RingSt) (s : Chip) : (modDma q f s).faults = s.faults := rfl
@[simp] theorem modDma_ports (q : Nat) (f : RingSt → RingSt) (s : Chip) : (modDma q f s).ports = s.ports := rfl
@[simp] theorem modDma_pkt (q : Nat) (f : RingSt → RingSt) (s : Chip) : (modDma q f s).pkt = s.pkt := rfl
@[simp] theorem modDma_cipher (q : Nat) (f : RingSt → RingSt) (s : Chip) : (modDma q f s).cipher = s.cipher := rfl
@[simp] theorem modDma_time (q : Nat) (f : RingSt → RingSt) (s : Chip) : (modDma q f s).time = s.time := rfl
@[simp] theorem modDma_tm (q : Nat) (f : RingSt → RingSt) (s : Chip) : (modDma q f s).tm = s.tm := rfl
@[simp] theorem modDma_sb (q : Nat) (f : RingSt → RingSt) (s : Chip) : (modDma q f s).sb = s.sb := rfl
@[simp] theorem modDma_pmc (q : Nat) (f : RingSt → RingSt) (s : Chip) : (modDma q f s).pmc = s.pmc := rfl
@[simp] theorem modDma_bist (q : Nat) (f : RingSt → RingSt) (s : Chip) : (modDma q f s).bist = s.bist := rfl
@[simp] theorem modDma_free (q : Nat) (f : RingSt → RingSt) (s : Chip) : (modDma q f s).free = s.free := rfl

@[simp] theorem finishOrder_out (r : Nat) (st : Status) (v : DWord) (s : Chip) : (finishOrder r st v s).out = s.out := rfl
@[simp] theorem finishOrder_hostMem (r : Nat) (st : Status) (v : DWord) (s : Chip) : (finishOrder r st v s).hostMem = s.hostMem := rfl
@[simp] theorem finishOrder_power (r : Nat) (st : Status) (v : DWord) (s : Chip) : (finishOrder r st v s).power = s.power := rfl
@[simp] theorem finishOrder_boot (r : Nat) (st : Status) (v : DWord) (s : Chip) : (finishOrder r st v s).boot = s.boot := rfl
@[simp] theorem finishOrder_live (r : Nat) (st : Status) (v : DWord) (s : Chip) : (finishOrder r st v s).live = s.live := rfl
@[simp] theorem finishOrder_staged (r : Nat) (st : Status) (v : DWord) (s : Chip) : (finishOrder r st v s).staged = s.staged := rfl
@[simp] theorem finishOrder_shadow (r : Nat) (st : Status) (v : DWord) (s : Chip) : (finishOrder r st v s).shadow = s.shadow := rfl
@[simp] theorem finishOrder_lastWrite (r : Nat) (st : Status) (v : DWord) (s : Chip) : (finishOrder r st v s).lastWrite = s.lastWrite := rfl
@[simp] theorem finishOrder_faults (r : Nat) (st : Status) (v : DWord) (s : Chip) : (finishOrder r st v s).faults = s.faults := rfl
@[simp] theorem finishOrder_ports (r : Nat) (st : Status) (v : DWord) (s : Chip) : (finishOrder r st v s).ports = s.ports := rfl
@[simp] theorem finishOrder_pkt (r : Nat) (st : Status) (v : DWord) (s : Chip) : (finishOrder r st v s).pkt = s.pkt := rfl
@[simp] theorem finishOrder_cipher (r : Nat) (st : Status) (v : DWord) (s : Chip) : (finishOrder r st v s).cipher = s.cipher := rfl
@[simp] theorem finishOrder_time (r : Nat) (st : Status) (v : DWord) (s : Chip) : (finishOrder r st v s).time = s.time := rfl
@[simp] theorem finishOrder_tm (r : Nat) (st : Status) (v : DWord) (s : Chip) : (finishOrder r st v s).tm = s.tm := rfl
@[simp] theorem finishOrder_sb (r : Nat) (st : Status) (v : DWord) (s : Chip) : (finishOrder r st v s).sb = s.sb := rfl
@[simp] theorem finishOrder_pmc (r : Nat) (st : Status) (v : DWord) (s : Chip) : (finishOrder r st v s).pmc = s.pmc := rfl
@[simp] theorem finishOrder_bist (r : Nat) (st : Status) (v : DWord) (s : Chip) : (finishOrder r st v s).bist = s.bist := rfl
@[simp] theorem finishOrder_free (r : Nat) (st : Status) (v : DWord) (s : Chip) : (finishOrder r st v s).free = s.free := rfl

@[simp] theorem setLive_out (ca : Nat) (v : Word) (s : Chip) : (setLive ca v s).out = s.out := rfl
@[simp] theorem setLive_hostMem (ca : Nat) (v : Word) (s : Chip) : (setLive ca v s).hostMem = s.hostMem := rfl
@[simp] theorem setLive_power (ca : Nat) (v : Word) (s : Chip) : (setLive ca v s).power = s.power := rfl
@[simp] theorem setLive_boot (ca : Nat) (v : Word) (s : Chip) : (setLive ca v s).boot = s.boot := rfl
@[simp] theorem setLive_host (ca : Nat) (v : Word) (s : Chip) : (setLive ca v s).host = s.host := rfl
@[simp] theorem setLive_staged (ca : Nat) (v : Word) (s : Chip) : (setLive ca v s).staged = s.staged := rfl
@[simp] theorem setLive_shadow (ca : Nat) (v : Word) (s : Chip) : (setLive ca v s).shadow = s.shadow := rfl
@[simp] theorem setLive_lastWrite (ca : Nat) (v : Word) (s : Chip) : (setLive ca v s).lastWrite = s.lastWrite := rfl
@[simp] theorem setLive_faults (ca : Nat) (v : Word) (s : Chip) : (setLive ca v s).faults = s.faults := rfl
@[simp] theorem setLive_ports (ca : Nat) (v : Word) (s : Chip) : (setLive ca v s).ports = s.ports := rfl
@[simp] theorem setLive_pkt (ca : Nat) (v : Word) (s : Chip) : (setLive ca v s).pkt = s.pkt := rfl
@[simp] theorem setLive_cipher (ca : Nat) (v : Word) (s : Chip) : (setLive ca v s).cipher = s.cipher := rfl
@[simp] theorem setLive_time (ca : Nat) (v : Word) (s : Chip) : (setLive ca v s).time = s.time := rfl
@[simp] theorem setLive_tm (ca : Nat) (v : Word) (s : Chip) : (setLive ca v s).tm = s.tm := rfl
@[simp] theorem setLive_sb (ca : Nat) (v : Word) (s : Chip) : (setLive ca v s).sb = s.sb := rfl
@[simp] theorem setLive_pmc (ca : Nat) (v : Word) (s : Chip) : (setLive ca v s).pmc = s.pmc := rfl
@[simp] theorem setLive_bist (ca : Nat) (v : Word) (s : Chip) : (setLive ca v s).bist = s.bist := rfl
@[simp] theorem setLive_free (ca : Nat) (v : Word) (s : Chip) : (setLive ca v s).free = s.free := rfl

@[simp] theorem setStaged_out (ca : Nat) (v : Word) (s : Chip) : (setStaged ca v s).out = s.out := rfl
@[simp] theorem setStaged_hostMem (ca : Nat) (v : Word) (s : Chip) : (setStaged ca v s).hostMem = s.hostMem := rfl
@[simp] theorem setStaged_power (ca : Nat) (v : Word) (s : Chip) : (setStaged ca v s).power = s.power := rfl
@[simp] theorem setStaged_boot (ca : Nat) (v : Word) (s : Chip) : (setStaged ca v s).boot = s.boot := rfl
@[simp] theorem setStaged_host (ca : Nat) (v : Word) (s : Chip) : (setStaged ca v s).host = s.host := rfl
@[simp] theorem setStaged_live (ca : Nat) (v : Word) (s : Chip) : (setStaged ca v s).live = s.live := rfl
@[simp] theorem setStaged_shadow (ca : Nat) (v : Word) (s : Chip) : (setStaged ca v s).shadow = s.shadow := rfl
@[simp] theorem setStaged_lastWrite (ca : Nat) (v : Word) (s : Chip) : (setStaged ca v s).lastWrite = s.lastWrite := rfl
@[simp] theorem setStaged_faults (ca : Nat) (v : Word) (s : Chip) : (setStaged ca v s).faults = s.faults := rfl
@[simp] theorem setStaged_ports (ca : Nat) (v : Word) (s : Chip) : (setStaged ca v s).ports = s.ports := rfl
@[simp] theorem setStaged_pkt (ca : Nat) (v : Word) (s : Chip) : (setStaged ca v s).pkt = s.pkt := rfl
@[simp] theorem setStaged_cipher (ca : Nat) (v : Word) (s : Chip) : (setStaged ca v s).cipher = s.cipher := rfl
@[simp] theorem setStaged_time (ca : Nat) (v : Word) (s : Chip) : (setStaged ca v s).time = s.time := rfl
@[simp] theorem setStaged_tm (ca : Nat) (v : Word) (s : Chip) : (setStaged ca v s).tm = s.tm := rfl
@[simp] theorem setStaged_sb (ca : Nat) (v : Word) (s : Chip) : (setStaged ca v s).sb = s.sb := rfl
@[simp] theorem setStaged_pmc (ca : Nat) (v : Word) (s : Chip) : (setStaged ca v s).pmc = s.pmc := rfl
@[simp] theorem setStaged_bist (ca : Nat) (v : Word) (s : Chip) : (setStaged ca v s).bist = s.bist := rfl
@[simp] theorem setStaged_free (ca : Nat) (v : Word) (s : Chip) : (setStaged ca v s).free = s.free := rfl

@[simp] theorem setShadow_out (ca : Nat) (v : Word) (s : Chip) : (setShadow ca v s).out = s.out := rfl
@[simp] theorem setShadow_hostMem (ca : Nat) (v : Word) (s : Chip) : (setShadow ca v s).hostMem = s.hostMem := rfl
@[simp] theorem setShadow_power (ca : Nat) (v : Word) (s : Chip) : (setShadow ca v s).power = s.power := rfl
@[simp] theorem setShadow_boot (ca : Nat) (v : Word) (s : Chip) : (setShadow ca v s).boot = s.boot := rfl
@[simp] theorem setShadow_host (ca : Nat) (v : Word) (s : Chip) : (setShadow ca v s).host = s.host := rfl
@[simp] theorem setShadow_live (ca : Nat) (v : Word) (s : Chip) : (setShadow ca v s).live = s.live := rfl
@[simp] theorem setShadow_staged (ca : Nat) (v : Word) (s : Chip) : (setShadow ca v s).staged = s.staged := rfl
@[simp] theorem setShadow_lastWrite (ca : Nat) (v : Word) (s : Chip) : (setShadow ca v s).lastWrite = s.lastWrite := rfl
@[simp] theorem setShadow_faults (ca : Nat) (v : Word) (s : Chip) : (setShadow ca v s).faults = s.faults := rfl
@[simp] theorem setShadow_ports (ca : Nat) (v : Word) (s : Chip) : (setShadow ca v s).ports = s.ports := rfl
@[simp] theorem setShadow_pkt (ca : Nat) (v : Word) (s : Chip) : (setShadow ca v s).pkt = s.pkt := rfl
@[simp] theorem setShadow_cipher (ca : Nat) (v : Word) (s : Chip) : (setShadow ca v s).cipher = s.cipher := rfl
@[simp] theorem setShadow_time (ca : Nat) (v : Word) (s : Chip) : (setShadow ca v s).time = s.time := rfl
@[simp] theorem setShadow_tm (ca : Nat) (v : Word) (s : Chip) : (setShadow ca v s).tm = s.tm := rfl
@[simp] theorem setShadow_sb (ca : Nat) (v : Word) (s : Chip) : (setShadow ca v s).sb = s.sb := rfl
@[simp] theorem setShadow_pmc (ca : Nat) (v : Word) (s : Chip) : (setShadow ca v s).pmc = s.pmc := rfl
@[simp] theorem setShadow_bist (ca : Nat) (v : Word) (s : Chip) : (setShadow ca v s).bist = s.bist := rfl
@[simp] theorem setShadow_free (ca : Nat) (v : Word) (s : Chip) : (setShadow ca v s).free = s.free := rfl

@[simp] theorem modCab_out (i : Isl) (f : CabSt → CabSt) (s : Chip) : (modCab i f s).out = s.out := rfl
@[simp] theorem modCab_hostMem (i : Isl) (f : CabSt → CabSt) (s : Chip) : (modCab i f s).hostMem = s.hostMem := rfl
@[simp] theorem modCab_power (i : Isl) (f : CabSt → CabSt) (s : Chip) : (modCab i f s).power = s.power := rfl
@[simp] theorem modCab_boot (i : Isl) (f : CabSt → CabSt) (s : Chip) : (modCab i f s).boot = s.boot := rfl
@[simp] theorem modCab_host (i : Isl) (f : CabSt → CabSt) (s : Chip) : (modCab i f s).host = s.host := rfl
@[simp] theorem modCab_live (i : Isl) (f : CabSt → CabSt) (s : Chip) : (modCab i f s).live = s.live := rfl
@[simp] theorem modCab_staged (i : Isl) (f : CabSt → CabSt) (s : Chip) : (modCab i f s).staged = s.staged := rfl
@[simp] theorem modCab_shadow (i : Isl) (f : CabSt → CabSt) (s : Chip) : (modCab i f s).shadow = s.shadow := rfl
@[simp] theorem modCab_lastWrite (i : Isl) (f : CabSt → CabSt) (s : Chip) : (modCab i f s).lastWrite = s.lastWrite := rfl
@[simp] theorem modCab_ports (i : Isl) (f : CabSt → CabSt) (s : Chip) : (modCab i f s).ports = s.ports := rfl
@[simp] theorem modCab_pkt (i : Isl) (f : CabSt → CabSt) (s : Chip) : (modCab i f s).pkt = s.pkt := rfl
@[simp] theorem modCab_cipher (i : Isl) (f : CabSt → CabSt) (s : Chip) : (modCab i f s).cipher = s.cipher := rfl
@[simp] theorem modCab_time (i : Isl) (f : CabSt → CabSt) (s : Chip) : (modCab i f s).time = s.time := rfl
@[simp] theorem modCab_tm (i : Isl) (f : CabSt → CabSt) (s : Chip) : (modCab i f s).tm = s.tm := rfl
@[simp] theorem modCab_sb (i : Isl) (f : CabSt → CabSt) (s : Chip) : (modCab i f s).sb = s.sb := rfl
@[simp] theorem modCab_pmc (i : Isl) (f : CabSt → CabSt) (s : Chip) : (modCab i f s).pmc = s.pmc := rfl
@[simp] theorem modCab_bist (i : Isl) (f : CabSt → CabSt) (s : Chip) : (modCab i f s).bist = s.bist := rfl
@[simp] theorem modCab_free (i : Isl) (f : CabSt → CabSt) (s : Chip) : (modCab i f s).free = s.free := rfl

@[simp] theorem modPort_out (p : Nat) (f : Port → Port) (s : Chip) : (modPort p f s).out = s.out := by unfold modPort; split <;> rfl
@[simp] theorem modPort_hostMem (p : Nat) (f : Port → Port) (s : Chip) : (modPort p f s).hostMem = s.hostMem := by unfold modPort; split <;> rfl
@[simp] theorem modPort_power (p : Nat) (f : Port → Port) (s : Chip) : (modPort p f s).power = s.power := by unfold modPort; split <;> rfl
@[simp] theorem modPort_boot (p : Nat) (f : Port → Port) (s : Chip) : (modPort p f s).boot = s.boot := by unfold modPort; split <;> rfl
@[simp] theorem modPort_host (p : Nat) (f : Port → Port) (s : Chip) : (modPort p f s).host = s.host := by unfold modPort; split <;> rfl
@[simp] theorem modPort_live (p : Nat) (f : Port → Port) (s : Chip) : (modPort p f s).live = s.live := by unfold modPort; split <;> rfl
@[simp] theorem modPort_staged (p : Nat) (f : Port → Port) (s : Chip) : (modPort p f s).staged = s.staged := by unfold modPort; split <;> rfl
@[simp] theorem modPort_shadow (p : Nat) (f : Port → Port) (s : Chip) : (modPort p f s).shadow = s.shadow := by unfold modPort; split <;> rfl
@[simp] theorem modPort_lastWrite (p : Nat) (f : Port → Port) (s : Chip) : (modPort p f s).lastWrite = s.lastWrite := by
  unfold modPort; split <;> rfl
@[simp] theorem modPort_faults (p : Nat) (f : Port → Port) (s : Chip) : (modPort p f s).faults = s.faults := by unfold modPort; split <;> rfl
@[simp] theorem modPort_pkt (p : Nat) (f : Port → Port) (s : Chip) : (modPort p f s).pkt = s.pkt := by unfold modPort; split <;> rfl
@[simp] theorem modPort_cipher (p : Nat) (f : Port → Port) (s : Chip) : (modPort p f s).cipher = s.cipher := by unfold modPort; split <;> rfl
@[simp] theorem modPort_time (p : Nat) (f : Port → Port) (s : Chip) : (modPort p f s).time = s.time := by unfold modPort; split <;> rfl
@[simp] theorem modPort_tm (p : Nat) (f : Port → Port) (s : Chip) : (modPort p f s).tm = s.tm := by unfold modPort; split <;> rfl
@[simp] theorem modPort_sb (p : Nat) (f : Port → Port) (s : Chip) : (modPort p f s).sb = s.sb := by unfold modPort; split <;> rfl
@[simp] theorem modPort_pmc (p : Nat) (f : Port → Port) (s : Chip) : (modPort p f s).pmc = s.pmc := by unfold modPort; split <;> rfl
@[simp] theorem modPort_bist (p : Nat) (f : Port → Port) (s : Chip) : (modPort p f s).bist = s.bist := by unfold modPort; split <;> rfl
@[simp] theorem modPort_free (p : Nat) (f : Port → Port) (s : Chip) : (modPort p f s).free = s.free := by unfold modPort; split <;> rfl

@[simp] theorem modLane_out (l : Nat) (f : LaneSt → LaneSt) (s : Chip) : (modLane l f s).out = s.out := rfl
@[simp] theorem modLane_hostMem (l : Nat) (f : LaneSt → LaneSt) (s : Chip) : (modLane l f s).hostMem = s.hostMem := rfl
@[simp] theorem modLane_power (l : Nat) (f : LaneSt → LaneSt) (s : Chip) : (modLane l f s).power = s.power := rfl
@[simp] theorem modLane_boot (l : Nat) (f : LaneSt → LaneSt) (s : Chip) : (modLane l f s).boot = s.boot := rfl
@[simp] theorem modLane_host (l : Nat) (f : LaneSt → LaneSt) (s : Chip) : (modLane l f s).host = s.host := rfl
@[simp] theorem modLane_live (l : Nat) (f : LaneSt → LaneSt) (s : Chip) : (modLane l f s).live = s.live := rfl
@[simp] theorem modLane_staged (l : Nat) (f : LaneSt → LaneSt) (s : Chip) : (modLane l f s).staged = s.staged := rfl
@[simp] theorem modLane_shadow (l : Nat) (f : LaneSt → LaneSt) (s : Chip) : (modLane l f s).shadow = s.shadow := rfl
@[simp] theorem modLane_lastWrite (l : Nat) (f : LaneSt → LaneSt) (s : Chip) : (modLane l f s).lastWrite = s.lastWrite := rfl
@[simp] theorem modLane_faults (l : Nat) (f : LaneSt → LaneSt) (s : Chip) : (modLane l f s).faults = s.faults := rfl
@[simp] theorem modLane_pkt (l : Nat) (f : LaneSt → LaneSt) (s : Chip) : (modLane l f s).pkt = s.pkt := rfl
@[simp] theorem modLane_cipher (l : Nat) (f : LaneSt → LaneSt) (s : Chip) : (modLane l f s).cipher = s.cipher := rfl
@[simp] theorem modLane_time (l : Nat) (f : LaneSt → LaneSt) (s : Chip) : (modLane l f s).time = s.time := rfl
@[simp] theorem modLane_tm (l : Nat) (f : LaneSt → LaneSt) (s : Chip) : (modLane l f s).tm = s.tm := rfl
@[simp] theorem modLane_sb (l : Nat) (f : LaneSt → LaneSt) (s : Chip) : (modLane l f s).sb = s.sb := rfl
@[simp] theorem modLane_pmc (l : Nat) (f : LaneSt → LaneSt) (s : Chip) : (modLane l f s).pmc = s.pmc := rfl
@[simp] theorem modLane_bist (l : Nat) (f : LaneSt → LaneSt) (s : Chip) : (modLane l f s).bist = s.bist := rfl
@[simp] theorem modLane_free (l : Nat) (f : LaneSt → LaneSt) (s : Chip) : (modLane l f s).free = s.free := rfl

@[simp] theorem modPkt_out (f : PacketSt → PacketSt) (s : Chip) : (modPkt f s).out = s.out := rfl
@[simp] theorem modPkt_hostMem (f : PacketSt → PacketSt) (s : Chip) : (modPkt f s).hostMem = s.hostMem := rfl
@[simp] theorem modPkt_power (f : PacketSt → PacketSt) (s : Chip) : (modPkt f s).power = s.power := rfl
@[simp] theorem modPkt_boot (f : PacketSt → PacketSt) (s : Chip) : (modPkt f s).boot = s.boot := rfl
@[simp] theorem modPkt_host (f : PacketSt → PacketSt) (s : Chip) : (modPkt f s).host = s.host := rfl
@[simp] theorem modPkt_live (f : PacketSt → PacketSt) (s : Chip) : (modPkt f s).live = s.live := rfl
@[simp] theorem modPkt_staged (f : PacketSt → PacketSt) (s : Chip) : (modPkt f s).staged = s.staged := rfl
@[simp] theorem modPkt_shadow (f : PacketSt → PacketSt) (s : Chip) : (modPkt f s).shadow = s.shadow := rfl
@[simp] theorem modPkt_lastWrite (f : PacketSt → PacketSt) (s : Chip) : (modPkt f s).lastWrite = s.lastWrite := rfl
@[simp] theorem modPkt_faults (f : PacketSt → PacketSt) (s : Chip) : (modPkt f s).faults = s.faults := rfl
@[simp] theorem modPkt_ports (f : PacketSt → PacketSt) (s : Chip) : (modPkt f s).ports = s.ports := rfl
@[simp] theorem modPkt_cipher (f : PacketSt → PacketSt) (s : Chip) : (modPkt f s).cipher = s.cipher := rfl
@[simp] theorem modPkt_time (f : PacketSt → PacketSt) (s : Chip) : (modPkt f s).time = s.time := rfl
@[simp] theorem modPkt_tm (f : PacketSt → PacketSt) (s : Chip) : (modPkt f s).tm = s.tm := rfl
@[simp] theorem modPkt_sb (f : PacketSt → PacketSt) (s : Chip) : (modPkt f s).sb = s.sb := rfl
@[simp] theorem modPkt_pmc (f : PacketSt → PacketSt) (s : Chip) : (modPkt f s).pmc = s.pmc := rfl
@[simp] theorem modPkt_bist (f : PacketSt → PacketSt) (s : Chip) : (modPkt f s).bist = s.bist := rfl
@[simp] theorem modPkt_free (f : PacketSt → PacketSt) (s : Chip) : (modPkt f s).free = s.free := rfl

@[simp] theorem modQuarry_out (q : Nat) (f : QuarrySt → QuarrySt) (s : Chip) : (modQuarry q f s).out = s.out := rfl
@[simp] theorem modQuarry_hostMem (q : Nat) (f : QuarrySt → QuarrySt) (s : Chip) : (modQuarry q f s).hostMem = s.hostMem := rfl
@[simp] theorem modQuarry_power (q : Nat) (f : QuarrySt → QuarrySt) (s : Chip) : (modQuarry q f s).power = s.power := rfl
@[simp] theorem modQuarry_boot (q : Nat) (f : QuarrySt → QuarrySt) (s : Chip) : (modQuarry q f s).boot = s.boot := rfl
@[simp] theorem modQuarry_host (q : Nat) (f : QuarrySt → QuarrySt) (s : Chip) : (modQuarry q f s).host = s.host := rfl
@[simp] theorem modQuarry_live (q : Nat) (f : QuarrySt → QuarrySt) (s : Chip) : (modQuarry q f s).live = s.live := rfl
@[simp] theorem modQuarry_staged (q : Nat) (f : QuarrySt → QuarrySt) (s : Chip) : (modQuarry q f s).staged = s.staged := rfl
@[simp] theorem modQuarry_shadow (q : Nat) (f : QuarrySt → QuarrySt) (s : Chip) : (modQuarry q f s).shadow = s.shadow := rfl
@[simp] theorem modQuarry_lastWrite (q : Nat) (f : QuarrySt → QuarrySt) (s : Chip) : (modQuarry q f s).lastWrite = s.lastWrite := rfl
@[simp] theorem modQuarry_faults (q : Nat) (f : QuarrySt → QuarrySt) (s : Chip) : (modQuarry q f s).faults = s.faults := rfl
@[simp] theorem modQuarry_ports (q : Nat) (f : QuarrySt → QuarrySt) (s : Chip) : (modQuarry q f s).ports = s.ports := rfl
@[simp] theorem modQuarry_cipher (q : Nat) (f : QuarrySt → QuarrySt) (s : Chip) : (modQuarry q f s).cipher = s.cipher := rfl
@[simp] theorem modQuarry_time (q : Nat) (f : QuarrySt → QuarrySt) (s : Chip) : (modQuarry q f s).time = s.time := rfl
@[simp] theorem modQuarry_tm (q : Nat) (f : QuarrySt → QuarrySt) (s : Chip) : (modQuarry q f s).tm = s.tm := rfl
@[simp] theorem modQuarry_sb (q : Nat) (f : QuarrySt → QuarrySt) (s : Chip) : (modQuarry q f s).sb = s.sb := rfl
@[simp] theorem modQuarry_pmc (q : Nat) (f : QuarrySt → QuarrySt) (s : Chip) : (modQuarry q f s).pmc = s.pmc := rfl
@[simp] theorem modQuarry_bist (q : Nat) (f : QuarrySt → QuarrySt) (s : Chip) : (modQuarry q f s).bist = s.bist := rfl
@[simp] theorem modQuarry_free (q : Nat) (f : QuarrySt → QuarrySt) (s : Chip) : (modQuarry q f s).free = s.free := rfl

@[simp] theorem modChan_out (c : Nat) (f : ChanSt → ChanSt) (s : Chip) : (modChan c f s).out = s.out := rfl
@[simp] theorem modChan_hostMem (c : Nat) (f : ChanSt → ChanSt) (s : Chip) : (modChan c f s).hostMem = s.hostMem := rfl
@[simp] theorem modChan_power (c : Nat) (f : ChanSt → ChanSt) (s : Chip) : (modChan c f s).power = s.power := rfl
@[simp] theorem modChan_boot (c : Nat) (f : ChanSt → ChanSt) (s : Chip) : (modChan c f s).boot = s.boot := rfl
@[simp] theorem modChan_host (c : Nat) (f : ChanSt → ChanSt) (s : Chip) : (modChan c f s).host = s.host := rfl
@[simp] theorem modChan_live (c : Nat) (f : ChanSt → ChanSt) (s : Chip) : (modChan c f s).live = s.live := rfl
@[simp] theorem modChan_staged (c : Nat) (f : ChanSt → ChanSt) (s : Chip) : (modChan c f s).staged = s.staged := rfl
@[simp] theorem modChan_shadow (c : Nat) (f : ChanSt → ChanSt) (s : Chip) : (modChan c f s).shadow = s.shadow := rfl
@[simp] theorem modChan_lastWrite (c : Nat) (f : ChanSt → ChanSt) (s : Chip) : (modChan c f s).lastWrite = s.lastWrite := rfl
@[simp] theorem modChan_faults (c : Nat) (f : ChanSt → ChanSt) (s : Chip) : (modChan c f s).faults = s.faults := rfl
@[simp] theorem modChan_ports (c : Nat) (f : ChanSt → ChanSt) (s : Chip) : (modChan c f s).ports = s.ports := rfl
@[simp] theorem modChan_cipher (c : Nat) (f : ChanSt → ChanSt) (s : Chip) : (modChan c f s).cipher = s.cipher := rfl
@[simp] theorem modChan_time (c : Nat) (f : ChanSt → ChanSt) (s : Chip) : (modChan c f s).time = s.time := rfl
@[simp] theorem modChan_tm (c : Nat) (f : ChanSt → ChanSt) (s : Chip) : (modChan c f s).tm = s.tm := rfl
@[simp] theorem modChan_sb (c : Nat) (f : ChanSt → ChanSt) (s : Chip) : (modChan c f s).sb = s.sb := rfl
@[simp] theorem modChan_pmc (c : Nat) (f : ChanSt → ChanSt) (s : Chip) : (modChan c f s).pmc = s.pmc := rfl
@[simp] theorem modChan_bist (c : Nat) (f : ChanSt → ChanSt) (s : Chip) : (modChan c f s).bist = s.bist := rfl
@[simp] theorem modChan_free (c : Nat) (f : ChanSt → ChanSt) (s : Chip) : (modChan c f s).free = s.free := rfl

@[simp] theorem modLine_out (e : Bool) (n : Nat) (f : LineSt → LineSt) (s : Chip) : (modLine e n f s).out = s.out := by cases e <;> rfl
@[simp] theorem modLine_hostMem (e : Bool) (n : Nat) (f : LineSt → LineSt) (s : Chip) : (modLine e n f s).hostMem = s.hostMem := by cases e <;> rfl
@[simp] theorem modLine_power (e : Bool) (n : Nat) (f : LineSt → LineSt) (s : Chip) : (modLine e n f s).power = s.power := by cases e <;> rfl
@[simp] theorem modLine_boot (e : Bool) (n : Nat) (f : LineSt → LineSt) (s : Chip) : (modLine e n f s).boot = s.boot := by cases e <;> rfl
@[simp] theorem modLine_host (e : Bool) (n : Nat) (f : LineSt → LineSt) (s : Chip) : (modLine e n f s).host = s.host := by cases e <;> rfl
@[simp] theorem modLine_live (e : Bool) (n : Nat) (f : LineSt → LineSt) (s : Chip) : (modLine e n f s).live = s.live := by cases e <;> rfl
@[simp] theorem modLine_staged (e : Bool) (n : Nat) (f : LineSt → LineSt) (s : Chip) : (modLine e n f s).staged = s.staged := by cases e <;> rfl
@[simp] theorem modLine_shadow (e : Bool) (n : Nat) (f : LineSt → LineSt) (s : Chip) : (modLine e n f s).shadow = s.shadow := by cases e <;> rfl
@[simp] theorem modLine_lastWrite (e : Bool) (n : Nat) (f : LineSt → LineSt) (s : Chip) : (modLine e n f s).lastWrite = s.lastWrite := by
  cases e <;> rfl
@[simp] theorem modLine_faults (e : Bool) (n : Nat) (f : LineSt → LineSt) (s : Chip) : (modLine e n f s).faults = s.faults := by cases e <;> rfl
@[simp] theorem modLine_ports (e : Bool) (n : Nat) (f : LineSt → LineSt) (s : Chip) : (modLine e n f s).ports = s.ports := by cases e <;> rfl
@[simp] theorem modLine_cipher (e : Bool) (n : Nat) (f : LineSt → LineSt) (s : Chip) : (modLine e n f s).cipher = s.cipher := by cases e <;> rfl
@[simp] theorem modLine_time (e : Bool) (n : Nat) (f : LineSt → LineSt) (s : Chip) : (modLine e n f s).time = s.time := by cases e <;> rfl
@[simp] theorem modLine_tm (e : Bool) (n : Nat) (f : LineSt → LineSt) (s : Chip) : (modLine e n f s).tm = s.tm := by cases e <;> rfl
@[simp] theorem modLine_sb (e : Bool) (n : Nat) (f : LineSt → LineSt) (s : Chip) : (modLine e n f s).sb = s.sb := by cases e <;> rfl
@[simp] theorem modLine_pmc (e : Bool) (n : Nat) (f : LineSt → LineSt) (s : Chip) : (modLine e n f s).pmc = s.pmc := by cases e <;> rfl
@[simp] theorem modLine_bist (e : Bool) (n : Nat) (f : LineSt → LineSt) (s : Chip) : (modLine e n f s).bist = s.bist := by cases e <;> rfl
@[simp] theorem modLine_free (e : Bool) (n : Nat) (f : LineSt → LineSt) (s : Chip) : (modLine e n f s).free = s.free := by cases e <;> rfl

@[simp] theorem modSm_out (n : Nat) (f : SmSt → SmSt) (s : Chip) : (modSm n f s).out = s.out := rfl
@[simp] theorem modSm_hostMem (n : Nat) (f : SmSt → SmSt) (s : Chip) : (modSm n f s).hostMem = s.hostMem := rfl
@[simp] theorem modSm_power (n : Nat) (f : SmSt → SmSt) (s : Chip) : (modSm n f s).power = s.power := rfl
@[simp] theorem modSm_boot (n : Nat) (f : SmSt → SmSt) (s : Chip) : (modSm n f s).boot = s.boot := rfl
@[simp] theorem modSm_host (n : Nat) (f : SmSt → SmSt) (s : Chip) : (modSm n f s).host = s.host := rfl
@[simp] theorem modSm_live (n : Nat) (f : SmSt → SmSt) (s : Chip) : (modSm n f s).live = s.live := rfl
@[simp] theorem modSm_staged (n : Nat) (f : SmSt → SmSt) (s : Chip) : (modSm n f s).staged = s.staged := rfl
@[simp] theorem modSm_shadow (n : Nat) (f : SmSt → SmSt) (s : Chip) : (modSm n f s).shadow = s.shadow := rfl
@[simp] theorem modSm_lastWrite (n : Nat) (f : SmSt → SmSt) (s : Chip) : (modSm n f s).lastWrite = s.lastWrite := rfl
@[simp] theorem modSm_faults (n : Nat) (f : SmSt → SmSt) (s : Chip) : (modSm n f s).faults = s.faults := rfl
@[simp] theorem modSm_ports (n : Nat) (f : SmSt → SmSt) (s : Chip) : (modSm n f s).ports = s.ports := rfl
@[simp] theorem modSm_pkt (n : Nat) (f : SmSt → SmSt) (s : Chip) : (modSm n f s).pkt = s.pkt := rfl
@[simp] theorem modSm_cipher (n : Nat) (f : SmSt → SmSt) (s : Chip) : (modSm n f s).cipher = s.cipher := rfl
@[simp] theorem modSm_time (n : Nat) (f : SmSt → SmSt) (s : Chip) : (modSm n f s).time = s.time := rfl
@[simp] theorem modSm_tm (n : Nat) (f : SmSt → SmSt) (s : Chip) : (modSm n f s).tm = s.tm := rfl
@[simp] theorem modSm_bist (n : Nat) (f : SmSt → SmSt) (s : Chip) : (modSm n f s).bist = s.bist := rfl
@[simp] theorem modSm_free (n : Nat) (f : SmSt → SmSt) (s : Chip) : (modSm n f s).free = s.free := rfl

@[simp] theorem modCipher_out (f : CipherSt → CipherSt) (s : Chip) : (modCipher f s).out = s.out := rfl
@[simp] theorem modCipher_hostMem (f : CipherSt → CipherSt) (s : Chip) : (modCipher f s).hostMem = s.hostMem := rfl
@[simp] theorem modCipher_power (f : CipherSt → CipherSt) (s : Chip) : (modCipher f s).power = s.power := rfl
@[simp] theorem modCipher_boot (f : CipherSt → CipherSt) (s : Chip) : (modCipher f s).boot = s.boot := rfl
@[simp] theorem modCipher_host (f : CipherSt → CipherSt) (s : Chip) : (modCipher f s).host = s.host := rfl
@[simp] theorem modCipher_live (f : CipherSt → CipherSt) (s : Chip) : (modCipher f s).live = s.live := rfl
@[simp] theorem modCipher_staged (f : CipherSt → CipherSt) (s : Chip) : (modCipher f s).staged = s.staged := rfl
@[simp] theorem modCipher_shadow (f : CipherSt → CipherSt) (s : Chip) : (modCipher f s).shadow = s.shadow := rfl
@[simp] theorem modCipher_lastWrite (f : CipherSt → CipherSt) (s : Chip) : (modCipher f s).lastWrite = s.lastWrite := rfl
@[simp] theorem modCipher_faults (f : CipherSt → CipherSt) (s : Chip) : (modCipher f s).faults = s.faults := rfl
@[simp] theorem modCipher_ports (f : CipherSt → CipherSt) (s : Chip) : (modCipher f s).ports = s.ports := rfl
@[simp] theorem modCipher_pkt (f : CipherSt → CipherSt) (s : Chip) : (modCipher f s).pkt = s.pkt := rfl
@[simp] theorem modCipher_time (f : CipherSt → CipherSt) (s : Chip) : (modCipher f s).time = s.time := rfl
@[simp] theorem modCipher_tm (f : CipherSt → CipherSt) (s : Chip) : (modCipher f s).tm = s.tm := rfl
@[simp] theorem modCipher_sb (f : CipherSt → CipherSt) (s : Chip) : (modCipher f s).sb = s.sb := rfl
@[simp] theorem modCipher_pmc (f : CipherSt → CipherSt) (s : Chip) : (modCipher f s).pmc = s.pmc := rfl
@[simp] theorem modCipher_bist (f : CipherSt → CipherSt) (s : Chip) : (modCipher f s).bist = s.bist := rfl
@[simp] theorem modCipher_free (f : CipherSt → CipherSt) (s : Chip) : (modCipher f s).free = s.free := rfl

@[simp] theorem modTime_out (f : TimeSt → TimeSt) (s : Chip) : (modTime f s).out = s.out := rfl
@[simp] theorem modTime_hostMem (f : TimeSt → TimeSt) (s : Chip) : (modTime f s).hostMem = s.hostMem := rfl
@[simp] theorem modTime_power (f : TimeSt → TimeSt) (s : Chip) : (modTime f s).power = s.power := rfl
@[simp] theorem modTime_boot (f : TimeSt → TimeSt) (s : Chip) : (modTime f s).boot = s.boot := rfl
@[simp] theorem modTime_host (f : TimeSt → TimeSt) (s : Chip) : (modTime f s).host = s.host := rfl
@[simp] theorem modTime_live (f : TimeSt → TimeSt) (s : Chip) : (modTime f s).live = s.live := rfl
@[simp] theorem modTime_staged (f : TimeSt → TimeSt) (s : Chip) : (modTime f s).staged = s.staged := rfl
@[simp] theorem modTime_shadow (f : TimeSt → TimeSt) (s : Chip) : (modTime f s).shadow = s.shadow := rfl
@[simp] theorem modTime_lastWrite (f : TimeSt → TimeSt) (s : Chip) : (modTime f s).lastWrite = s.lastWrite := rfl
@[simp] theorem modTime_faults (f : TimeSt → TimeSt) (s : Chip) : (modTime f s).faults = s.faults := rfl
@[simp] theorem modTime_ports (f : TimeSt → TimeSt) (s : Chip) : (modTime f s).ports = s.ports := rfl
@[simp] theorem modTime_pkt (f : TimeSt → TimeSt) (s : Chip) : (modTime f s).pkt = s.pkt := rfl
@[simp] theorem modTime_cipher (f : TimeSt → TimeSt) (s : Chip) : (modTime f s).cipher = s.cipher := rfl
@[simp] theorem modTime_tm (f : TimeSt → TimeSt) (s : Chip) : (modTime f s).tm = s.tm := rfl
@[simp] theorem modTime_sb (f : TimeSt → TimeSt) (s : Chip) : (modTime f s).sb = s.sb := rfl
@[simp] theorem modTime_pmc (f : TimeSt → TimeSt) (s : Chip) : (modTime f s).pmc = s.pmc := rfl
@[simp] theorem modTime_bist (f : TimeSt → TimeSt) (s : Chip) : (modTime f s).bist = s.bist := rfl
@[simp] theorem modTime_free (f : TimeSt → TimeSt) (s : Chip) : (modTime f s).free = s.free := rfl

@[simp] theorem modDomain_out (n : Nat) (f : DomainSt → DomainSt) (s : Chip) : (modDomain n f s).out = s.out := rfl
@[simp] theorem modDomain_hostMem (n : Nat) (f : DomainSt → DomainSt) (s : Chip) : (modDomain n f s).hostMem = s.hostMem := rfl
@[simp] theorem modDomain_boot (n : Nat) (f : DomainSt → DomainSt) (s : Chip) : (modDomain n f s).boot = s.boot := rfl
@[simp] theorem modDomain_host (n : Nat) (f : DomainSt → DomainSt) (s : Chip) : (modDomain n f s).host = s.host := rfl
@[simp] theorem modDomain_live (n : Nat) (f : DomainSt → DomainSt) (s : Chip) : (modDomain n f s).live = s.live := rfl
@[simp] theorem modDomain_staged (n : Nat) (f : DomainSt → DomainSt) (s : Chip) : (modDomain n f s).staged = s.staged := rfl
@[simp] theorem modDomain_shadow (n : Nat) (f : DomainSt → DomainSt) (s : Chip) : (modDomain n f s).shadow = s.shadow := rfl
@[simp] theorem modDomain_lastWrite (n : Nat) (f : DomainSt → DomainSt) (s : Chip) : (modDomain n f s).lastWrite = s.lastWrite := rfl
@[simp] theorem modDomain_faults (n : Nat) (f : DomainSt → DomainSt) (s : Chip) : (modDomain n f s).faults = s.faults := rfl
@[simp] theorem modDomain_ports (n : Nat) (f : DomainSt → DomainSt) (s : Chip) : (modDomain n f s).ports = s.ports := rfl
@[simp] theorem modDomain_pkt (n : Nat) (f : DomainSt → DomainSt) (s : Chip) : (modDomain n f s).pkt = s.pkt := rfl
@[simp] theorem modDomain_cipher (n : Nat) (f : DomainSt → DomainSt) (s : Chip) : (modDomain n f s).cipher = s.cipher := rfl
@[simp] theorem modDomain_time (n : Nat) (f : DomainSt → DomainSt) (s : Chip) : (modDomain n f s).time = s.time := rfl
@[simp] theorem modDomain_tm (n : Nat) (f : DomainSt → DomainSt) (s : Chip) : (modDomain n f s).tm = s.tm := rfl
@[simp] theorem modDomain_sb (n : Nat) (f : DomainSt → DomainSt) (s : Chip) : (modDomain n f s).sb = s.sb := rfl
@[simp] theorem modDomain_pmc (n : Nat) (f : DomainSt → DomainSt) (s : Chip) : (modDomain n f s).pmc = s.pmc := rfl
@[simp] theorem modDomain_bist (n : Nat) (f : DomainSt → DomainSt) (s : Chip) : (modDomain n f s).bist = s.bist := rfl
@[simp] theorem modDomain_free (n : Nat) (f : DomainSt → DomainSt) (s : Chip) : (modDomain n f s).free = s.free := rfl

@[simp] theorem freeTake_out (s : Chip) : (freeTake s).out = s.out := rfl
@[simp] theorem freeTake_hostMem (s : Chip) : (freeTake s).hostMem = s.hostMem := rfl
@[simp] theorem freeTake_power (s : Chip) : (freeTake s).power = s.power := rfl
@[simp] theorem freeTake_boot (s : Chip) : (freeTake s).boot = s.boot := rfl
@[simp] theorem freeTake_host (s : Chip) : (freeTake s).host = s.host := rfl
@[simp] theorem freeTake_live (s : Chip) : (freeTake s).live = s.live := rfl
@[simp] theorem freeTake_staged (s : Chip) : (freeTake s).staged = s.staged := rfl
@[simp] theorem freeTake_shadow (s : Chip) : (freeTake s).shadow = s.shadow := rfl
@[simp] theorem freeTake_lastWrite (s : Chip) : (freeTake s).lastWrite = s.lastWrite := rfl
@[simp] theorem freeTake_faults (s : Chip) : (freeTake s).faults = s.faults := rfl
@[simp] theorem freeTake_ports (s : Chip) : (freeTake s).ports = s.ports := rfl
@[simp] theorem freeTake_pkt (s : Chip) : (freeTake s).pkt = s.pkt := rfl
@[simp] theorem freeTake_cipher (s : Chip) : (freeTake s).cipher = s.cipher := rfl
@[simp] theorem freeTake_time (s : Chip) : (freeTake s).time = s.time := rfl
@[simp] theorem freeTake_tm (s : Chip) : (freeTake s).tm = s.tm := rfl
@[simp] theorem freeTake_sb (s : Chip) : (freeTake s).sb = s.sb := rfl
@[simp] theorem freeTake_pmc (s : Chip) : (freeTake s).pmc = s.pmc := rfl
@[simp] theorem freeTake_bist (s : Chip) : (freeTake s).bist = s.bist := rfl

@[simp] theorem wantDomains_out (ns : List Nat) (s : Chip) : (wantDomains ns s).out = s.out := rfl
@[simp] theorem wantDomains_hostMem (ns : List Nat) (s : Chip) : (wantDomains ns s).hostMem = s.hostMem := rfl
@[simp] theorem wantDomains_boot (ns : List Nat) (s : Chip) : (wantDomains ns s).boot = s.boot := rfl
@[simp] theorem wantDomains_host (ns : List Nat) (s : Chip) : (wantDomains ns s).host = s.host := rfl
@[simp] theorem wantDomains_live (ns : List Nat) (s : Chip) : (wantDomains ns s).live = s.live := rfl
@[simp] theorem wantDomains_staged (ns : List Nat) (s : Chip) : (wantDomains ns s).staged = s.staged := rfl
@[simp] theorem wantDomains_shadow (ns : List Nat) (s : Chip) : (wantDomains ns s).shadow = s.shadow := rfl
@[simp] theorem wantDomains_lastWrite (ns : List Nat) (s : Chip) : (wantDomains ns s).lastWrite = s.lastWrite := rfl
@[simp] theorem wantDomains_faults (ns : List Nat) (s : Chip) : (wantDomains ns s).faults = s.faults := rfl
@[simp] theorem wantDomains_ports (ns : List Nat) (s : Chip) : (wantDomains ns s).ports = s.ports := rfl
@[simp] theorem wantDomains_pkt (ns : List Nat) (s : Chip) : (wantDomains ns s).pkt = s.pkt := rfl
@[simp] theorem wantDomains_cipher (ns : List Nat) (s : Chip) : (wantDomains ns s).cipher = s.cipher := rfl
@[simp] theorem wantDomains_time (ns : List Nat) (s : Chip) : (wantDomains ns s).time = s.time := rfl
@[simp] theorem wantDomains_tm (ns : List Nat) (s : Chip) : (wantDomains ns s).tm = s.tm := rfl
@[simp] theorem wantDomains_sb (ns : List Nat) (s : Chip) : (wantDomains ns s).sb = s.sb := rfl
@[simp] theorem wantDomains_pmc (ns : List Nat) (s : Chip) : (wantDomains ns s).pmc = s.pmc := rfl
@[simp] theorem wantDomains_bist (ns : List Nat) (s : Chip) : (wantDomains ns s).bist = s.bist := rfl
@[simp] theorem wantDomains_free (ns : List Nat) (s : Chip) : (wantDomains ns s).free = s.free := rfl

@[simp] theorem tapSelect_out (ir : Nat) (s : Chip) : (tapSelect ir s).out = s.out := rfl
@[simp] theorem tapSelect_hostMem (ir : Nat) (s : Chip) : (tapSelect ir s).hostMem = s.hostMem := rfl
@[simp] theorem tapSelect_boot (ir : Nat) (s : Chip) : (tapSelect ir s).boot = s.boot := rfl
@[simp] theorem tapSelect_host (ir : Nat) (s : Chip) : (tapSelect ir s).host = s.host := rfl
@[simp] theorem tapSelect_live (ir : Nat) (s : Chip) : (tapSelect ir s).live = s.live := rfl
@[simp] theorem tapSelect_staged (ir : Nat) (s : Chip) : (tapSelect ir s).staged = s.staged := rfl
@[simp] theorem tapSelect_shadow (ir : Nat) (s : Chip) : (tapSelect ir s).shadow = s.shadow := rfl
@[simp] theorem tapSelect_lastWrite (ir : Nat) (s : Chip) : (tapSelect ir s).lastWrite = s.lastWrite := rfl
@[simp] theorem tapSelect_faults (ir : Nat) (s : Chip) : (tapSelect ir s).faults = s.faults := rfl
@[simp] theorem tapSelect_ports (ir : Nat) (s : Chip) : (tapSelect ir s).ports = s.ports := rfl
@[simp] theorem tapSelect_pkt (ir : Nat) (s : Chip) : (tapSelect ir s).pkt = s.pkt := rfl
@[simp] theorem tapSelect_cipher (ir : Nat) (s : Chip) : (tapSelect ir s).cipher = s.cipher := rfl
@[simp] theorem tapSelect_time (ir : Nat) (s : Chip) : (tapSelect ir s).time = s.time := rfl
@[simp] theorem tapSelect_tm (ir : Nat) (s : Chip) : (tapSelect ir s).tm = s.tm := rfl
@[simp] theorem tapSelect_sb (ir : Nat) (s : Chip) : (tapSelect ir s).sb = s.sb := rfl
@[simp] theorem tapSelect_pmc (ir : Nat) (s : Chip) : (tapSelect ir s).pmc = s.pmc := rfl
@[simp] theorem tapSelect_bist (ir : Nat) (s : Chip) : (tapSelect ir s).bist = s.bist := rfl
@[simp] theorem tapSelect_free (ir : Nat) (s : Chip) : (tapSelect ir s).free = s.free := rfl

/-! Reads after updates -/

theorem ringOf_modRing (r k : Nat) (f : RingSt → RingSt) (s : Chip) :
    ringOf (modRing r f s) k = if k = r then f (ringOf s r) else ringOf s k := sget_smod ..

theorem dmaOf_modDma (q k : Nat) (f : RingSt → RingSt) (s : Chip) :
    dmaOf (modDma q f s) k = if k = q then f (dmaOf s q) else dmaOf s k := sget_smod ..

theorem cabOf_modCab (i j : Isl) (f : CabSt → CabSt) (s : Chip) :
    cabOf (modCab i f s) j = if j.code = i.code then f (cabOf s i) else cabOf s j := sget_smod ..

theorem domainSt_modDomain (n k : Nat) (f : DomainSt → DomainSt) (s : Chip) :
    domainSt (modDomain n f s) k = if k = n then f (domainSt s n) else domainSt s k := sget_smod ..

theorem portOf_setPort (p k : Nat) (v : Option Port) (s : Chip) :
    portOf (setPort p v s) k = if k = p then v else portOf s k := sget_sput ..

theorem portOf_modPort (p k : Nat) (f : Port → Port) (s : Chip) :
    portOf (modPort p f s) k = if k = p then (portOf s p).map f else portOf s k := by
  unfold modPort
  split
  · rename_i h; split
    · subst_vars; simp [h]
    · rfl
  · rename_i h; rw [portOf_setPort, h]; rfl

theorem laneOf_modLane (l k : Nat) (f : LaneSt → LaneSt) (s : Chip) :
    laneOf (modLane l f s) k = if k = l then f (laneOf s l) else laneOf s k := sget_smod ..

theorem quarryOf_modQuarry (q k : Nat) (f : QuarrySt → QuarrySt) (s : Chip) :
    quarryOf (modQuarry q f s) k = if k = q then f (quarryOf s q) else quarryOf s k := sget_smod ..

theorem chanOf_modChan (c k : Nat) (f : ChanSt → ChanSt) (s : Chip) :
    chanOf (modChan c f s) k = if k = c then f (chanOf s c) else chanOf s k := sget_smod ..

theorem smOf_modSm (n k : Nat) (f : SmSt → SmSt) (s : Chip) :
    smOf (modSm n f s) k = if k = n then f (smOf s n) else smOf s k := sget_smod ..

theorem queueOf_setQueue (q k : Nat) (l : List Copy) (s : Chip) :
    queueOf (setQueue q l s) k = if k = q then l else queueOf s k := sget_sput ..

theorem lineOf_modLine (e : Bool) (n k : Nat) (f : LineSt → LineSt) (s : Chip) :
    lineOf (modLine e n f s) e k = if k = n then f (lineOf s e n) else lineOf s e k := by cases e <;> exact sget_sput ..

theorem scratch_setScratch (r k v : Nat) (m : SmSt) :
    scratch (setScratch r v m) k = if k = r then v % 2 ^ 64 else scratch m k := sget_sput ..

theorem hostByte_hostWrite (a k : Nat) (bs : List Byte) (s : Chip) :
    hostByte (hostWrite a bs s) k = if a ≤ k ∧ k < a + bs.length then bs[k - a]? else hostByte s k := putBytes_find ..

/-- An Order that takes its status keeps the rest of its ring; every other ring stays. -/
theorem ringOf_finishOrder (r k : Nat) (st : Status) (v : DWord) (s : Chip) :
    ringOf (finishOrder r st v s) k = if k = r then { ringOf s r with running := (ringOf (finishOrder r st v s) r).running }
      else ringOf s k := by
  unfold finishOrder ringOf
  simp only [sget_smod, if_true]
  split
  · split
    · rfl
    · split <;> rfl
  · rfl

/-- The status an Order at work takes. -/
theorem running_finishOrder (r : Nat) (st : Status) (v : DWord) (s : Chip) (o : Running) (h : (ringOf s r).running = some o)
    (hn : o.outcome = none) : (ringOf (finishOrder r st v s) r).running = some { o with outcome := some (st, v) } := by
  unfold finishOrder ringOf
  rw [sget_smod, if_pos rfl]
  unfold ringOf at h
  simp only [h, hn, Option.isSome_none, Bool.false_eq_true, if_false]

end Sys2Proof.Machine
end

