-- ==== Sys2Proof/Laws/Run.lean ====
section
/-!
SUPPORT. How a command runs: what the two ways to carry one out answer, and the one place where an Order at work takes its status.
-/

namespace Sys2Proof.Machine

/-- A command whose units exist runs to a next state with the same queue. -/
theorem onUnit_next {b : Bool} (h : b = true) (s : State) (f : Chip → Chip) : onUnit b s f = .next { s with chip := f s.chip } := by
  subst h; rfl

/-- A command that names no unit of the device stops. -/
theorem onUnit_fault {b : Bool} (h : b = false) (s : State) (f : Chip → Chip) : onUnit b s f = .fault .noSuchUnit := by
  subst h; rfl

theorem onUnit_answers (b : Bool) (s : State) (f : Chip → Chip) :
    (b = true → ∃ t : Chip, onUnit b s f = .next { s with chip := t }) ∧ (b = false → onUnit b s f = .fault .noSuchUnit) :=
  ⟨fun h => ⟨_, onUnit_next h s f⟩, fun h => onUnit_fault h s f⟩

/-! Orders -/

/-- The effect of an Order at work whose domains are on. -/
theorem runOrder_atWork {s : State} {ring : Nat} {c : Instr} (h : AtWork s ring c) (needs : Chip → List Nat) (eff : Chip → Ran)
    (hn : needs s.chip = []) :
    runOrder ring c needs eff s.chip = match eff s.chip with
      | .done st res t => finishOrder ring st res t
      | .going t => modRing ring (fun v => { v with running := v.running.map (fun o => { o with begun := true }) }) t := by
  obtain ⟨_, hd, hh, o, hr, hc, ho, hb⟩ := h
  simp only [runOrder, runWith, hr, hd, ho, hb, hc, hn, hh]
  rw [if_neg (by simp)] <;> cases eff s.chip <;> rfl

/-- An Order at work that ends at once takes the status and the result of its effect. -/
theorem endOrder_atWork {s : State} {ring : Nat} {c : Instr} (h : AtWork s ring c) (needs : Chip → List Nat)
    (eff : Chip → Status × DWord × Chip) (hn : needs s.chip = []) :
    endOrder ring c needs eff s.chip = finishOrder ring (eff s.chip).1 (eff s.chip).2.1 (eff s.chip).2.2 := by
  rw [endOrder, runOrder_atWork h _ _ hn]

/-- An Order whose domains are off waits: they are wanted, and nothing else changes. -/
theorem runOrder_waits {s : State} {ring : Nat} {c : Instr} (h : AtWork s ring c) (needs : Chip → List Nat) (eff : Chip → Ran)
    (n : Nat) (ns : List Nat) (hn : needs s.chip = n :: ns) : runOrder ring c needs eff s.chip = wantDomains (n :: ns) s.chip := by
  obtain ⟨_, hd, hh, o, hr, hc, ho, hb⟩ := h
  simp only [runOrder, runWith, hr, hd, ho, hb, hc, hn, hh]
  rw [if_neg (by simp)]

/-- A command of an Order that the ring does not have at work does nothing. -/
theorem runOrder_other {s : Chip} {ring : Nat} {c : Instr} (h : ∀ o, (ringOf s ring).running = some o → o.cmd ≠ some c)
    (needs : Chip → List Nat) (eff : Chip → Ran) : runOrder ring c needs eff s = s := by
  unfold runOrder runWith
  split
  · rfl
  · rename_i o ho
    rw [if_pos (by simp [h o ho])]

/-! The host interface -/

theorem msix_rings (v : Nat) (s : Chip) : (msix v s).host.rings = s.host.rings := by unfold msix; (repeat' split) <;> rfl
theorem msix_dma (v : Nat) (s : Chip) : (msix v s).host.dma = s.host.dma := by unfold msix; (repeat' split) <;> rfl
theorem msix_nextSeq (v : Nat) (s : Chip) : (msix v s).host.nextSeq = s.host.nextSeq := by unfold msix; (repeat' split) <;> rfl
theorem msix_evRing (v : Nat) (s : Chip) : (msix v s).host.evRing = s.host.evRing := by unfold msix; (repeat' split) <;> rfl
theorem msix_hostMem (v : Nat) (s : Chip) : (msix v s).hostMem = s.hostMem := by unfold msix; (repeat' split) <;> rfl
theorem msix_pkt (v : Nat) (s : Chip) : (msix v s).pkt = s.pkt := by unfold msix; (repeat' split) <;> rfl

/-- A ring event is recorded; rings, queues and the sequence of Orders stay. -/
theorem ringEvent_does (s : Chip) : (ringEvent s).host.evRing = true ∧ (ringEvent s).host.rings = s.host.rings ∧
    (ringEvent s).host.dma = s.host.dma ∧ (ringEvent s).host.nextSeq = s.host.nextSeq ∧ (ringEvent s).hostMem = s.hostMem := by
  unfold ringEvent
  split
  · rename_i h; exact ⟨h, rfl, rfl, rfl, rfl⟩
  · simp only [msix_rings, msix_dma, msix_nextSeq, msix_evRing, msix_hostMem, and_self]

/-! Fields of a word -/

theorem putField_eq (x lo w v : Nat) :
    putField x lo w v = 2 ^ lo * (2 ^ w * (x / 2 ^ lo / 2 ^ w) + v % 2 ^ w) + x % 2 ^ lo := by
  unfold putField bits
  have e1 := Nat.div_add_mod x (2 ^ lo)
  have e2 := Nat.div_add_mod (x / 2 ^ lo) (2 ^ w)
  generalize x / 2 ^ lo / 2 ^ w = a at *
  generalize x / 2 ^ lo % 2 ^ w = b at *
  generalize x % 2 ^ lo = c at *
  rw [← e2, Nat.mul_add] at e1
  rw [Nat.mul_add, Nat.mul_comm b, Nat.mul_comm (v % 2 ^ w)]
  omega

/-- The bits of a word after a field is put into it. -/
theorem testBit_putField (x lo w v i : Nat) :
    (putField x lo w v).testBit i = if lo ≤ i ∧ i < lo + w then v.testBit (i - lo) else x.testBit i := by
  rw [putField_eq, Nat.testBit_two_pow_mul_add _ (Nat.mod_lt _ (Nat.two_pow_pos lo))]
  split
  · rename_i h
    rw [if_neg (by omega), Nat.testBit_mod_two_pow, decide_eq_true h, Bool.true_and]
  · rename_i h
    rw [Nat.testBit_two_pow_mul_add _ (Nat.mod_lt _ (Nat.two_pow_pos w))]
    split
    · rename_i h2
      rw [if_pos (by omega), Nat.testBit_mod_two_pow, decide_eq_true h2, Bool.true_and]
    · rename_i h2
      rw [if_neg (by omega), Nat.testBit_div_two_pow, Nat.testBit_div_two_pow]
      congr 1; omega

theorem testBit_bits (x lo w i : Nat) : (bits x lo w).testBit i = (decide (i < w) && x.testBit (lo + i)) := by
  rw [bits, Nat.testBit_mod_two_pow, Nat.testBit_div_two_pow, Nat.add_comm]

/-- A field put into a word reads back. -/
theorem bits_putField (x lo w v : Nat) : bits (putField x lo w v) lo w = v % 2 ^ w := by
  apply Nat.eq_of_testBit_eq
  intro i
  rw [testBit_bits, testBit_putField, Nat.testBit_mod_two_pow]
  by_cases h : i < w
  · rw [if_pos (by omega), Nat.add_sub_cancel_left]
  · simp [h]

/-- A field put into a word leaves the fields beside it. -/
theorem bits_putField_other (x lo w v a n : Nat) (h : a + n ≤ lo ∨ lo + w ≤ a) : bits (putField x lo w v) a n = bits x a n := by
  apply Nat.eq_of_testBit_eq
  intro i
  rw [testBit_bits, testBit_bits, testBit_putField]
  by_cases hi : i < n
  · rw [if_neg (by omega)]
  · simp [hi]

end Sys2Proof.Machine
end

