-- ==== Sys2Proof/Tests/Bench.lean ====
section
/-!
SUPPORT. The small states the tests are made on.
-/

namespace Sys2Proof.Tests

open Sys2Proof.Machine

/-- The device after its boot sequence, every domain on. -/
def up : Chip := { boot := { done := true, stage := 0x06 }, power := { supplyHeld := false } }

/-- A state with an empty queue. -/
def st (c : Chip) : State := { chip := c }

/-- An Order that has started and asks for a command. -/
def order (c : Instr) : Running := { cmd := some c, tag := 7, index := 0, notify := false, progress := false, seq := 0, start := 0 }

/-- A chip with that Order at work on ring 0. -/
def busyWith (c : Instr) (s : Chip) : Chip :=
  { s with host := { s.host with rings := [(0, { enable := true, cplTail := 1, running := some (order c) })] } }

/-- Such a state. -/
def work (c : Instr) (s : Chip := up) : State := st (busyWith c s)

theorem atWork (c : Instr) (s : Chip) (h : dead s = false) (h2 : orderHalted (busyWith c s) c = false := by rfl) :
    AtWork (work c s) 0 c :=
  ⟨by decide, h, h2, order c, rfl, rfl, rfl, rfl⟩

/-- While no Signalman is halted no Order waits for one. -/
theorem noneHalted (c : Instr) (s : Chip) (h : s.sb.sms = []) : orderHalted (busyWith c s) c = false := by
  simp [orderHalted, List.any_eq_false, smOf, busyWith, h, sget]

theorem ans (s : Chip) (i : Isl) (h : (!dead s && !isFenced s i && isOn s i) = true) : Answers s i := by
  simp only [Bool.and_eq_true, Bool.not_eq_true'] at h
  exact ⟨h.1.1, h.1.2, h.2⟩

/-- A port with one lane at 100 Gbit/s, in a state. -/
def port (x : PortState) : Port :=
  { mode := 0x04, an := true, train := true, rsFec := true, quietOk := true, advMask := 0x8, maxFrame := 1518, pfcEn := 0xFF, st := x
    inForce := 0x04, fecInForce := true }

/-- The device with that port on lane 0. -/
def withPort (x : PortState) : Chip := { up with ports := { up.ports with ports := [(0, some (port x))] } }

/-- A microword. -/
def word (w : Nat) : MwIn := { word := BitVec.ofNat 112 w }

end Sys2Proof.Tests
end

