-- ==== Sys2Proof/Tests/WitnessPorts.lean ====
section
/-!
SUPPORT. For each statement about commits, host frames, lanes, ports and groups, states and operands that meet its hypotheses together,
clause by clause.
-/

namespace Sys2Proof.Tests

open Sys2Proof.Machine
set_option Elab.async false

/-- Some islands fenced. -/
def fencedAll (is : List Isl) (s : Chip) : Chip :=
  { s with faults := { s.faults with cabs := (is.map (fun i => (i.code, { fenced := true }))) } }

theorem witness_BlockCommit :
    AtWork (work (.blockCommit 0 (2 ^ 58 - 1))) 0 (.blockCommit 0 (2 ^ 58 - 1)) ∧ AtWork (work (.blockCommit 0 1)) 0 (.blockCommit 0 1) ∧
    AtWork (work (.blockCommit 0 1) (fencedAll [.platform 0] up)) 0 (.blockCommit 0 1) ∧
    (0 < 2 ^ 58 - 1 ∧ 2 ^ 58 - 1 < 2 ^ 58 ∧ offDomains up ((maskIslands (2 ^ 58 - 1)).map (fun x => x.2)) = [] ∧
     ((maskIslands (2 ^ 58 - 1)).all (fun x => isFenced up x.2 = false)) ∧
     (let s := busyWith (.blockCommit 0 1) (fencedAll [.platform 0] up)
      offDomains s ((maskIslands 1).map (fun x => x.2)) = [] ∧ (maskIslands 1).any (fun x => isFenced s x.2 = true))) :=
  ⟨atWork _ _ (by decide), atWork _ _ (by decide), atWork _ _ (by decide), by decide +kernel⟩

/-- A descriptor of a queue from the host: 60 bytes at 0x1000 for port or queue 0, by its MODE. -/
def hostDescBytes (mode : Nat) : List Byte :=
  leBytes 8 0x1000 ++ leBytes 2 60 ++ [BitVec.ofNat 8 mode, 1] ++ leBytes 2 0 ++ leBytes 2 0

/-- Queue 16 or 31 with that descriptor at its head. -/
def hostQueue (q mode : Nat) : Chip :=
  { withPort .up with host := { up.host with dma := [(q, { enable := true, tail := 1, descs := [(0, some (hostDescBytes mode))] })] } }

theorem witness_HostFrames :
    ((∀ q ∈ [16, 31], ∀ mode ∈ [0, 1], let s := hostQueue q mode
       hostUp s = true ∧ chipHold s = false ∧ (dmaOf s q).descs = [(0, some (hostDescBytes mode))] ∧
         (dmaOf s q).enable = true ∧ (dmaOf s q).stopped = false ∧
       (sget [] s.host.hostFrames q).length < (dmaOf s q).freeSlots ∧ txLane s q = none ∧
       hostRefusal s none (hostDesc (hostDescBytes mode)) = none ∧ (hostDesc (hostDescBytes mode)).len ≤ 60 ∧
       (hostDesc (hostDescBytes mode)).mode = mode ∧ servingLine s (platformOf 0) = some 0 ∧ isFenced s (.iline 0) = false ∧
       isOn s (.iline 0) = true ∧ usableHalf s 0 ≠ none) ∧
     (let f : HostFrame := { slot := 3, tsreq := true, outcome := some (.ok, 5) }
      let s := { hostQueue 31 0 with host := { (hostQueue 31 0).host with hostFrames := [(31, [{ slot := 2, tsreq := false }, f])] } }
      hostUp s = true ∧ (dmaOf s 31).freeSlots ≠ 0 ∧
      (sget [] s.host.hostFrames 31).find? (fun f => f.outcome.isSome) = some f)) := by decide +kernel

/-- A partner that offers mode 0x03. -/
def speaks : Partner := { modes := 0x8, rsFec := true, page := none }

/-- The same port with another record. -/
def portIs (f : Port → Port) (x : PortState) : Chip := { up with ports := { up.ports with ports := [(511, some (f (port x)))] } }

/-- A port of four lanes. -/
def wide (v : Port) : Port := { v with mode := 0x13, inForce := 0x13 }
def wideUp (f : Port → Port) (x : PortState) : Chip := { up with ports := { up.ports with ports := [(508, some (f (wide (port x))))] } }

theorem witness_PortLinkStates :
    (∀ x, Answers (portIs id x) (.platform (platformOf 511))) ∧ (∀ x, Answers (wideUp id x) (.platform (platformOf 508))) ∧
    (∀ x, portOf (portIs id x) 511 = some (port x)) ∧ (∀ x, portOf (wideUp id x) 508 = some (wide (port x))) ∧
    highestMode (Nat.land (port .an).advMask.toNat (partnerModes speaks)) = some 3 ∧
    highestMode (Nat.land (port .an).advMask.toNat (partnerModes { speaks with modes := 0 })) = none ∧
    backoffWait 0 ≤ elapsed { portIs id .backoff with time := { up.time with run := 2000000000000 * 65536 } } 0 ∧
    modeWidth (port .aligning).inForce ≤ 1 ∧
    1 < modeWidth (wide (port .aligning)).inForce ∧ portLanes 511 (port .up) = [511] ∧
    (portLanes 508 (wide (port .up))).all (· < 512) = true :=
  ⟨fun x => by cases x <;> exact ans _ _ (by decide), fun x => by cases x <;> exact ans _ _ (by decide), fun x => by cases x <;> decide,
    fun x => by cases x <;> decide, by decide⟩

/-- The port on lane 511, its lane locked. -/
def laneIs (x : PortState) (l : LaneSt) : Chip := { portIs id x with ports := { (portIs id x).ports with lanes := [(511, l)] } }

theorem witness_LaneEvents :
    (let s := laneIs .up { los := false, lock := true, sd := true }
     laneAlive s 511 = true ∧ laneQuiet s 511 = false ∧ (laneOf s 511).los = false ∧ (laneOf s 511).lock = true ∧
       portOfLane s 511 = some 511 ∧ portOf s 511 = some (port .up)) ∧
    (let s := laneIs .fault { los := false }
     laneAlive s 511 = true ∧ portOfLane s 511 = some 511 ∧ portOf s 511 = some (port .fault) ∧ (laneOf s 511).lock = false) ∧
    (let s := laneIs .training { los := false }
     laneAlive s 511 = true ∧ portOfLane s 511 = some 511 ∧ portOf s 511 = some (port .training)) := by decide +kernel

/-- Ports 508 and 511 in a group that prefers 508: 511 stands by. -/
def standing (x : PortState) : Chip :=
  { portIs id x with ports :=
    { (portIs id x).ports with ports := [(508, some (port .up)), (511, some { port x with quietAgreed := true })]
                               groups := [(1023, some { spread := false, revert := true, quietStandby := true, wtr := 0, members := [508, 511]
                                                        current := some 508 })] } }

theorem witness_QuietState :
    (∀ x, Answers (standing x) (.platform (platformOf 511))) ∧
    (quietReady (standing .up) 511 { port .up with quietAgreed := true } = true ∧
     portOf (standing .up) 511 = some { port .up with quietAgreed := true } ∧
     portOf (standing .quiet) 511 = some { port .quiet with quietAgreed := true } ∧ (port .quiet).standbyLost = false ∧
     portOf (standing .waking) 511 = some { port .waking with quietAgreed := true } ∧
     (let s := { standing .quiet with ports := { (standing .quiet).ports with
        ports := [(508, some (port .fault)), (511, some { port .quiet with quietAgreed := true })] } }
      groupNeeds s 511 = true)) :=
  ⟨fun x => by cases x <;> exact ans _ _ (by decide), by decide +kernel⟩

/-- Port 511 in UP, whose priority 7's XOFF stands in Yard 7. -/
def xoffed : Chip := { standing .up with pkt := { up.pkt with yards := [(7, { xoff := [4095] })] } }

theorem witness_FlowControl :
    Answers xoffed (.platform (platformOf 511)) ∧
    (portOf xoffed 511 = some { port .up with quietAgreed := true } ∧ bit (port .up).pfcEn 7 = true ∧
     xoffPg xoffed (8 * 511 + bits (liveW xoffed (portWord 511 0x1000 0x04)).toNat (3 * 7) 3) = true ∧
     (let g : Mgmt := { mode := 0x30, an := false, adminDown := false, maxFrame := 1518, rxq := 15, txq := 0xFF, st := .up }
      let s := { up with ports := { up.ports with mgmt := [(3, some g)] } }
      mgmtOf s 3 = some g ∧ isFenced s .mg = false ∧ 1514 + 4 ≤ g.maxFrame) ∧
     (groupOf xoffed 1023).map (fun g => (g.revert, g.members.contains 511)) = some (true, true) ∧
     0 * 1000000 ≤ elapsed xoffed (port .up).upSince ∧ remaining xoffed (sget 0 (port .up).paused 7) = 0 ∧
     remaining xoffed (sget 0 [(7, 1000)] 7) ≠ 0) :=
  ⟨ans _ _ (by decide), by decide +kernel⟩

def tx9 : TxSet := { cm2 := 0, cm1 := 99, c0 := 0, c1 := 0, swing := 0 }

theorem witness_LaneTune :
    (let c : Instr := .laneTuneSetTx 0 { lane := 511, tx := tx9 }
     AtWork (work c (portIs id .up)) 0 c ∧ AtWork (work c (portIs id .an)) 0 c) ∧
    AtWork (work (.laneTuneFreezeRx 0 511) (portIs id .up)) 0 (.laneTuneFreezeRx 0 511) ∧
    AtWork (work (.laneTuneRelease 0 511) (portIs id .up)) 0 (.laneTuneRelease 0 511) ∧
    AtWork (work (.laneTuneReadTx 0 511) (portIs id .up)) 0 (.laneTuneReadTx 0 511) ∧
    AtWork (work (.laneTuneReadBest 0 511) (portIs id .up)) 0 (.laneTuneReadBest 0 511) ∧
    Answers (portIs id .up) (.platform (platformOf 511)) ∧
    (portOfLane (portIs id .up) 511 = some 511 ∧ (port .up).tuneBusy = false ∧ (port .an).tuneBusy = true ∧ clampTx tx9 ≠ tx9) :=
  ⟨⟨atWork _ _ (by decide), atWork _ _ (by decide)⟩, atWork _ _ (by decide), atWork _ _ (by decide), atWork _ _ (by decide),
    atWork _ _ (by decide), ans _ _ (by decide), by decide⟩

/-- PORT_SET of port or management lane `p` to a mode. -/
def setPort (p mode : Nat) (an mgmt : Bool) (adv : Word) (rxq txq : Nat) : PortSetOps :=
  { port := p, mode := mode, an := an, train := an, rsFec := false, quietOk := an, adminDown := false, mgmt := mgmt, advMask := adv
    maxFrame := 10244, pfcEn := if mgmt then 0 else 0xFF, recclk := 0, mgRxq := rxq, mgTxq := txq }

/-- FAILOVER_SET of group 1023. -/
def setGroup (kind : Nat) (ms : List Nat) : FailoverSetOps :=
  { group := 1023, kind := kind, revert := false, quietStandby := false, wtr := 0, count := ms.length, members := ms, payload := none }

theorem witness_PortOrders :
    (∀ o ∈ [setPort 511 0x04 true false 0x10 0 0, setPort 511 0 false false 0 0 0, setPort 512 0x04 true false 0x10 0 0,
        setPort 3 0x30 false true 0 15 31], AtWork (work (.portSet 0 o) (portIs id .up)) 0 (.portSet 0 o)) ∧
    AtWork (work (.portState 0 { port := 511, mgmt := false }) (portIs id .up)) 0 (.portState 0 { port := 511, mgmt := false }) ∧
    Answers (portIs id .up) (.platform (platformOf 511)) ∧
    (∀ o ∈ [setGroup 1 [511], setGroup 0 [], setGroup 3 [511]], AtWork (work (.failoverSet 0 o) (portIs id .up)) 0 (.failoverSet 0 o)) ∧
    (portNeeds (setPort 511 0x04 true false 0x10 0 0) up = [] ∧ portSetCheck (setPort 511 0x04 true false 0x10 0 0) up = none ∧
     portSetCheck (setPort 511 0 false false 0 0 0) (portIs id .up) = none ∧
     portSetCheck (setPort 512 0x04 true false 0x10 0 0) up = some .range ∧
     mgmtSetCheck (setPort 3 0x30 false true 0 15 31) up = none ∧
     failoverCheck (setGroup 1 [511]) (portIs id .up) = none ∧ failoverCheck (setGroup 3 [511]) (portIs id .up) = some .badOperand ∧
     (let s := { portIs id .up with ports := { (portIs id .up).ports with groups := [(1023, some { spread := false, revert := false
                                                                                                   quietStandby := false, wtr := 0
                                                                                                   members := [511] })] } }
      failoverCheck (setGroup 0 []) s = none)) :=
  ⟨fun o h => atWork _ _ (by decide), atWork _ _ (by decide), ans _ _ (by decide), fun o h => atWork _ _ (by decide),
    by decide +kernel⟩

/-- Management lane 3 in UP. -/
def lane3 : Chip :=
  { up with ports := { up.ports with
      mgmt := [(3, some { mode := 0x30, an := false, adminDown := false, maxFrame := 1518, rxq := 15, txq := 0xFF, st := .up })] } }

theorem witness_PortOrders_more :
    AtWork (work (.portState 0 { port := 3, mgmt := true }) lane3) 0 (.portState 0 { port := 3, mgmt := true }) ∧
    (let o := setPort 511 0x04 true false 0x10 0 0
     let s := fencedAll [.platform 31] (portIs id .up)
     AtWork (work (.portSet 0 o) s) 0 (.portSet 0 o) ∧ portNeeds o s = [] ∧ portSetCheck o s = some .fenced) ∧
    (mgmtOf lane3 3).isSome = true ∧ isFenced lane3 .mg = false :=
  ⟨atWork _ _ (by decide), ⟨atWork _ _ (by decide), by decide +kernel⟩, by decide, by decide⟩

end Sys2Proof.Tests
end

