-- ==== Sys2Proof/Tests/WitnessPacket.lean ====
section
/-!
SUPPORT. For each statement about the packet path, states and operands that meet its hypotheses together, clause by clause.
-/

namespace Sys2Proof.Tests

open Sys2Proof.Machine
set_option Elab.async false

/-- Port 511 in UP with a received frame of that many bytes. -/
def frameIn (n : Nat) : FrameIn := { port := 511, bytes := repl n 0, fcsOk := true }

theorem witness_FrameReception :
    Answers (portIs id .up) (.platform (platformOf 511)) ∧
    (portOf (portIs id .up) 511 = some (port .up) ∧ up.power.tileLost.contains (platformOf 511 / 4) = false ∧
     chipHold (portIs id .up) = false ∧ platformHeld (portIs id .up) (platformOf 511) = false ∧
     servingLine (portIs id .up) (platformOf 511) = some 31 ∧ (secyOf (portIs id .up) 511).enable = false ∧
     etherType (frameIn 60).bytes ≠ 0x8808 ∧ (port .up).maxFrame < (frameIn 1515).bytes.length + 4 ∧
     etherType (frameIn 1515).bytes ≠ 0x8808) := ⟨ans _ _ (by decide), by decide +kernel⟩

/-- A frame in front of a Line. -/
def rxAt (n : Nat) : RxFrame :=
  { fid := 5, line := n, bytes := repl 60 0, bad := 0, m := { inPort := 511 }, wb := {}, req := 4088, group := 0, cells := 1 }

/-- The device with that frame, the Line live or not. -/
def rxState (n : Nat) (live : Bool) : Chip :=
  { portIs id .up with pkt := { up.pkt with rx := [rxAt n], nextId := 6, ilines := if live then [(n, { live := true })] else [] } }

theorem witness_IngressPass :
    Answers (rxState 35 false) (.iline 35) ∧ Answers (rxState 35 true) (.iline 35) ∧
    (∀ live, usableHalf (rxState 35 live) 1 = some 1 ∧ nextRx (rxState 35 live) 35 = some (rxAt 35) ∧
      (lineOf (rxState 35 live) false 35).live = live) ∧ (rxAt 35).siding = false ∧
    (let s := fencedAll [.jn 0, .jn 1] (rxState 35 true)
     Answers s (.iline 35) ∧ nextRx s 35 = some (rxAt 35) ∧ (lineOf s false 35).live = true ∧ isFenced s (.jn 0) = true ∧
       isFenced s (.jn 1) = true) :=
  ⟨ans _ _ (by decide), ans _ _ (by decide), by decide +kernel, rfl, ans _ _ (by decide), by decide +kernel⟩

/-- A frame in half 1 of the Junction for port 511. -/
def jnAt : JnFrame :=
  { fid := 5, half := 1, line := 31, bytes := repl 60 0, bad := 0, m := { inPort := 508, dispKind := 1, dispTarget := 511, tc := 15 }
    wb := {}, req := 4088, group := 0, cells := 1, first := true, primary := true, mirrors := [], hostCopy := none }

/-- The device with that frame, in a Yard with room or without. -/
def jnState (free : Nat) : Chip := { portIs id .up with pkt := { up.pkt with jn := [jnAt], nextId := 6, yards := [(7, { free := free })] } }

/-- A copy for port 511 and its share. -/
def copyAt : Copy :=
  { cid := 6, fid := 5, queue := queueId 511 0, yard := 7, port := 511, kind := 0, cut := true, trunc := 0, bytes := repl 60 0
    places := [.shared], m := {}, wb := {} }
def shareAt : Share :=
  { fid := 5, yard := 7, req := 4088, c := 1, headroom := false, first := true, written := true, bad := 0, endBad := 0
    cells := [{ refcnt := 1, len := 60, crc := 0 }], bytes := repl 60 0 }

theorem witness_CopiesAndCells :
    Answers (jnState 131072) (.jn 1) ∧ Answers (jnState 0) (.jn 1) ∧
    (∀ free ∈ [131072, 0], nextJn (jnState free).pkt.jn 1 = some jnAt ∧
      sget [] (jnState free).pkt.inSrc jnAt.m.inPort = []) ∧
    (let ad (s : Chip) := admission s (queueYard s (queueId 511 15)) jnAt.req 1 (depthOf s (queueId 511 15))
      (qlimitOf s (queueYard s (queueId 511 15)) (queueId 511 15))
     (match ad (jnState 131072) with | .inr _ => true | .inl _ => false) = true ∧
     (match ad { jnState 0 with pkt := { (jnState 0).pkt with yards := [(7, { free := 0, held := [(4088, 131072)], sharedUsed := 131072 })] } }
        with | .inl _ => true | .inr _ => false) = true) ∧
    (let s := { up with pkt := { up.pkt with discards := [⟨copyAt⟩], shares := [shareAt] } }
     dead s = false ∧ s.pkt.discards.find? (fun x => x.copy.cid = 6) = some ⟨copyAt⟩ ∧ copyWritten s copyAt = true) :=
  ⟨ans _ _ (by decide), ans _ _ (by decide), by decide +kernel⟩

/-- That copy queued, the egress Line live. -/
def queued : Chip :=
  { portIs id .up with
    pkt := { up.pkt with queues := [(queueId 511 0, [copyAt])], shares := [shareAt], nextId := 7, elines := [(31, { live := true })] } }

/-- The copy on its way. -/
def txAt (stomp : Bool) : TxCopy :=
  { copy := copyAt, line := 31, out := repl 60 0, stomp := stomp, egTs := 0, egRun := 0, wire := repl 60 0, mirrors := [] }

theorem witness_Transmission :
    Answers queued (.eline 31) ∧
    (portOf queued 511 = some (port .up) ∧ servingLine queued (platformOf 511) = some 31 ∧ hasWindow queued 511 = true ∧
     usableHalf queued (1 % 2) = some 1 ∧
     (let sc := schedule 511 (prepareQueues ((span 0 20).map (queueId 511)) queued)
      let w := modPkt (fun k => { k with sidingSlots := smod 0 k.sidingSlots 31 (· - 1) }) sc.2
      sc.1 = some (queueId 511 0) ∧ headReady sc.2 (queueId 511 0) = some copyAt ∧ copyAt.queue = queueId 511 0 ∧
      dequeueStop 31 copyAt w = none ∧ egressView 31 copyAt w = .cur ∧ (secyOf queued 511).enable = false ∧
      (let m := { copyAt.m with epoch := countEpoch w copyAt.direct copyAt.m.epoch, eflags := setFlags copyAt.m.eflags (b2n copyAt.spilled) }
       let r := linePass true 31 1 false (readBytes copyAt) m {} w
       r.1.m.dispKind ≠ 5 ∧ r.1.m.dispKind ≠ 6 ∧ r.1.out.length + 4 ≤ (port .up).maxFrame ∧ r.1.ask.reqs = []))) ∧
    (∀ stomp, let s := { queued with pkt := { queued.pkt with tx := [txAt stomp], queues := [] } }
      dead s = false ∧ s.pkt.tx.find? (fun t => t.copy.port = 511 && t.copy.kind ≠ 2) = some (txAt stomp) ∧
        copyWritten s (txAt stomp).copy = true) := ⟨ans _ _ (by decide), by decide +kernel⟩

/-- An egress mirror copy staged whole, and a host copy. -/
def stagedAt : Staged :=
  { sid := 9, session := 63, half := 1, source := 6, yard := 7, queue := queueId 511 0, port := 511, bytes := repl 60 0, m := {}, wb := {}
    complete := true }
def hostCopyAt : JnFrame := { jnAt with hostCopy := some (15, 0) }

/-- Queue 15 with a buffer posted. -/
def toHost (en : Bool) : Chip :=
  let d : List Byte := leBytes 8 0x4000 ++ leBytes 4 65536 ++ leBytes 4 0
  { up with host := { up.host with dma := [(15, { enable := en, tail := 1, descs := [(0, some d)] })] }
            pkt := { up.pkt with hostCopies := [hostCopyAt] } }

theorem witness_SideCopies :
    (let s := { portIs id .up with pkt := { up.pkt with staged := [stagedAt] } }
     Answers s (.jn 1) ∧ (portOf s stagedAt.port).isSome = true ∧ s.pkt.staged.find? (fun g => g.half = 1 && g.complete) = some stagedAt) ∧
    (let s := { up with pkt := { up.pkt with sidings := [{ rxAt 35 with siding := true }] } }
     Answers s (.iline 35) ∧ s.pkt.sidings.find? (fun f => f.line = 35) = some { rxAt 35 with siding := true }) ∧
    ((∀ en, dead (toHost en) = false ∧ (toHost en).pkt.hostCopies = [hostCopyAt] ∧ hostCopyAt.hostCopy = some (15, 0) ∧
       (dmaOf (toHost en) 15).enable = en) ∧
     (let v := dmaOf (toHost true) 15
      let d := leBytes 8 0x4000 ++ leBytes 4 65536 ++ leBytes 4 0
      hostUp (toHost true) = true ∧ v.stopped = false ∧ v.waybill = false ∧ v.descs = [(0, some d)] ∧ v.freeSlots ≠ 0 ∧ leAt d 0 8 % 64 = 0 ∧
        leAt d 8 4 % 64 = 0 ∧ 256 ≤ leAt d 8 4 ∧ leAt d 8 4 ≤ 65536)) :=
  ⟨⟨ans _ _ (by decide), by decide +kernel⟩, ⟨ans _ _ (by decide), by decide +kernel⟩, by decide +kernel⟩

/-- Port 511 with sessions attached at its ingress. -/
def mirrored (l : NatSet) : Chip :=
  { portIs id .up with pkt := { up.pkt with sessions := [(61, some ⟨511, 0, 0⟩), (62, some ⟨511, 0, 0⟩), (63, some ⟨511, 0, 0⟩)]
                                            inSrc := [(511, l)] } }
def attach63 : MirrorAttachOps := { session := 63, port := 511, egress := false }
def set63 : MirrorSetOps := { session := 63, dest := 511, tc := 15, trunc := 10240 }

theorem witness_MirrorOrders :
    AtWork (work (.mirrorSetSet 0 set63) (mirrored [])) 0 (.mirrorSetSet 0 set63) ∧
    AtWork (work (.mirrorSetDelete 0 63) (mirrored [63])) 0 (.mirrorSetDelete 0 63) ∧
    (∀ l ∈ [[], [63], [61, 62]], AtWork (work (.mirrorSetAttach 0 attach63) (mirrored l)) 0 (.mirrorSetAttach 0 attach63)) ∧
    (∀ l ∈ [[], [63]], AtWork (work (.mirrorSetDetach 0 attach63) (mirrored l)) 0 (.mirrorSetDetach 0 attach63)) ∧
    (∀ l ∈ [[], [63], [61, 62]], (portOf (mirrored l) 511).isSome = true ∧ (sessionOf (mirrored l) 63).isSome = true ∧
      sourcesOf (mirrored l) false 511 = l) :=
  ⟨atWork _ _ (by decide), atWork _ _ (by decide), fun l h => atWork _ _ (by rfl), fun l h => atWork _ _ (by rfl), by decide⟩

/-- QUEUE_SET of port 511, of its queue 19 and of Siding queue 35, and of a group. -/
def qPort : QueuePortOps := { port := 511, len := 128, record := repl 128 0 }
def qQueue (q : Nat) : QueueQueueOps :=
  { queue := q, minRate := 1, maxRate := 3200000, minBurst := 1, maxBurst := 1023, level := 7, weight := 1, pfcPri := 0xFF, limitPct := 50 }
def qMc : QueueMcOps := { group := 16383, payload := { addr := 0x100, len := 64, data := repl 63 0 ++ [0x80#8] } }

theorem witness_QueueOrders :
    AtWork (work (.queueSetPort 0 qPort) (portIs id .up)) 0 (.queueSetPort 0 qPort) ∧
    (∀ q ∈ [queueId 511 19, 10275], AtWork (work (.queueSetQueue 0 (qQueue q)) (portIs id .up)) 0 (.queueSetQueue 0 (qQueue q))) ∧
    AtWork (work (.queueSetMcSet 0 qMc) (portIs id .up)) 0 (.queueSetMcSet 0 qMc) ∧
    AtWork (work (.queueSetMcRead 0 qMc) (portIs id .up)) 0 (.queueSetMcRead 0 qMc) ∧
    (let s := portIs id .up
     (queueNeeds 511 s = [] ∧ portOf s 511 = some (port .up) ∧ recordBad qPort.record = false ∧ queueFence s (platformOf 511) = none ∧
       hasStaged s (.platform (platformOf 511)) = false) ∧
     (∀ q ∈ [queueId 511 19, 10275], queueQueueNeeds q s = [] ∧ queueCheck (qQueue q) s = none ∧ queueIslFence s q = none) ∧
     queueLine s (queueId 511 19) = some 31 ∧ queueLine s 10275 = some 35 ∧
     maskPorts (leNat (qMc.payload.data.take 64)) = [511] ∧ (portOf s 511).isSome = true) :=
  ⟨atWork _ _ (by decide), fun q h => atWork _ _ (by rfl), atWork _ _ (by decide), atWork _ _ (by decide), by decide +kernel⟩

/-- An ingress image of one Course without a lookup, and a parse graph of one accepting state, with the CRC-32 of R189 in each. -/
def image : List Byte :=
  leBytes 4 0x4E4C524E ++ leBytes 2 1 ++ repl 2 0 ++ leBytes 4 208 ++ leBytes 2 1 ++ [1, 0] ++ leBytes 4 0x77 ++ repl 4 0 ++
  leBytes 4 0x3CDEEC7A ++ repl 36 0 ++ leBytes 2 1 ++ leBytes 2 0 ++ leBytes 4 80 ++ leBytes 4 128 ++ repl 4 0 ++ repl 128 0
def graph : List Byte :=
  leBytes 4 0x4750524E ++ leBytes 2 1 ++ repl 2 0 ++ leBytes 4 96 ++ leBytes 2 1 ++ leBytes 2 0 ++ leBytes 4 0x99 ++ repl 4 0 ++
  leBytes 4 0xCB5D2A10 ++ repl 36 0 ++ [0xFF, 0, 1, 0] ++ repl 20 0 ++ leBytes 2 0x1FF ++ repl 6 0
/-- The CRC of a run of bytes in pieces of 16, checked against the values the register takes after each. -/
def crcPieces (c : Word) : List Byte → List Word → Bool
  | bs, [] => bs.isEmpty
  | bs, v :: vs => decide ((bs.take 16).foldl (crc32Byte 0xEDB88320#32) c = v) && crcPieces v (bs.drop 16) vs

theorem crc_of_pieces (vs : List Word) : ∀ (c : Word) (bs : List Byte), crcPieces c bs vs = true →
    bs.foldl (crc32Byte 0xEDB88320#32) c = vs.getLastD c := by
  induction vs with
  | nil => intro c bs h; simp only [crcPieces, List.isEmpty_iff] at h; subst h; rfl
  | cons v vs ih =>
    intro c bs h
    simp only [crcPieces, Bool.and_eq_true, decide_eq_true_eq] at h
    obtain ⟨h1, h2⟩ := h
    have := ih v _ h2
    rw [← List.take_append_drop 16 bs, List.foldl_append, h1, this]
    cases vs <;> rfl


theorem graph_crc : crc32 (graph.take 0x18 ++ repl 4 0 ++ graph.drop 0x1C) = 0xCB5D2A10#32 := by
  have h : crcPieces 0xFFFFFFFF#32 (graph.take 0x18 ++ repl 4 0 ++ graph.drop 0x1C)
      [0x2FA03687#32, 0xF2E1B4EC#32, 0x22A1EAD7#32, 0x2D19D59#32, 0x2A9C73A1#32, 0x34A2D5EF#32] = true := by decide +kernel
  simp only [crc32, crc32With, crc_of_pieces _ _ _ h]
  decide

theorem image_crc : crc32 (image.take 0x18 ++ repl 4 0 ++ image.drop 0x1C) = 0x3CDEEC7A#32 := by
  have h : crcPieces 0xFFFFFFFF#32 (image.take 0x18 ++ repl 4 0 ++ image.drop 0x1C)
      [0x2B9F76C8#32, 0xE04B525D#32, 0x4714ECCB#32, 0xDEF4088B#32, 0x2B3189E3#32, 0x16EF62C1#32, 0x7B8BD3D7#32, 0x2948B43D#32,
       0xB6059B69#32, 0xB37E33DB#32, 0x288887B6#32, 0x72A5571E#32, 0xC3211385#32] = true := by decide +kernel
  simp only [crc32, crc32With, crc_of_pieces _ _ _ h]
  decide

theorem graph_ok : checkGraph graph 96 = none := by
  unfold checkGraph
  dsimp only
  rw [graph_crc]
  decide +kernel

theorem image_header : checkHeader image 208 = none := by
  unfold checkHeader
  dsimp only
  rw [image_crc]
  decide +kernel
theorem image_rest (img : List Byte) (n : Nat) (h : checkHeader img n = none) :
    checkImage img n =
    (let p := progOf img
    let cs := (span 0 p.courses.length).zip p.courses
    firstErr [checkLimits img p, firstErr (cs.map (fun x => checkCourse img p x.1 x.2)),
      firstErr (cs.map (fun x => checkBundles img x.1 x.2)), checkHeaderMap img p, checkDecls img p]) := by
  simp only [checkImage, h]
theorem image_ok : checkImage image 208 = none := (image_rest image 208 image_header).trans (by decide +kernel)

def load (img : List Byte) : LoadOps := { lines := 2 ^ 36 - 1, image := { addr := 0, len := img.length, data := img } }
def bank35 : EpochBankOps := { egress := true, bank := 2, line := 35 }

theorem witness_ProgramOrders :
    (∀ img ∈ [image, []], AtWork (work (.programLoad 0 (load img))) 0 (.programLoad 0 (load img))) ∧
    (∀ img ∈ [graph, []], AtWork (work (.parserLoad 0 (load img))) 0 (.parserLoad 0 (load img))) ∧
    AtWork (work (.epochStatusSummary 0)) 0 (.epochStatusSummary 0) ∧ AtWork (work (.epochStatusBank 0 bank35)) 0 (.epochStatusBank 0 bank35) ∧
    (checkImage image 208 = none ∧ checkGraph graph 96 = none) ∧
    ((checkImage [] 0).isSome = true ∧ (checkGraph [] 0).isSome = true ∧ lineNeeds (2 ^ 36 - 1) up = [] ∧
     (linesOf (2 ^ 36 - 1)).all (fun n => !isFenced up (lineIsl false n) && !commitWaits up n &&
       (stageProg false (progOf image) (lineOf up false n)).isSome) = true ∧
     offDomains up [lineIsl true 35] = [] ∧ isFenced up (lineIsl true 35) = false) :=
  ⟨fun l h => atWork _ _ (by rfl), fun l h => atWork _ _ (by rfl), atWork _ _ (by decide), atWork _ _ (by decide), ⟨image_ok, graph_ok⟩,
    by decide +kernel⟩

/-- EPOCH_COMMIT of every Line, and a device whose last epoch still drains. -/
def commitAll : EpochCommitOps :=
  { lines := 2 ^ 36 - 1, wait := true, expectValid := false, expect := 0, ageMs := 10, timeoutMs := 60000 }
def draining (w : Bool) : Chip :=
  { up with pkt := { up.pkt with epoch := { live := true, cur := 65535, draining := true
                                            waiting := if w then some (0, 2 ^ 36 - 1, 10, 60000, 0) else none } } }

theorem witness_EpochCommit :
    AtWork (work (.epochCommit 0 commitAll)) 0 (.epochCommit 0 commitAll) ∧
    AtWork (work (.epochCommit 0 commitAll) (draining false)) 0 (.epochCommit 0 commitAll) ∧
    (lineNeeds commitAll.lines up = [] ∧ commitCheck commitAll up = none ∧ commitAllowed up = true ∧
     commitCheck commitAll (draining false) = none ∧ commitAllowed (draining false) = false ∧
     (dead (draining true) = false ∧ (draining true).pkt.epoch.waiting = some (0, 2 ^ 36 - 1, 10, 60000, 0) ∧
       commitAllowed (draining true) = false) ∧
     (let s := { draining true with pkt := { up.pkt with epoch := { (draining true).pkt.epoch with draining := false } } }
      commitAllowed s = true ∧ dead s = false) ∧
     (let s := { draining true with time := { up.time with run := 60000000000 * 65536 } }
      60000 * 1000000 ≤ elapsed s 0 ∧ s.pkt.epoch.ageMs * 1000000 ≤ elapsed s s.pkt.epoch.phase2) ∧
     (draining false).pkt.epoch.draining = true ∧ drainingHeld (draining false) = 0) :=
  ⟨atWork _ _ (by decide), atWork _ _ (by decide), by decide +kernel⟩

/-- An EXACT table with aging and learning, a PRIORITY table, a DIRECT table and a wide Ledger, in the current bank of ingress Line 35. -/
def exactDecl : TableDecl :=
  { id := 63, tkind := 1, keyBits := 32, adWords := 1, adMode := 0, adTable := 0, tflags := 7, blocks := 4, learnAction := 1, evq := 0xFF
    pfxWidth := 0, pfxLsb := 0, agePeriod := 1, hseed := 0, entries := 0, missAd := [] }
def prioDecl : TableDecl := { exactDecl with id := 62, tkind := 3, tflags := 0, blocks := 1, learnAction := 0, agePeriod := 0 }
def directDecl : TableDecl :=
  { exactDecl with id := 61, tkind := 4, keyBits := 0, tflags := 0, blocks := 0, learnAction := 0, agePeriod := 0, entries := 2 }
def wideLedger : LedgerInst := { iid := 4, decl := { id := 15, wide := true, evq := 0xFF, entries := 2 }, vals := [(1, 5)] }

def exactInst (ents : Sparse Entry) : Inst := { iid := 1, decl := exactDecl, initAd := [], sram := [0, 1, 2, 3], ents := ents }
def prioInst : Inst := { iid := 2, decl := prioDecl, initAd := [], tcam := [47], raw := true }
def directInst : Inst := { iid := 3, decl := directDecl, initAd := [0], direct := [(1, (2, [9]))] }

def tabled (ents : Sparse Entry) : Chip :=
  let p : Prog := { egress := false, progId := 0, crc := 0, courses := [], headers := [], deparse := [], tables := [exactDecl, prioDecl, directDecl]
                    ledgers := [wideLedger.decl] }
  { up with pkt := { up.pkt with ilines := [(35, {
      live := true, curProg := some { prog := p, binds := [(61, 3), (62, 2), (63, 1)], lbinds := [(15, 4)] }
      insts := [exactInst ents, prioInst, directInst], ledgers := [wideLedger]
      learnQ := [{ iid := 1, key := 7, value := 3 }], trackers := [{ iid := 1, key := 7, count := 1, start := 0 }] })] } }

/-- A record for a table, with an action, an index and a key. -/
def recBytes (id action index key : Nat) : List Byte :=
  [BitVec.ofNat 8 id, BitVec.ofNat 8 action, 0, 0] ++ repl 4 0 ++ leBytes 4 index ++ repl 4 0 ++ repl 32 0 ++ beBytes 64 key ++ repl 64 0
def tableOps (bytes : List Byte) : TableOps :=
  { lines := 2 ^ 35, egress := false, epoch := false, deep := true, absentOk := false, count := 1
    payload := { addr := 0x100, len := 176, data := bytes } }
def entry7 (h a : Bool) : Entry := { key := 7, action := 1, ad := [5], learned := true, hbit := h, abit := a }

theorem witness_TableOrders :
    (∀ b ∈ [recBytes 63 1 0 7, recBytes 61 1 1 0, recBytes 61 1 2 0], ∀ s ∈ [tabled [(9, entry7 true false)], tabled []],
      let o := tableOps b
      AtWork (work (.tableAdd 0 o []) s) 0 (.tableAdd 0 o []) ∧ AtWork (work (.tableDel 0 o []) s) 0 (.tableDel 0 o []) ∧
      AtWork (work (.tableModReplace 0 o []) s) 0 (.tableModReplace 0 o []) ∧
      AtWork (work (.tableModRead 0 o []) s) 0 (.tableModRead 0 o []) ∧ AtWork (work (.tableModDump 0 o []) s) 0 (.tableModDump 0 o [])) ∧
    (lineNeeds (2 ^ 35) (tabled []) = [] ∧ linesOf (2 ^ 35) = [35] ∧
     (∀ b ∈ [recBytes 63 1 0 7, recBytes 61 1 1 0, recBytes 61 1 2 0],
       listCheck (tableOps b) (tabled []) = none ∧ (recAt (tableOps b).payload.data 0).common = true) ∧
     (let l := lineOf (tabled []) false 35
      let e := recAt (recBytes 63 1 0 7) 0
      let d := recAt (recBytes 61 1 1 0) 0
      orderInst l false e.id = some (exactInst []) ∧ orderInst l false d.id = some directInst ∧
      recOk exactDecl { e with index := 0 } = true ∧ recOk directDecl { d with index := 0 } = true ∧
      (match addRec false true (exactInst []) e with | .inr _ => true | .inl _ => false) = true ∧
      addRec false true directInst d = .inl .badOperand ∧ delRec false false (exactInst []) e = .inl .notFound ∧
      (match delRec false false directInst d with | .inr _ => true | .inl _ => false) = true ∧
      (match replaceRec false directInst d with | .inr _ => true | .inl _ => false) = true ∧ d.action ≠ 0 ∧
      replaceRec false directInst (recAt (recBytes 61 1 2 0) 0) = .inl .range)) :=
  ⟨fun b _ s h => by
    simp only [List.mem_cons, List.not_mem_nil, or_false] at h
    rcases h with rfl | rfl <;> exact ⟨atWork _ _ (by rfl), atWork _ _ (by rfl), atWork _ _ (by rfl), atWork _ _ (by rfl), atWork _ _ (by rfl)⟩,
   by decide +kernel⟩

/-- LEDGER_WRITE of entry 1, TABLE_REHASH and TCAM_RAW on Line 35. -/
def ledgerOps : TableOps := tableOps ([15#8] ++ repl 7 0 ++ leBytes 4 1 ++ repl 4 0 ++ leBytes 8 0x100000002 ++ repl 152 0)
def rehash (id : Nat) : RehashOps := { line := 35, egress := false, id := id }
def rawOps (slice : Nat) : TcamRawOps :=
  { line := 35, egress := false, w := 1, slice := slice, payload := { addr := 0x100, len := 24, data := repl 24 0 } }

theorem witness_LedgerAndRaw :
    (∀ c : Instr, AtWork (work c (tabled [])) 0 c) ∧
    (let l := lineOf (tabled []) false 35
     let r := recAt ledgerOps.payload.data 0
     listCheck ledgerOps (tabled []) = none ∧ orderLedger l r.id = some wideLedger ∧ ledgerCommon r = true ∧ ledgerRec wideLedger r = none ∧
     lineNeed false 35 (tabled []) = [] ∧ rehashInst (rehash 62) (tabled []) = .inr prioInst ∧
     rehashInst (rehash 63) (tabled []) = .inr (exactInst []) ∧ bit exactDecl.tflags 2 = true ∧
     rawCheck (rawOps (2048 * 48 - 1)) (tabled []) = .inr (prioInst, 2047) ∧
     bits (leAt (rawOps 0).payload.data 16 8) 32 8 = 0) :=
  ⟨fun c => atWork _ _ rfl (noneHalted c _ rfl), by decide +kernel⟩

theorem witness_Learning :
    ((∀ ents ∈ [[], [(9, entry7 true false)], [(9, entry7 false true)], [(9, entry7 false false)]], dead (tabled ents) = false ∧
       (lineOf (tabled ents) false 35).learnQ = [{ iid := 1, key := 7, value := 3 }] ∧
       instOf (tabled ents) false 35 1 = some (exactInst ents)) ∧
     exactFind (exactInst []) 7 true = none ∧ bit exactDecl.tflags 0 = true ∧ 9 < roomOf exactDecl ∧
     sfind (exactInst [(9, entry7 false true)]).ents 9 = some (entry7 false true) ∧ (entry7 false true).vis = 0 ∧
     (entry7 false true).static = false ∧ isFenced (tabled []) (lineIsl false 35) = false ∧ 0 < 2048 * tcamBlocks false ∧
     sliceOwner (lineOf (tabled []) false 35) 0 = none ∧
     (let x : Tracker := { iid := 1, key := 7, count := 1, start := 0 }
      (lineOf (tabled []) false 35).trackers[0]? = some x ∧ trackerOver (tabled []) 35 x = false ∧
        trackerOver { tabled [] with time := { up.time with run := 65535 * 1000000 * 65536 } } 35 x = true)) := by decide +kernel

end Sys2Proof.Tests
end

