-- ==== Sys2Proof/Tests/WitnessSpill.lean ====
section
/-!
SUPPORT. For each statement about spill and ciphers, states and operands that meet its hypotheses together, clause by clause.
-/

namespace Sys2Proof.Tests

open Sys2Proof.Machine
set_option Elab.async false

/-- Queue 0 of port 511, and a whole copy of 32 cells in its spill stream. -/
def q511 : Nat := queueId 511 0
def streamCopy : Copy := { copyAt with bytes := repl 8192 0, places := repl 32 .shared, stream := true }

/-- Quarry 7 in service over its channel 3. -/
def quarry7 (segs : List Seg) : QuarrySt :=
  { enabled := true, ranks := 1, density := 4, capacity := 2 ^ 29, active := [3], mapActs := [3], channels := 8, segs := segs }

/-- A segment of the queue in a stage. -/
def segAt (stage : Nat) : Seg :=
  { id := 9, slot := 1, queue := q511, cells := (span 0 32).map (fun i => (6, i)), stage := stage, acts := [3], key := 1, chans := [3]
    hdrs := repl 32 { refcnt := 1, len := 256 } }

/-- The device with them: an allowance of 32 cells, a key in spill slot 1. -/
def spilling (segs : List Seg) (copies : List Copy) : Chip :=
  { portIs id .up with
    live := [(caddr (.quarry 7) (0x40000 + 16 * q511 + 8), 32#32)]
    cipher := { up.cipher with spill := [(1, some (repl 64 7))], spillActive := some 1 }
    pkt := { up.pkt with
      queues := if copies = [] then [] else [(q511, copies)]
      shares := if copies = [] then [] else [{ shareAt with cells := repl 32 { refcnt := 1, len := 256, crc := 0 }, bytes := repl 8192 0 }]
      qs := [(q511, { spillMode := true })], quarries := [(7, quarry7 segs)], nextId := 10
      chans := [(31, { trained := true, density := 4, openRow := [(7, some 1)] })] } }

theorem witness_SpillPath :
    (let s := spilling [] [streamCopy]
     dead s = false ∧ q511 < 10240 ∧ queueYard s q511 = 7 ∧ spillOpen s q511 = true ∧
       nextCells s q511 = some ((span 0 32).map (fun i => (6, i))) ∧ s.cipher.spillActive = some 1 ∧
       (sget none s.cipher.spill 1).isSome = true ∧ 32 * (segsOf s q511).length + 32 ≤ spillWord s 7 q511 8 ∧
       freeSlot (quarryOf s 7) = some 1 ∧ txRoom s 7 (writeTx (quarryOf s 7) (quarryOf s 7).mapActs 1) = true) ∧
    (∀ k ∈ [0, 1, 2], segWhere (spilling [segAt k] []) 9 = some (7, segAt k)) ∧
    (let s := spilling [segAt 1] []
     isFenced s (.quarry 7) = false ∧ readOpen (quarryOf s 7) = true ∧ (segsOf s q511).find? (fun g => g.stage < 2) = some (segAt 1) ∧
       ((segsOf s q511).filter (fun g => 2 ≤ g.stage)).length < 4 ∧
       headCells s q511 + 32 * ((segsOf s q511).filter (fun g => 2 ≤ g.stage)).length ≤ spillWord s 7 q511 4 ∧
       (∀ x ∈ segsOf s q511, x.stage ≠ 3) ∧ txRoom s 7 (unheldReads s 7 (readTx (quarryOf s 7) [3] 1)) = true) ∧
    (let s := spilling [segAt 2] []
     readOpen (quarryOf s 7) = true ∧ (∀ k ∈ (segAt 2).chans, (chanOf s (4 * 7 + k)).retraining = false) ∧
       (quarryOf s 7).fenced.contains (primaryHeader [3] 13 (2 ^ 29) 1).1 = false) ∧
    (segsOf (spilling [segAt 3] []) q511 = [segAt 3] ∧
      (match admission (spilling [segAt 3] []) 7 4099 32 0 1 with | .inr _ => true | .inl _ => false) = true) := by decide +kernel

/-- SPILL_SET of Quarry 7 and of queue 10239's Quarry. -/
def enable7 : SpillEnableOps := { quarry := 7, speed := 1, channels := 8, ranks := 2, grain := 14, bankXor := false }
def disable7 : SpillDisableOps := { quarry := 7, timeoutMs := 60000 }
def spillQ : SpillQueueOps := { queue := q511, allow := 2 ^ 28 - 32, thresh := 2 ^ 28 - 32, refill := 0 }
def spillOff : Chip := { spilling [] [] with pkt := { (spilling [] []).pkt with quarries := [] } }
/-- A Quarry that two Orders wait to disable. -/
def disabling (segs : List Seg) : Chip :=
  { spilling [] [] with pkt := { (spilling [] []).pkt with quarries := [(7, { quarry7 segs with disabling := [(0, 10, 0), (1, 20, 5)] })] } }

theorem witness_SpillOrders :
    AtWork (work (.spillSetEnable 0 enable7 {}) spillOff) 0 (.spillSetEnable 0 enable7 {}) ∧
    (∀ segs ∈ [[], [segAt 1]], AtWork (work (.spillSetDisable 0 disable7) (spilling segs [])) 0 (.spillSetDisable 0 disable7)) ∧
    AtWork (work (.spillSetQueue 0 spillQ) (spilling [] [])) 0 (.spillSetQueue 0 spillQ) ∧
    ((quarryNeeds 7 spillOff = [] ∧ (quarryOf spillOff 7).enabled = false ∧ (quarryOf spillOff 7).fenced = [] ∧
       spillOff.cipher.spillActive.isSome = true ∧ isFenced spillOff (.quarry 7) = false ∧ (span 0 4).filter (bit enable7.channels) = [3] ∧
       (goodDensity 2 { trained := [(31, 8)] } 31).isSome = true) ∧
     (∀ segs ∈ [[], [segAt 1]], quarryNeeds 7 (spilling segs []) = [] ∧ isFenced (spilling segs []) (.quarry 7) = false ∧
       (quarryOf (spilling segs []) 7).segs = segs ∧ dead (disabling segs) = false ∧ (quarryOf (disabling segs) 7).disabling ≠ [] ∧
       (quarryOf (disabling segs) 7).segs = segs) ∧
     (let s := { disabling [segAt 1] with time := { up.time with run := 10000000 * 65536 } }
      (quarryOf s 7).disabling = [(0, 10, 0), (1, 20, 5)] ∧ (quarryOf s 7).segs ≠ [] ∧ 10 * 1000000 ≤ elapsed s 0) ∧
     (let s := spilling [] []
      queueYard s q511 = 7 ∧ spillQ.allow % 32 = 0 ∧ spillQ.thresh % 32 = 0 ∧ queueExists s q511 = true ∧
        (spillMarks spillQ s).2 < (spillMarks spillQ s).1 ∧ (quarryOf s 7).enabled = true)) :=
  ⟨atWork _ _ (by decide), fun l h => atWork _ _ (by rfl), atWork _ _ (by rfl), by decide +kernel⟩

/-- Quarry 7 with one thing changed. -/
def quarryIs (f : QuarrySt → QuarrySt) : Chip :=
  { spilling [] [] with pkt := { (spilling [] []).pkt with quarries := [(7, f (quarry7 []))] } }
def retraining : Chip :=
  { spilling [] [] with pkt := { (spilling [] []).pkt with chans := [(31, { trained := true, density := 4, retraining := true, rings := [2] })] } }

theorem witness_DramService :
    (let s := spilling [] []
     dead s = false ∧ chanAwake s 31 = true ∧ fieldOf s (.quarry (31 / 4)) 0x0100 6 1 = 0 ∧ rowHits s 31 (nextBank s 31 0) = false ∧
       sget 0 (chanOf s 31).owed 0 = 0 ∧ 0 < (quarryOf s (31 / 4)).ranks ∧ (sget none (chanOf s 31).openRow 7).isSome = true ∧
       fieldOf s (.quarry (31 / 4)) 0x0108 8 12 ≤ elapsed { s with time := { s.time with run := 4095 * 65536 } } (sget 0 (chanOf s 31).rowAt 7)) ∧
    (let s := { spilling [] [] with live := [(caddr (.quarry 7) 0x0100, 0x40#32)] }
     dead s = false ∧ chanAwake s 31 = true ∧ fieldOf s (.quarry (31 / 4)) 0x0100 6 1 = 1) ∧
    (let h : ChanSt := { trained := true, density := 4, openRow := [(0, some 1)]
                         queue := [{ seg := 9, write := false, addr := 0 }] }
     let s := { quarryIs (fun v => { v with bankXor := false }) with pkt := { (quarryIs (fun v => { v with bankXor := false })).pkt with
       chans := [(31, { h with openRow := (span 0 8).map (fun b => (b, some 0)) })] } }
     rowHits s 31 (nextBank s 31 0) = true) ∧
    (dead retraining = false ∧ (chanOf retraining 31).retraining = true ∧ (sfind ({ trained := [(31, 4)] } : DramEnv).trained 31).isSome = true) := by
  decide +kernel

def train31 : DramTrainOps := { channel := 31, rank := 0, dqBit := 17, rd := 127, wr := 127, vref := 50 }

theorem witness_QuarryAndTraining :
    (∀ c : Instr, AtWork (work c (spilling [] [])) 0 c) ∧
    ((let s := { spilling [] [] with time := { up.time with run := 4095000 * 65536 } }
      dead s = false ∧ (quarryOf s 7).enabled = true ∧ (quarryOf s 7).selfRefresh = false ∧ (quarryOf s 7).segs = [] ∧
        (∀ k ∈ (quarryOf s 7).active, (chanOf s (4 * 7 + k)).retraining = false ∧ (chanOf s (4 * 7 + k)).queue = []) ∧
        fieldOf s (.quarry 7) 0x0108 20 12 ≠ 0 ∧ 1000 * fieldOf s (.quarry 7) 0x0108 20 12 ≤ elapsed s (quarryOf s 7).busyAt ∧
        trainNeeds train31 s = [] ∧ trainCheck train31 s = none ∧ (chanOf s train31.channel).retraining = false) ∧
     (let s := quarryIs (fun v => { v with selfRefresh := true })
      dead s = false ∧ (quarryOf s 7).selfRefresh = true) ∧
     (let s := quarryIs (fun v => { v with remap := true })
      dead s = false ∧ isFenced s (.quarry 7) = false ∧ (quarryOf s 7).remap = true ∧ (quarryOf s 7).segs = [])) :=
  ⟨fun c => atWork _ _ rfl (noneHalted c _ rfl), by decide +kernel⟩

/-- A key for a class and slot, port 511 with a SecY that has an association, and records for SA_SET. -/
def keyOps (cls kb slot n : Nat) : KeyWriteOps :=
  { cls := cls, keyBits := kb, slot := slot, fixed := 0, payload := { addr := 0x100, len := n, data := repl n 7 } }
def saAt : SaSt := { slot := 8191, nextAn := 0xFF, pn := 1, salt := 0 }
def secured (tx : Sparse (Option SaSt)) : Chip :=
  { portIs id .up with cipher := { up.cipher with secy := [(511, { enable := true, tx := tx })], link := [(8191, some (repl 16 7))] } }
def saRecordOps (data : List Byte) : SaRecordOps := { port := 511, rx := false, an := 3, payload := { addr := 0x100, len := 64, data := data } }
def saOps : SaOps := { port := 511, rx := false, an := 3 }
def installRecord : List Byte := leBytes 2 8191 ++ [0xFF] ++ repl 5 0 ++ leBytes 8 (2 ^ 32 - 1) ++ repl 48 0
def secyRecord : List Byte := [1] ++ repl 39 0 ++ [0xFF] ++ repl 23 0

/-- Link security is a build of the device (R353); a device without it has no LINK class and no SecY. -/
theorem witness_KeysAndAssociations :
    (∀ (c : Instr) (tx : Sparse (Option SaSt)), AtWork (work c (secured tx)) 0 c) ∧
    ((∀ o ∈ [keyOps 1 2 1 64, keyOps 2 0 255 16, keyOps 3 0 3 16], slotNeeds o.cls o.slot up = [] ∧ keyWriteCheck o up = none) ∧
     keyWriteCheck (keyOps 3 0 4 16) up = some .range ∧
     slotRange 2 255 = false ∧ slotEmpty up 2 255 = true ∧ slotEmpty (keyWrite (keyOps 2 0 255 16) up).2.2 2 255 = false) ∧
    (∀ tx ∈ [[], [(3, some saAt)]], secyNeeds 511 (secured tx) = []) ∧
    (∀ tx ∈ [[], [(3, some saAt)]], isFenced (secured tx) (.platform (platformOf 511)) = false ∧
      (secyOf (secured tx) 511).tx = tx ∧ (secyOf (secured tx) 511).rx = [] ∧ secyBad secyRecord = false ∧
      saBad (secyOf (secured tx) 511) false installRecord = false ∧ leAt installRecord 0 2 = 8191 ∧
      linkKey (secured tx) 8191 = some (repl 16 7) ∧ (secyOf (secured tx) 511).suite = 0 ∧ 8191 / 1024 = 511 / 64) ∧
    saOf (secured []) 511 false 3 = none ∧ saOf (secured [(3, some saAt)]) 511 false 3 = some saAt ∧
    (Config.linkCipher = true → saPort 511 (secured []) = none ∧ slotRange 0 8191 = false ∧ keyWriteCheck (keyOps 0 0 8191 16) up = none) := by
  refine ⟨fun c tx => atWork _ _ rfl (noneHalted c _ rfl), by decide +kernel, ?_, by decide +kernel, by decide +kernel, by decide +kernel,
    fun h => ?_⟩
  · cases h : Config.linkCipher <;> simp only [secyNeeds, h] <;> decide +kernel
  have hs : slotRange 0 8191 = false := by simp [slotRange, h, classSlots]
  refine ⟨?_, hs, ?_⟩
  · simp only [saPort, h]; decide +kernel
  · simp only [keyWriteCheck, keyOps, hs]; decide +kernel

/-- The descriptor of a job: MODE 1 with slot 255 over 16 bytes at 0x1000 to 0x2000. -/
def jobBytes : List Byte :=
  [1, 0] ++ leBytes 2 255 ++ repl 4 0 ++ leBytes 4 16 ++ repl 4 0 ++ leBytes 8 0x1000 ++ leBytes 8 0x2000 ++ repl 32 0
def jobOps : CipherJobOps := { payload := { addr := 0x100, len := 64, data := jobBytes } }
/-- A region that permits ring 0 everything below 2^32. -/
def regioned (s : Chip) : Chip :=
  { s with host := { s.host with regions := [(3, 1#32), (4, 0xFFFFFFFF#32), (5, 0xFFFFFFFF#32), (6, 3#32)] } }
def jobAt : JobSt := { ring := some 0, desc := jobBytes }
def jobbed (look : Sparse (Option LookSlot)) : Chip :=
  { up with cipher := { up.cipher with engines := [(3, { jobs := [jobAt] })], look := look } }

theorem witness_CipherJobs :
    AtWork (work (.cipherJob 0 jobOps) (regioned up)) 0 (.cipherJob 0 jobOps) ∧
    (descBad jobBytes = false ∧ descOverlap (jobDesc jobBytes) = false ∧ (jobDesc jobBytes).slot = 255 ∧
     descRegions (busyWith (.cipherJob 0 jobOps) (regioned up)) 0 (jobDesc jobBytes) = true ∧ isFenced up .ci = false ∧ engineFor up = some 0) ∧
    (∀ look ∈ [[], [(255, some ⟨repl 16 7, 0, 0⟩)]], dead (jobbed look) = false ∧ isFenced (jobbed look) .ci = false ∧
      nextJob (engineOf (jobbed look) 3) = some jobAt) ∧
    runJob (jobDesc jobBytes) ⟨[], [], [], none⟩ (sget none (jobbed []).cipher.look 255) = .inl .keyAbsent ∧
    (match runJob (jobDesc jobBytes) ⟨[], [], [], none⟩ (sget none (jobbed [(255, some ⟨repl 16 7, 0, 0⟩)]).cipher.look 255) with
      | .inr (out, _) => out.tag = [] | .inl _ => False) :=
  ⟨atWork _ _ (by decide), by decide +kernel, by decide +kernel, by rfl, by rfl⟩

end Sys2Proof.Tests
end

