-- ==== Sys2Proof/Tests/WitnessSignal.lean ====
section
/-!
SUPPORT. For each statement about the Signal Box, the test access port, self-test and the whole device, states and operands that meet its
hypotheses together, clause by clause.
-/

namespace Sys2Proof.Tests

open Sys2Proof.Machine
set_option Elab.async false

/-- The device with one thing set in Signalman 15. -/
def sm15 (f : SmSt → SmSt) : Chip := { up with sb := { up.sb with sms := [(15, f { running := true })] } }

theorem ready (s : Chip) (n : Nat) (h : (decide (n < 16) && smRuns s n && (smOf s n).wait.isNone && decide ((smOf s n).m.addr < 0x4000) &&
    (smOf s n).due.isEmpty && decide ((smOf s n).bracket = 0) && (smOf s n).bps.isEmpty && (smOf s n).steps.isNone) = true) : SmReady s n := by
  simp only [Bool.and_eq_true, decide_eq_true_eq, Option.isNone_iff_eq_none, List.isEmpty_iff] at h
  obtain ⟨⟨⟨⟨⟨⟨⟨a, b⟩, c⟩, d⟩, e⟩, f⟩, g⟩, i⟩ := h
  exact ⟨a, b, c, d, e, f, g, i⟩

theorem plain (w : Nat) (h : (!wHold w && !wWait w && decide (wCond w = 0) && !wCneg w) = true) : PlainWord w := by
  simp only [Bool.and_eq_true, Bool.not_eq_true', decide_eq_true_eq] at h
  exact ⟨h.1.1.1, h.1.1.2, h.1.2, h.2⟩

theorem witness_MicroSequencer :
    SmReady (sm15 id) 15 ∧ SmReady (sm15 (fun m => { m with m := { m.m with addr := 0x3FFF, lc := 1, stack := [1, 2, 3, 4, 5, 6, 7] } })) 15 ∧
    (∀ k ∈ [0, 1, 3, 4, 5, 6, 7, 8], PlainWord (putField (2 ^ 85) 108 4 k)) ∧
    (∀ k ∈ [0, 1, 3, 4, 5, 6, 7, 8], wAlu (putField (2 ^ 85) 108 4 k) = 0 ∧ wBus (putField (2 ^ 85) 108 4 k) = 0) ∧
    (let w := putField (2 ^ 105 + 2 ^ 100) 108 4 2
     wAlu w = 0 ∧ wBus w = 0 ∧ wHold w = false ∧ wWait w = false ∧ wCond w = 1 ∧ wCneg w = true) :=
  ⟨ready _ _ (by decide), ready _ _ (by decide), fun k h => plain _ (by revert k; decide), by decide, by decide⟩

theorem witness_MicroAlu :
    SmReady (sm15 (fun m => { m with m := { m.m with s := [(1, 2 ^ 64 - 1), (2, 1)] } })) 15 ∧
    (let x := (word (15 * 2 ^ 75 + 1 * 2 ^ 71 + 2 * 2 ^ 67 + 2 ^ 65)).word.toNat
     (∀ k ∈ span 0 13, PlainWord (putField x 79 6 k)) ∧
     (∀ k ∈ span 0 13, wSeq (putField x 79 6 k) = 0 ∧ wBus (putField x 79 6 k) = 0) ∧ wDst x = 15 ∧ wSrcA x = 1 ∧ wSrcB x = 2) :=
  ⟨ready _ _ (by decide), fun k h => plain _ (by revert k; decide +kernel), by decide +kernel, by decide, by decide, by decide⟩

/-- Registers of a bus word: a in s1, b in s2, the bus register s3. -/
def busSt (a b g : Nat) (loc : List Byte) : Chip :=
  let s := sm15 (putLoc (min a 60000) loc)
  let m := smOf s 15
  regioned { s with sb := { s.sb with sms := [(15, { m with m := { m.m with s := [(1, a), (2, b), (3, g)].filter (fun x => x.2 ≠ 0) } })] }
                    ports := (portIs id .up).ports
                    host := { s.host with rings := [(0, { enable := true, running := some (order .testReset) })] } }
def fw : Chip → Chip := fun s => { s with host := { s.host with regions := [(3, 1#32), (4, 0xFFFFFFFF#32), (5, 0xFFFFFFFF#32), (6, 7#32)] } }
/-- Signalman 15 about to post, with one Order at work and a value in s8. -/
def posting (o : Running) (v : Nat) : Chip :=
  let s := sm15 (fun m => { m with m := { m.m with s := [(8, v)] } })
  { s with host := { s.host with rings := [(0, { enable := true, cplTail := 1, running := some o })] } }
/-- The same with a to-host queue that has a buffer. -/
def fed : Chip :=
  { sm15 id with host := { up.host with dma := [(15, { enable := true, tail := 1, descs := [(0, some (leBytes 8 0 ++ leBytes 4 4096 ++ repl 4 0#8))] })] } }
/-- A bus word with an immediate. -/
def busWord (imm : Nat) : Nat := 1 * 2 ^ 71 + 2 * 2 ^ 67 + 3 * 2 ^ 57 + imm

theorem witness_MicroBus :
    (∀ imm ∈ [0, 4096, 7, 511], ∀ k ∈ span 0 9, PlainWord (putField (busWord imm) 61 4 k)) ∧
    SmReady (busSt 0 0 (caddr (.yard 7) 0x0100) []) 15 ∧ SmReady (posting { order .testReset with progress := true } (Status.pending.code * 2 ^ 16)) 15 ∧
    SmReady fed 15 ∧ Answers (busSt 0 0 (caddr (.yard 7) 0x0100) []) (.yard 7) ∧
    (wSeq (busWord 4096) = 0 ∧ wAlu (busWord 4096) = 0 ∧ wordAt (caddr (.yard 7) 0x0100 % 2 ^ 44) = .inr (.yard 7, 0x0100) ∧
     (let ca := caddr (.yard 7) 0x0100 % 2 ^ 44
      let s := busSt 5 0 ca []
      (smOf s 15).call = none ∧ fwriteRefused ca (BitVec.ofNat 32 511) = none ∧
        writeDomains s ca (BitVec.ofNat 32 5) (BitVec.ofNat 32 511) = [] ∧ (writeWord ca (BitVec.ofNat 32 5) (BitVec.ofNat 32 511) s).1 = .ok) ∧
     (let s := fw (busSt 61440 0 0x1000 [])
      61440 + 4096 ≤ 65536 ∧ inRegion s 0x1000 4096 (fun _ attr => bit attr 2) = true ∧
        inRegion s 0x1000 4096 (fun _ attr => bit attr 2 && bit attr 1) = true ∧ hostUp s = true) ∧
     (let s := busSt 0 0 0 []
      orderNamed s 7 = some 0 ∧ (statusOf (scratch (smOf s 15) 8 / 2 ^ 16 % 2 ^ 16)).isSome = true) ∧
     (let s := posting { order .testReset with progress := true } (Status.pending.code * 2 ^ 16)
      orderNamed s 7 = some 0 ∧ (statusOf (scratch (smOf s 15) 8 / 2 ^ 16 % 2 ^ 16)) = some .pending ∧ hostUp s = true ∧
        (ringOf s 0).running.map (fun o => (o.orphan, o.progress, o.pendingWritten)) = some (false, true, false)) ∧
     (let s := fed
      let q := bits (wImm (15 * 2 ^ 16 + 8)) 16 8
      orderNamed s 8 = none ∧ q < 16 ∧ (deliverTry q { record := true, inPort := 0xFFFF, reason := 0, ts := 0
                                                       bytes := leBytes 8 (scratch (smOf s 15) 8) ++ leBytes 8 (scratch (smOf s 15) 9)
                                                       waybill := [] } s).1 = true) ∧
     (let s := busSt (65536 - 10240) 10240 0 []
      (portOf s (wImm (busWord 511) % 512)).isSome = true ∧ scratch (smOf s 15) 2 % 2 ^ 14 = 10240 ∧ (framesLately s 511).length < 1000 ∧
        usableHalf s 0 ≠ none ∧ chipHold s = false) ∧
     (let s := fw (busSt 256 0 0 jobBytes)
      let d := locBytes (smOf s 15) 256 64
      descBad d = false ∧ descOverlap (jobDesc d) = false ∧ (jobDesc d).slot ≤ 255 ∧ descFirmware s (jobDesc d) = true ∧
        isFenced s .ci = false ∧ engineFor s = some 0)) ∧
    (let w : BusWait := { word := 2 ^ 106 + 5 * 2 ^ 100, done := false, err := false, governed := false, value := none, status := 0 }
     let s := sm15 (fun m => { m with wait := some w })
     w.done = false ∧ wCond w.word = 5 ∧ wCneg w.word = false ∧ smRuns s 15 = true ∧ (smOf s 15).wait = some w) :=
  ⟨fun imm hi k hk => plain _ (by revert imm k; decide +kernel), ready _ _ (by decide +kernel), ready _ _ (by decide +kernel), ready _ _ (by decide +kernel),
    ans _ _ (by decide +kernel), by decide +kernel, by decide⟩

def callOps : MicroCallOps := { sm := 15, entry := 255, arg0 := 1, arg1 := 2 }

theorem witness_MicroTraps :
    SmReady (sm15 id) 15 ∧
    (dead up = false ∧ up.boot.done = true ∧ (smOf (sm15 id) 15).fenced = false ∧ (smOf (sm15 id) 15).events = [] ∧
     (smOf (sm15 id) 15).running = true ∧ (smOf (sm15 id) 15).mask = false ∧ (smOf (sm15 id) 15).inTrap = false ∧
     (smOf (sm15 id) 15).wait = none ∧ smRuns (sm15 id) 15 = true ∧ (smOf (sm15 id) 15).due = [] ∧ (smOf (sm15 id) 15).bracket = 0 ∧
     (smOf (sm15 (fun m => { m with events := [3] })) 15).events ≠ [] ∧
     elapsed (sm15 id) (smOf (sm15 id) 15).turnAt < 10000000 ∧
     (let s := { sm15 id with time := { up.time with run := 10000000 * 65536 } }
      10000000 ≤ elapsed s (smOf s 15).turnAt ∧ smRuns s 15 = true) ∧
     bpHit (smOf (sm15 (fun m => { m with bps := [(7, some 0)] })) 15) = true ∧
     (smOf (sm15 (fun m => { m with due := [4, 8] })) 15).due.contains 4 = true ∧
     (smOf (sm15 (fun m => { m with due := [4, 8] })) 15).due.contains 8 = true ∧
     (smOf (sm15 (fun m => { m with steps := some 0 })) 15).steps = some 0) ∧
    (∀ (c : Instr), AtWork (work c) 0 c ∧ AtWork (work c { up with sb := { up.sb with cover := some 0 } }) 0 c) ∧
    (smOf up 15).fenced = false ∧ smIdle (smOf up 15) = true ∧ callOps.sm = 15 :=
  ⟨ready _ _ (by decide), by decide, fun c => ⟨atWork _ _ rfl (noneHalted c _ rfl), atWork _ _ rfl (noneHalted c _ rfl)⟩, by decide, by decide, rfl⟩

/-- The device with the DEBUG instruction in its TAP, and such a Signalman. -/
def debugging (f : SmSt → SmSt) (s : Chip) : Chip :=
  { s with power := { s.power with tapIr := 0x20 }, sb := { s.sb with sms := [(15, f { running := true })] } }
def traceOps : TraceOps := { sm := 15, egress := true, line := 35, bank := 2, off := 65536 - 10240, len := 10240 }

theorem witness_DebugAccess :
    (up.power.tapIr ≠ 0x20 ∧ ¬ 0x21 ∈ [0x00, 0x01, 0x02, 0x20]) ∧ SmReady (debugging id up) 15 ∧
    (let s := debugging id up
     dead s = false ∧ s.power.tapIr = 0x20 ∧ (smOf s 15).halted = false ∧ smRuns (debugging (fun m => { m with halted := true }) up) 15 = false ∧
       (smOf (debugging (fun m => { m with halted := true }) up) 15).halted = true ∧
       (smOf s 15).due = [] ∧
       (let m := smOf (debugging (fun m => { m with halted := true, due := [1] }) up) 15
        m.halted = true ∧ m.fenced = false ∧ m.due = [1] ∧ m.wait = none ∧ m.bracket = 0 ∧ m.inTrap = false) ∧ s.boot.done = true ∧
       writeDomains s (caddr (.yard 7) 0x0100) 5#32 7#32 = [] ∧
       (traceOps.line < 36 ∧ traceOps.sm < 16 ∧ traceOps.len ≤ 10240 ∧ traceOps.off + traceOps.len ≤ 65536 ∧ traceOps.bank ≤ 2) ∧
       isFenced s (lineIsl true 35) = false ∧ isFenced (debugging id (fencedAll [.eline 35] up)) (lineIsl true 35) = true) :=
  ⟨by decide, ready _ _ (by decide), by decide⟩

/-- A test of Junction half 1 that runs, whole or cut, and one that has ended. -/
def bistOps (isl : Nat) : BistOps := { island := isl, sub := 0xFF, type := 1, payload := some { addr := 0x100, len := 48 } }
def bistRun (cut : Nat) (ret : Bool) : BistRun :=
  { island := Isl.code (.jn 1), sub := 0xFF, type := 1, ret := ret, ring := 0, payload := some 0x100, cut := cut }
def testing (cut : Nat) (ret : Bool) : Chip := { up with bist := { runs := [bistRun cut ret], results := [] } }
/-- The same with the Order that asked for the test at work. -/
def tested1 (cut : Nat) (ret : Bool) : Chip :=
  let c : Instr := .bistRunRun 0 (bistOps (Isl.code (.jn 1))) {}
  let s := testing cut ret
  { s with host := { s.host with rings := [(0, { enable := true, cplTail := 1, running := some { order c with begun := true } })] } }
def tested : Chip := { up with bist := { runs := [], results := [(bistKey (.jn 1) 0xFF, repl 48 1)] } }
def jn1 : BistTarget := { island := Isl.code (.jn 1), sub := 0xFF }

theorem witness_BuiltInSelfTest :
    (∀ c : Instr, AtWork (work c) 0 c ∧ AtWork (work c tested) 0 c ∧ AtWork (work c (testing 0 false)) 0 c) ∧
    (let o := bistOps (Isl.code (.jn 1))
     (match bistTarget (bistOps 0xFFF) up with | .inl _ => true | .inr _ => false) = true ∧
     (match bistTarget o up with | .inr (.jn 1) => true | _ => false) = true ∧ bistBusy (.jn 1) up = false ∧
     bistBusy (.jn 1) (testing 0 false) = true ∧ repairDomains up (bistGroup (.jn 1)) = [] ∧
     sget [] up.bist.results (bistKey (.jn 1) o.sub) = [] ∧ sget [] tested.bist.results (bistKey (.jn 1) o.sub) = 1 :: repl 47 1 ∧
     (testing 0 false).bist.runs.any (fun r => r.island = (bistIsland (.jn 1)).code && r.sub = o.sub) = true) ∧
    (∀ cut ∈ [0, 1, 2, 4], ∀ ret, dead (testing cut ret) = false ∧ runOf jn1 (testing cut ret) = some (.jn 1, bistRun cut ret) ∧
      dead (tested1 cut ret) = false ∧ runOf jn1 (tested1 cut ret) = some (.jn 1, bistRun cut ret)) ∧
    (∀ cut ∈ [0, 1, 2, 4], ∀ ret, bistOrderAt (testing cut ret) (bistRun cut ret) = false ∧
      bistOrderAt (tested1 cut ret) (bistRun cut ret) = true) ∧
    (let f : BistFind := { signature := (bistExpected (.jn 1) 1), durationUs := 5, applied := 9, expected := 9, firstFail := 0 }
     bistVerdict (bistExpected (.jn 1) 1) (bistRun 0 true) f = .ok ∧
     bistVerdict (bistExpected (.jn 1) 1) (bistRun 4 true) f = .incomplete) := by
  refine ⟨fun c => ⟨atWork _ _ rfl (noneHalted c _ rfl), atWork _ _ rfl (noneHalted c _ rfl), atWork _ _ rfl (noneHalted c _ rfl)⟩, by decide +kernel,
    by decide +kernel, by decide +kernel, ?_, ?_⟩
  · have h : bistExpected (.jn 1) 1 < 2 ^ 32 := by simp only [bistExpected]; exact (Config.bistSignature _ _).isLt
    simp [bistVerdict, bistRun, bistApplied]; exact h
  · rfl

theorem witness_InnerCommandFrames :
    innerCommand (.portSet 0 (setPort 511 0x04 true false 0x10 0 0)) = true ∧ innerCommand .testReset = false ∧
    (Instr.wf (.portSet 0 (setPort 511 0x04 true false 0x10 0 0))) = true :=
  ⟨rfl, rfl, rfl⟩

theorem witness_StepKeepsHostMemory :
    (let s := { up with hostMem := [(5, 0x11#8), (9, 0#8)] }
     Memory.wf s.hostMem = true ∧ (∃ t, step { st s with pending := [.testReset] } = .next t)) :=
  ⟨rfl, _, rfl⟩

end Sys2Proof.Tests
end

