-- ==== Sys2Proof/Tests/Slice0.lean ====
section
/-!
SUPPORT. Small tests: ill-formed commands are refused, and the spec's own worked examples and tables (each test names its source) come
out of the model.
-/

namespace Sys2Proof.Tests

open Sys2Proof.Machine
set_option Elab.async false

/-! Well-formed commands (R27, R43, R48, R92, R120, R149, R372) -/

/-- One command just outside each range, and the same at the last unit of the range. -/
def outside (k : Nat) : List Instr :=
  [.supplyReset (9 + k), .domainAutoOff (71 + k), .refclkTileLost (7 + k), .ringDisable (63 + k) 0, .dmaQueueDisable (31 + k) 0,
   .hostFrameDescriptor (31 + k) [], .toHostDelivery (15 + k), .msixUnmask (255 + k), .blockCommit (63 + k) 1, .remoteFaultCleared (511 + k),
   .losDetected (511 + k), .wtrExpiry (1023 + k) 0, .wtrExpiry 0 (511 + k), .pauseExpiry 0 (7 + k), .mgmtFrameReceived (3 + k) [],
   .frameReceive { port := 511 + k, bytes := [], fcsOk := true }, .ingressLinePass (35 + k) 0 {}, .ingressLinePass 0 (1 + k) {},
   .copyFormation (1 + k) none, .transmitOpportunity (.port (511 + k)) {}, .transmitOpportunity (.siding (35 + k)) {}, .learnApply (35 + k) [],
   .segmentWrite (10275 + k) none, .dramRefresh (31 + k), .mr4Poll 0 (3 + k) true, .rowIdlePrecharge 0 (15 + k), .mapRebuild (7 + k),
   .lookasideJobRun (3 + k) ⟨[], [], [], none⟩, .timeCopyLoopMeasure (.tile (7 + k)) 0, .timeCopyLoopMeasure (.egress (35 + k)) 0,
   .ppsInCapture (1 + k), .ipfixTemplateSend (1 + k), .reliefAutoPrepare (3 + k), .mwSeqNext (15 + k) ⟨0, [], true, none⟩,
   .microtrapEvent 0 (15 + k)]

theorem test_outside_refused : (outside 1).all (fun c => !c.wf) = true := by decide
theorem test_tile_and_lane_refused : (Instr.causewayFramingLost 8).wf = false ∧ (Instr.alignmentLost 0 512).wf = false := by decide
theorem test_below_queues_refused : (Instr.hostFrameDescriptor 15 []).wf = false ∧ (Instr.hostFrameCompletion 15).wf = false := by decide
theorem test_last_unit_accepted : (outside 0).all (fun c => c.wf) = true := by decide
theorem test_outside_stops :
    exec (.losDetected 512) (st up) = .fault .noSuchUnit ∧ exec (.mwSeqNext 16 ⟨0, [], true, none⟩) (st up) = .fault .noSuchUnit :=
  ⟨rfl, rfl⟩
theorem test_no_word_spells_a_command : decodeTableWord 32 0 = none ∧ (st up).withFetchWord 32 0 = st up := ⟨rfl, rfl⟩

/-! The map of the device (file 01, "Example: locating port 200") -/

theorem test_port_200_units : platformOf 200 = 12 ∧ laneIndex 200 = 8 ∧ homeYard (platformOf 200) = 3 ∧ servingLine up 12 = some 12 := by decide
theorem test_port_200_queues : queueId 200 3 = 3203 ∧ queueId 200 17 = 8993 ∧ queueYard up 3203 = 3 ∧ queuePort 3203 = some 200 := by decide
theorem test_port_200_addresses : caddr (.iline 12) 0x100 = 0x11400000100 ∧ srcId (.eline 12) 0x07 = 0x12407 := by decide
theorem test_platform_taken_over :
    (let s := { up with ports := { up.ports with serving := [(12, some 33)] } }
     servingLine s 12 = some 33 ∧ (Isl.iline 33).code = 0x118 ∧ (Isl.eline 33).code = 0x128) := by decide

/-! Orders (file 04, "Example: forcing a power domain on from an Expert ring") -/

/-- The 32 bytes of the example, and its ring: number 3, LEVEL 2, VECTOR 5, 256 entries. -/
def forceOnOrder : List Byte :=
  [0x02, 0x01, 0x04, 0x02, 0x07, 0x00, 0, 0, 0x40, 0x20, 0, 0, 0, 0x0C, 0, 0, 0, 0, 0, 0x20, 0, 0, 0, 0x60] ++ repl 8 0

/-- The device with domain 16 powered up once since supply reset and ring 3 enabled by the word of the example. -/
def ring3 : Chip :=
  let s := { up with power := { up.power with domains := [(16, { ups := 1 })] }
                     host := { up.host with rings := [(3, { baseLo := 0x23456000#32, baseHi := 1#32, cplLo := 0x23458000#32, cplHi := 1#32 })] } }
  match exec (.ringEnable 3 0x82050800#32) (st s) with | .next t => t.chip | _ => s

theorem test_ring_cfg_fields : (ringOf ring3 3).enable = true ∧ (ringOf ring3 3).level = 2 ∧ (ringOf ring3 3).vector = 5 ∧
    (ringOf ring3 3).size = 256 := by decide +kernel

/-- FIELD_WRITE of SB_PD_MODE of domain 16, with VALUE 0x20000000 and MASK 0x60000000. -/
def forceOn16 : Instr :=
  .fieldWrite 3 { isList := false, payloadLen := 0, entries := [{ caddr := 0xC0000002040, value := 0x20000000#32, mask := 0x60000000#32 }] }

theorem test_order_bytes : startChecks ring3 3 { bytes := forceOnOrder } = .inr forceOn16 := by rfl

theorem test_force_on_result :
    (let s := { ring3 with host := { ring3.host with rings := [(3, { (ringOf ring3 3) with running := some (order forceOn16) })] } }
     (match exec forceOn16 (st s) with
      | .next t => ((ringOf t.chip 3).running.bind (fun o => o.outcome), (domainSt t.chip 16).on)
      | _ => (none, false)) = (some (Status.ok, 0xA0000001#64), true)) := by decide +kernel

theorem test_completion_bytes : completionBytes 7 .ok 0 true 0xA0000001#64 = [7, 0, 0, 0, 0, 0, 1, 0, 1, 0, 0, 0xA0, 0, 0, 0, 0] := by decide

/-! Buffers, headroom and spill (files 10 to 12, their examples) -/

theorem test_requester_word_address : caddr (.yard 1) (0x10000 + 16 * 1603) = 0x03100016430 := by decide
theorem test_headroom_200 :
    headroomOf { port .up with mode := 0x06, inForce := 0x06, maxFrame := 9216, policy := { propNs := 378 } } = 480 := by decide
theorem test_spill_address_map :
    spillAddr [0, 1, 2, 3] 13 (8192 * 100003 + 256 * 5) = (3, 204801280) ∧
    primaryHeader [0, 1, 2, 3] 13 (2 ^ 31) 100003 = (3, 2019665920) ∧ mirrorHeader [0, 1, 2, 3] 13 (2 ^ 31) 100003 = some (0, 2086774784) ∧
    dramAddr 1 (3, 204801280) / 256 = 59520261 ∧ dramCell { density := 16, ranks := 1, bankXor := true } 204801280 = (4, 12500) := by decide
theorem test_spill_marks :
    (let s := { up with ports := { up.ports with ports := [(64, some { port .up with mode := 0x06, inForce := 0x06 })] } }
     spillMarks { queue := 1027, allow := 262144, thresh := 0, refill := 0 } s = (1216, 608)) ∧
    slotsTotal { mapActs := [0, 1, 2, 3], capacity := 2 ^ 31 } = 983040 ∧ slotsTotal { mapActs := [0, 1, 2], capacity := 2 ^ 31 } = 737280 := by
  decide

/-! Time (R381) -/

theorem test_tick : (tickTime {}).ns = 0 ∧ (tickTime {}).frac = 0xCCCCCCCD ∧ (tickTime { frac := 0xFFFFFFFF }).ns = 1 ∧
    (tickTime { sec := 2 ^ 48 - 1, ns := 999999999, frac := 0xFFFFFFFF }).sec = 0 := by decide

/-! The microword of file 17, "Example: an event during a held field write" (R464) -/

theorem test_microword_fields :
    (let w := 0x0C50_0000_2A80_4400_0000_FFFF_FFFF
     wSeq w = 0 ∧ wHold w = true ∧ wWait w = true ∧ wCond w = 5 ∧ wDst w = 5 ∧ wSrcA w = 5 ∧ wBus w = 2 ∧ wBreg w = 2 ∧ wImm w = 0xFFFFFFFF ∧
       wAlu w = 0 ∧ wIllegal w = false) := by decide

/-! A test cut short (file 18, "Example: a Yard test cut short, then repeated") -/

def cutTest : Chip :=
  let c : Instr := .bistRunRun 0 { island := 0x131, sub := 0xFF, type := 1 } {}
  { up with
      host := { up.host with rings := [(0, { enable := true, cplTail := 1, running := some { order c with begun := true } })] }
      bist := { runs := [{ island := 0x131, sub := 0xFF, type := 1, ret := false, ring := 0, payload := none, cut := 2 }], results := [] } }

theorem test_cut_bist :
    (match exec (.bistRunEnd { island := 0x131, sub := 0xFF }
        { signature := 0, durationUs := 20000, applied := 894784853, expected := 1610612736, firstFail := 0xFFFFFFFF }) (st cutTest) with
     | .next t => (ringOf t.chip 0).running.bind (fun o => o.outcome)
     | _ => none) = some (.incomplete, 0x0000000035555555#64) := by decide +kernel

/-! The transmit clamp (R129's example) -/

theorem test_clamp :
    clampTx { cm2 := 16, cm1 := -40, c0 := 128, c1 := -40, swing := 500 } = { cm2 := 16, cm1 := -40, c0 := 64, c1 := -8, swing := 500 } := by
  decide

end Sys2Proof.Tests
end

