-- ==== Sys2Proof/Tests/Witness.lean ====
section
/-!
SUPPORT. For each statement with hypotheses, states and operands that meet them together, clause by clause.
-/

namespace Sys2Proof.Tests

open Sys2Proof.Machine
set_option Elab.async false

theorem witness_StepRunsFront : ({ st up with pending := [.testReset, .tapIdcode] } : State).pending = .testReset :: [.tapIdcode] := rfl

theorem witness_EmptyQueueTicks : (st up).pending = [] ∧ aonLost (st up).chip = false ∧ (st up).chip.time.slew = none := by decide

theorem witness_QueueUntouched : (Instr.losDetected 511).wf = true ∧ (Instr.losDetected 512).wf = false ∧
    exec .testReset (st up) = .next (st { up with power := { up.power with tapIr := 1 } }) := ⟨rfl, rfl, rfl⟩

theorem witness_StepKeepsQueueWf : QueueWf { st up with pending := [.losDetected 511, .testReset] } := by decide

theorem witness_SystemScopeResets : aonLost up = false ∧ up.power.supplyHeld = false ∧ up.power.pinHeld = false ∧ dead up = false ∧
    (9 < 10 ∧ 9 ≠ 5) ∧ ({ up.power with chipReset := true } : PowerSt).chipReset = true ∧ chipRstPending up = false := by decide

/-- A chip reset requested by an Order that has its status and not yet its completion. -/
def asked : Chip :=
  let c : Instr := .fieldWrite 0 { isList := false, payloadLen := 0, entries := [{ caddr := caddr .sb 0x0100, value := 0xA5A5, mask := 0xFFFFFFFF }] }
  let run : Running := { order c with outcome := some (.ok, 0) }
  { up with power := { up.power with chipReset := true }, host := { up.host with rings := [(0, { enable := true, running := some run })] } }

theorem witness_SystemScopeResets_pending : asked.power.chipReset = true ∧ dead asked = false ∧ chipRstPending asked = true := by decide

theorem witness_ResetReleases : aonLost Chip.reset = false ∧ Chip.reset.power.supplyHeld = true ∧
    ({ up.power with pinHeld := true } : PowerSt).pinHeld = true ∧ (9990000 ≤ 9990000 ∧ 9990000 ≤ 10010000) ∧
    (24975000 ≤ 25025000 ∧ 25025000 ≤ 25025000) ∧
    (∀ hz, some 9989999 = some hz → ¬ (9990000 ≤ hz ∧ hz ≤ 10010000) ∧ ¬ (24975000 ≤ hz ∧ hz ≤ 25025000)) ∧
    (∀ hz, none = some hz → ¬ (9990000 ≤ hz ∧ hz ≤ 10010000) ∧ ¬ (24975000 ≤ hz ∧ hz ≤ 25025000)) ∧ Answers up .sb :=
  ⟨by decide, by decide, by decide, by decide, by decide, fun hz h => by cases h; decide, fun hz h => (by cases h), ans _ _ (by decide)⟩

theorem witness_PcieResets : up.power.perst = false ∧ dead up = false ∧ aonLost up = false ∧ barUp up = true ∧
    ({ up.power with perst := true } : PowerSt).perst = true := by decide

theorem witness_DomainPower : dead up = false ∧ up.boot.done = true ∧ (domainSt up 71).on = true ∧
    (let s := { up with power := { up.power with domains := [(71, { on := false })], wanted := [71] } }
     dead s = false ∧ s.power.wanted.head? = some 71 ∧ (domainSt s 71).on = false) ∧
    (let s := { up with power := { up.power with domains := [(66, { on := false }), (67, { on := false })], wanted := [67] } }
     dead s = false ∧ s.power.wanted.head? = some 67 ∧ (domainSt s 67).on = false ∧ (domainSt s (67 - 1)).on = false) := by decide

theorem witness_DomainModes : Answers up .sb ∧ (islandsOf 0).any (fun i => !isFenced up i) = true ∧ (domainSt up (66 + 1)).on = true ∧
    (let s := { up with faults := { up.faults with cabs := (islandsOf 0).map (fun i => (i.code, { fenced := true })) } }
     Answers s .sb ∧ (islandsOf 0).all (isFenced s) = true ∧ domainTile 0 = none) :=
  ⟨⟨by decide, by decide, by decide⟩, by decide, by decide, ⟨by decide, by decide, by decide⟩, by decide, by decide⟩

theorem witness_SupplyFaults : dead up = false ∧ up.boot.pending = false ∧ up.power.railsOut.contains 9 = false ∧
    up.power.fuseHigh = false ∧ up.power.sysLost = false ∧ up.power.tileLost.contains 7 = false ∧ isOn up (.platform (4 * 7)) = true ∧
    aonLost up = false ∧ up.time.refLost = true ∧ ({ up.time with refLost := false } : TimeSt).refLost = false ∧
    (9990000 ≤ 9990000 ∧ 9990000 ≤ 10010000) ∧ (24975000 ≤ 25025000 ∧ 25025000 ≤ 25025000) := by decide

theorem witness_Temperature : aonLost up = false ∧ Answers up .ks ∧ up.power.temp < 960 ∧ (0xFF#32 : Word) &&& 0x00FFFF01#32 ≠ 0 :=
  ⟨by decide, ⟨by decide, by decide, by decide⟩, by decide, by decide⟩

/-- The device about to boot, and one that waits for its mailbox. -/
def booting : Chip := { up with boot := { pending := true } }
def mailbox : Chip := { up with boot := { stage := 0x03 } }

theorem witness_BootSequence : booting.boot.pending = true ∧ dead booting = false ∧ barUp mailbox = true ∧ mailbox.boot.stage = 0x03 ∧
    mailbox.boot.reading = false ∧ 0 % 2 ^ 20 = 0 ∧ (367 % 2 ^ 20 ≠ 0 ∧ 367 % 2 ^ 20 < 368) ∧ 524640 < 524641 % 2 ^ 20 := by decide

theorem witness_RingEnable : bellUp up = true ∧ bits (0x01000600#32 : Word).toNat 24 2 ≠ 3 ∧ 6 ≤ bits (0x01000600#32 : Word).toNat 8 5 ∧
    bits (0x01000600#32 : Word).toNat 8 5 ≤ 14 ∧ (ringOf up 63).enable = false ∧ (dmaOf up 31).enable = false ∧
    (let s := { up with host := { up.host with rings := [(63, { enable := true })], dma := [(31, { enable := true })] } }
     bellUp s = true ∧ (ringOf s 63).enable = true ∧ (dmaOf s 31).enable = true) ∧
    bits (0x03000600#32 : Word).toNat 24 2 = 3 ∧ bits (0x500#32 : Word).toNat 8 5 < 6 ∧ 14 < bits (0xF00#32 : Word).toNat 8 5 ∧
    16 < bits (0x1100#32 : Word).toNat 8 5 := by decide +kernel

theorem witness_Doorbells : bellUp (busyWith .testReset up) = true ∧ tailOk (ringOf (busyWith .testReset up) 0) 63 = true ∧
    tailOk (ringOf (busyWith .testReset up) 0) 64 = false ∧ tailOk (dmaOf up 31) 0 = false ∧
    (let s := { up with host := { up.host with dma := [(31, { enable := true })] } }
     bellUp s = true ∧ tailOk (dmaOf s 31) 63 = true) ∧
    (let v := ringOf (busyWith .testReset up) 0
     v.enable = true ∧ 1 < v.size ∧ v.dist 1 v.cplHead ≤ v.dist v.cplTail v.cplHead) := by decide

/-- A ring with one issued Order. -/
def issued : Chip := { up with host := { up.host with rings := [(0, { enable := true, issued := [5] })] } }

theorem witness_OrderLife : hostUp issued = true ∧ issued.boot.done = true ∧ (smOf issued 0).halted = false ∧
    ringTurn issued = some 0 ∧ (ringOf issued 0).issued = 5 :: [] ∧ fenceAllows issued 5 false = true ∧
    (let s := busyWith .testReset up
     hostUp s = true ∧ (ringOf s 0).running = some (order .testReset) ∧ (order .testReset).orphan = false ∧
       (order .testReset).progress = false ∧ elapsed s (order .testReset).start < 1000000 ∧ orderYielded s (order .testReset) = true ∧
       ({ order .testReset with outcome := some (.ok, 0) } : Running).outcome = some (.ok, 0)) ∧
    (let o : Running := { order .testReset with progress := true }
     let s := { busyWith .testReset up with time := { up.time with run := 1000000 * 65536 } }
     o.progress = true ∧ o.pendingWritten = false ∧ 1000000 ≤ elapsed s o.start) := by
  decide +kernel

theorem witness_OrderLife_kept_back :
    (let run : Running := { order .testReset with seq := 3 }
     let s := { up with host := { up.host with rings := [(0, { enable := true, issued := [5] }), (1, { enable := true, running := some run })] } }
     hostUp s = true ∧ s.boot.done = true ∧ (smOf s 0).halted = false ∧ ringTurn s = some 0 ∧ (ringOf s 0).issued = 5 :: [] ∧
       fenceAllows s 5 true = false) := by decide +kernel

theorem witness_MsixAndClears : bellUp up = true ∧ barUp up = true ∧
    ({ up.host with msixPending := [255] } : HostSt).msixPending.contains 255 = true ∧ wordAt (caddr (.yard 7) 0x0114) = .inr (.yard 7, 0x0114) ∧
    (dead up || isFenced up (.yard 7) || !isOn up (.yard 7)) = false := by decide

theorem witness_FieldAccess :
    (let ops : FieldReadOps := { caddr := caddr (.yard 0) 0x114, count := 1, live := true, payload := none }
     AtWork (work (.fieldRead 0 ops)) 0 (.fieldRead 0 ops) ∧ wordAt ops.caddr = .inr (.yard 0, 0x114) ∧ Answers up (.yard 0) ∧
       (1 ≤ ops.count ∧ ops.count ≤ 1024 ∧ 0x114 + 4 * ops.count ≤ 0x00100000 ∧ 0xC0 ≤ 0x114)) ∧
    (∀ v ∈ [5, 0x3FFFF], ∀ k ∈ [0#32, 0x3FFFF#32],
      let e : FieldEntry := { caddr := caddr (.yard 7) 0x0100, value := v, mask := k }
      let ops : FieldWriteOps := { isList := false, payloadLen := 0, entries := [e] }
      AtWork (work (.fieldWrite 0 ops)) 0 (.fieldWrite 0 ops)) ∧
    wordAt (caddr (.yard 7) 0x0100) = .inr (.yard 7, 0x0100) ∧
    (Answers up (.yard 7) ∧ Isl.yard 7 ≠ .sb ∧ (∃ w, wordSpec (.yard 7) 0x0100 = some w ∧ w.rws ≠ 0 ∧ w.w1c = 0 ∧ w.ro ||| w.rc = 0) ∧
      notHeld up (.yard 7) 0x0100 = false ∧ linkCipherWord (.yard 7) 0x0100 = false ∧ lineWaits up (.yard 7) = false ∧
      inBlock 0x0100 0x48 8 4 0 = false) :=
  ⟨⟨atWork _ _ (by decide), by decide, ⟨by decide, by decide, by decide⟩, by decide⟩, fun v _ k _ => atWork _ _ rfl, by decide,
    ans _ _ (by decide), by decide, ⟨_, rfl, by decide, by decide, by decide⟩, by decide, by decide, by decide, by decide⟩

end Sys2Proof.Tests
end

