-- ==== Sys2Proof/Tests/WitnessTime.lean ====
section
/-!
SUPPORT. For each statement about time, telemetry, faults, repair and relief, states and operands that meet its hypotheses together, clause
by clause.
-/

namespace Sys2Proof.Tests

open Sys2Proof.Machine
set_option Elab.async false

def freqOps (n : Nat) : TimeFreqOps := { increment := n, leave := true }
def slewOps (n : Int) : TimeSlewOps := { offset := n, rate := 1000, leave := false }
def stepAbs (n : Nat) : TimeStepAbsOps := { seconds := 2 ^ 48, ns := n, leave := false }
def stepRel : TimeStepRelOps := { offset := 2 ^ 48 * 1000000000 - 1, leave := false }

theorem witness_TimeOrders :
    (∀ c : Instr, AtWork (work c) 0 c) ∧
    (limit incrMin incrMax (freqOps 0xCCCCCCCD).increment = (freqOps 0xCCCCCCCD).increment ∧
     limit incrMin incrMax (freqOps 0).increment ≠ (freqOps 0).increment) ∧
    (∀ n ∈ [65536000000000, 0, -65536000000000], (slewOps n).offset.natAbs ≤ 65536000000000 ∧
      let d := cutSlew up.time.incr (slewOf (slewOps n).rate (decide (0 < (slewOps n).offset)))
      (0 < (slewOps n).offset → 0 < d) ∧ ((slewOps n).offset < 0 → d < 0)) ∧
    (stepAbs 999999999).ns ≤ 999999999 ∧ 999999999 < (stepAbs 1000000000).ns ∧
    (up.time.frac < 2 ^ 32 ∧ (let new : Int := (up.time.sec : Int) * 1000000000 + up.time.ns + stepRel.offset
      0 ≤ new ∧ new < 2 ^ 48 * 1000000000)) :=
  ⟨fun c => atWork _ _ (by rfl) (noneHalted c _ rfl), by decide, by decide, by decide, by decide, by decide⟩

theorem witness_TimeOrders_range : 65536000000000 < (slewOps 65536000000001).offset.natAbs ∧ 1000 < 1001 ∧
    cutSlew incrMax (slewOf 1000 true) ≠ slewOf 1000 true := by decide

/-- The Timetable with something set. -/
def timed (f : TimeSt → TimeSt) : Chip :=
  { up with time := f { up.time with refLost := false, holdover := false }, live := [(caddr .tt 0x0104, 1#32), (caddr .tt 0x0210, 0x80100000#32)]
            ports := { up.ports with causeway := [(7, some 600#32)] } }

theorem witness_TimeEvents :
    (let s := timed (fun t => { t with slew := some ⟨5, 7⟩, events := 0, pps := [(1, { new := true })], run := 1000000 * 65536
                                       ns := 999999999, frac := 0xF0000000 })
     aonLost s = false ∧ s.time.slew = some ⟨5, 7⟩ ∧ 5 = slewAdd ⟨5, 7⟩ ∧ wdogDue s = true ∧ s.time.holdover = false ∧ dead s = false ∧
       isFenced s .tt = false ∧ (sget none s.ports.causeway 7).isSome = true ∧ isOn s (.eline 35) = true ∧
       (sget {} s.time.pps 1).new = true ∧ (sget {} s.time.pps 0).new = false ∧ ppsRises s 1 = true ∧ ppsFalls s 1 = false ∧
       bit (ppsCtrl s 1) 30 = false) ∧
    (let s := timed (fun t => { t with tile := [(7, { locked := true })], egress := [(35, { locked := true })], ppsHigh := [1]
                                       slew := some ⟨50, 7⟩ })
     (tileCopy s 7).locked = true ∧ (measureCopy 1000000000 (tileCopy s 7)).locked = false ∧ (egressCopy s 35).locked = true ∧
       slewDone s.time = false ∧ wdogDue s = false ∧ ppsFalls s 1 = true ∧ ppsRises s 1 = false) := by decide +kernel

/-- An export record for port 511: enabled, MAX_MSG 512, REFRESH 1, FLUSH_US 1, an encapsulation of 42 bytes. -/
def exportRecord : List Byte :=
  [1, 0, 0, 15] ++ leBytes 2 511 ++ leBytes 2 512 ++ repl 16 0 ++ leBytes 2 1000 ++ leBytes 2 3600 ++ [42, 0, 14] ++ repl 33 0 ++ repl 42 7 ++ repl 86 0

/-- The device with that export port and a message open, and dumps on. -/
def exporting (w : Bool) : Chip :=
  let r : DumpRec := { ring := 0, base := 0x1000, count := 64, notify := none, sections := 1, flags := 0, seq := 65, time := 0, run := 0, period := 100
                       skipped := 0, seconds := 0, islands := [], mons := [], dark := [] }
  { portIs id .up with time := { up.time with run := 3600000000000 * 65536, ns := 99999, frac := 0xF0000000 }
                       tm := { up.tm with exports := [(1, { record := exportRecord, open' := [repl 100 0], seq := 2 ^ 32 - 1 })]
                                          dumpEn := true, period := 100, writing := if w then some r else none } }

theorem witness_TelemetryEvents :
    (∀ w, exporterUp (exporting w) = true ∧ (exporting w).tm.writing.isSome = w ∧ dumpPasses (exporting w) = true ∧
      messageDue (exporting w) 1 = true ∧ templateDue (exporting w) 1 = true ∧ chipHold (exporting w) = false ∧ (exportSt (exporting w) 1).field 0 1 = 1 ∧
      (portOf (exporting w) ((exportSt (exporting w) 1).field 0x04 2)).isSome = true ∧ usableHalf (exporting w) 0 ≠ none ∧
      (queueList (exporting w)).count (queueId 511 19) = 1 ∧ isOn (exporting w) (.yard (queueYard (exporting w) (queueId 511 19))) = true) ∧
    (let s := { exporting false with ports := {} }
     exporterUp s = true ∧ messageDue s 1 = true ∧ (portOf s ((exportSt s 1).field 0x04 2)).isNone = true) ∧
    (let s := { exporting false with time := {} }
     dumpPasses s = false ∧ messageDue s 1 = false ∧ templateDue s 1 = false) := by
  decide +kernel

/-- Ring 0 may use everything below 2^32. -/
def allowed (s : Chip) : Chip :=
  { s with host := { s.host with regions := [(3, 1#32), (4, 0xFFFFFFFF#32), (5, 0xFFFFFFFF#32), (6, 3#32)] } }
def allowedWork (c : Instr) : State :=
  st { busyWith c (portIs id .up) with host :=
    { (busyWith c (portIs id .up)).host with regions := [(3, 1#32), (4, 0xFFFFFFFF#32), (5, 0xFFFFFFFF#32), (6, 3#32)] } }
def dumpOps : DumpOps := { base := 0x1000, periodUs := 100, sections := 1, count := 64, vector := 0, en := true, notify := false }
def exportOps : ExportOps := { portE := 1, payload := { addr := 0, len := 192, data := exportRecord } }
def ioamOps : IoamOps := { payload := { addr := 0, len := 32, data := repl 7 0xFF ++ [0] ++ repl 4 1 ++ [1, 0, 0, 0] ++ repl 8 2 ++ repl 8 0 } }
def histOps (k i : Nat) : HistOps := { kind := k, index := i, linear := false, step := 0, base := 1000 }
def histRead : HistReadOps := { kind := 1, index := 511, payload := { addr := 0, len := 272 } }

theorem witness_TelemetryOrders :
    (∀ c : Instr, AtWork (allowedWork c) 0 c) ∧
    (let s := (allowedWork (.dumpSetDump 0 dumpOps)).chip
     (1000000 % dumpOps.periodUs = 0 ∧ dumpOps.base % 4096 = 0 ∧ payloadOk s 0 dumpOps.base (0x5C1000 * dumpOps.count) true = true ∧
        isFenced s .tm = false) ∧
     (exportBad exportRecord = false ∧ portOf s (leAt exportRecord 4 2) = some (port .up) ∧
        leAt exportRecord 0x1C 1 + leAt exportRecord 6 2 + 4 ≤ (port .up).maxFrame) ∧
     (leAt ioamOps.payload.data 0 8 < 2 ^ 56 ∧ leAt ioamOps.payload.data 0x0C 1 ≠ 0 ∧ allZero (slice ioamOps.payload.data 0x0D 3) = true ∧
        allZero (slice ioamOps.payload.data 0x18 8) = true) ∧
     (∀ x ∈ [(0, 10275), (1, 511), (2, 10275), (3, 511), (4, 63), (5, 9)], let o := histOps x.1 x.2
        histNeeds o.kind o.index s = [] ∧ histRange o.kind o.index = false ∧ o.index ≠ 0xFFFF ∧ o.index < 65536 ∧ binningBad o = false ∧
          (histChecks s o.kind o.index).isNone = true) ∧
     (let o := histOps 5 0xFFFF
      histNeeds o.kind 0xFFFF s = [] ∧ binningBad o = false ∧ (histChecks s o.kind 0xFFFF).isNone = true)) :=
  ⟨fun c => ⟨by decide, by rfl, noneHalted c _ rfl, order c, by rfl, rfl, rfl, rfl⟩, by decide +kernel⟩

theorem witness_RegisterWrites :
    (dead up = false ∧ isFenced up .ks = false ∧ 0xFFFFFFFF#32 &&& 0x80FF0707#32 ≠ 0#32) ∧
    (Answers up (.yard 7) ∧ (∃ w, wordSpec (.yard 7) 0x0100 = some w ∧ w.rws ≠ 0 ∧ w.w1c = 0 ∧
        0xFFFFFFFF#32 &&& BitVec.ofNat 32 (w.ro ||| w.rc) = 0#32 ∧ 0xFFFFFFFF#32 &&& BitVec.ofNat 32 (w.rw ||| w.rws) ≠ 0#32) ∧
      Isl.yard 7 ≠ .sb ∧ notHeld up (.yard 7) 0x0100 = false ∧ linkCipherWord (.yard 7) 0x0100 = false ∧
      lineWaits up (.yard 7) = false ∧ inBlock 0x0100 0x48 8 4 0 = false ∧ wordAt (caddr (.yard 7) 0x0100) = .inr (.yard 7, 0x0100)) ∧
    (barUp up = true ∧ up.boot.done = true) ∧ (sget none (timed id).ports.causeway 7).isSome = true ∧ dead (timed id) = false :=
  ⟨by decide, ⟨ans _ _ (by decide), ⟨_, rfl, by decide, by decide, by decide, by decide⟩, by decide, by decide, by decide, by decide, by decide,
    by decide⟩, by decide, by decide, by decide⟩

/-- A record in the Cabin of Junction half 1. -/
def recorded (acked present : Bool) : Chip :=
  { up with faults := { up.faults with
      cabs := [(Isl.code (.jn 1), { valid := true, sev := 2, cls := 9, loc := 0xF2, count := 1, raised := [9], unacked := if acked then [] else [9]
                                    causes := if present then [⟨0xF2, 4, 2⟩] else [⟨0xF2, 2, 2⟩] })]
      classes := [(9, { unack := !acked, maxSev := 2 })], hold := if present then [(5, 4)] else [] } }
def clearOps : FaultClearOps := { island := Isl.code (.jn 1), all := false }

theorem witness_FaultOrders :
    (∀ (c : Instr) (a p : Bool), AtWork (work c (recorded a p)) 0 c) ∧
    (islOf clearOps.island = some (.jn 1) ∧ clearOps.island < 0x1000 ∧ (cabOf up (.jn 1)).valid = false ∧
     (∀ a p, (cabOf (recorded a p) (.jn 1)).valid = true ∧ (cabOf (recorded a p) (.jn 1)).acked = a ∧ causePresent (recorded a p) (.jn 1) = p) ∧
     clearBlock (recorded true false) (.jn 1) = none) ∧
    (islOf (Isl.code (.jn 0)) = some (.jn 0) ∧ islOf (Isl.code (.jn 1)) = some (.jn 1) ∧ dead up = false ∧ isOn up (.jn 0) = true ∧
      isOn up (.jn 1) = true ∧ isFenced up (.jn 1) = false ∧ Isl.jn 0 ≠ .jn 1) :=
  ⟨fun c a p => atWork _ _ (by cases a <;> cases p <;> rfl) (noneHalted c _ (by cases a <;> cases p <;> rfl)), by decide +kernel, by decide +kernel⟩

def jnUnit : UnitOps := { island := Isl.code (.jn 1), sub := 0xFF }

theorem witness_UnitOrders :
    (∀ c : Instr, AtWork (work c) 0 c ∧ AtWork (work c (fencedAll [.jn 1] up)) 0 c) ∧
    (let s := fencedAll [.jn 1] up
     (match unitOf { jnUnit with island := 0x1000 } with | .inl _ => true | .inr _ => false) = true ∧ unitNeeds jnUnit up = [] ∧ unitNeeds jnUnit s = [] ∧
       (match unitOf jnUnit with | .inr (.island (.jn 1)) => true | _ => false) = true ∧ isFenced up (.jn 1) = false ∧
       unitFenced s (.island (.jn 1)) = true ∧ islOf jnUnit.island ≠ some .ks ∧ pairIdle s (.island (.jn 1)) = none ∧
       unfenceCheck {} (.island (.jn 1)) up = some (.ok, 1) ∧ unfenceCheck {} (.island (.jn 1)) s = none ∧
       unfenceCheck { ended := false } (.island (.jn 1)) s = none ∧ unfenceNeeds jnUnit {} s = [] ∧ unfenceNeeds jnUnit { ended := false } s = []) :=
  ⟨fun c => ⟨atWork _ _ rfl (noneHalted c _ rfl), atWork _ _ rfl (noneHalted c _ rfl)⟩, by decide +kernel⟩

def reliefOps (k : Nat) (go : Bool) : ReliefOps := { platform := k, goNow := go }
/-- Relief pair 35 serves Platform 31, or is prepared for it, or is due to be. -/
def relieved : Chip := { up with ports := { up.ports with serving := [(31, some 35)] } }
def prepared : Chip := { up with ports := { up.ports with prepared := [(35, some 31)] } }
def reliefDue : Chip :=
  { fencedAll [.iline 31, .eline 31] up with ports := { up.ports with reliefDue := [(3, 31)] }, live := [(caddr .ks 0x0118, 1#32)] }

theorem witness_ReliefLines :
    (∀ c : Instr, AtWork (work c) 0 c ∧ AtWork (work c relieved) 0 c ∧ AtWork (work c prepared) 0 c) ∧
    (assignCheck 32 up = some .range ∧ assignCheck 31 up = none ∧ offDomains up [.iline 35] = [] ∧ returnCheck 31 up = some .notFound ∧
     returnCheck 31 relieved = none ∧ offDomains relieved [.iline 31] = [] ∧ preparedPair up 31 = none ∧ preparedPair prepared 31 = some 35 ∧
     reliefWaits prepared 31 = false) ∧
    (dead reliefDue = false ∧ sfind reliefDue.ports.reliefDue 3 = some 31 ∧ reliefDue.sb.lapsed.contains (6 + 3 * 3) = false ∧
     (smOf reliefDue (executor reliefDue (6 + 3 * 3))).halted = false ∧ reliefFree reliefDue (32 + 3) 31 = true ∧
       servesNow reliefDue 31 = none ∧ (domainSt reliefDue (32 + 3)).on = true ∧
     bit (liveW reliefDue (caddr .ks 0x0118)).toNat 1 = false) :=
  ⟨fun c => ⟨atWork _ _ rfl (noneHalted c _ rfl), atWork _ _ rfl (noneHalted c _ rfl), atWork _ _ rfl (noneHalted c _ rfl)⟩,
    by decide +kernel, by decide +kernel⟩

end Sys2Proof.Tests
end

section
/-!
PROOFS. One access to one word: what a read and a staged write of a word do to the words around it (R8, R113, R117, R118, R426), the field
access Orders on top of them, and register writes outside Orders.
-/

namespace Sys2Proof.Machine

/-! Lists -/

theorem mem_span (a n x : Nat) : x ∈ span a n ↔ a ≤ x ∧ x < a + n := by
  induction n generalizing a with
  | zero => simp [span]
  | succ n ih => rw [span, List.mem_cons, ih]; omega

@[simp] theorem length_leBytes (n v : Nat) : (leBytes n v).length = n := by
  induction n generalizing v with
  | zero => rfl
  | succ n ih => rw [leBytes, List.length_cons, ih]

/-- Words stand in memory one after another, four bytes each. -/
theorem length_flatten_leBytes (ws : List Word) : (ws.map (fun w => leBytes 4 w.toNat)).flatten.length = 4 * ws.length := by
  induction ws with
  | nil => rfl
  | cons w ws ih => rw [List.map_cons, List.flatten_cons, List.length_append, length_leBytes, ih, List.length_cons]; omega

theorem getElem?_flatten_leBytes (ws : List Word) (k b : Nat) (hb : b < 4) :
    (ws.map (fun w => leBytes 4 w.toNat)).flatten[4 * k + b]? = ws[k]?.bind (fun w => (leBytes 4 w.toNat)[b]?) := by
  induction ws generalizing k with
  | nil => simp
  | cons w ws ih =>
    rw [List.map_cons, List.flatten_cons]
    cases k with
    | zero => rw [List.getElem?_append_left (by rw [length_leBytes]; omega)]; simp
    | succ k =>
      rw [List.getElem?_append_right (by rw [length_leBytes]; omega), length_leBytes, List.getElem?_cons_succ, ← ih]
      congr 1; omega

/-! Live and staged values after an update -/

/-- The value of an unwritten word rests on the plans of the Yards alone (R292). -/
theorem defWord_congr {s t : Chip} (h : t.pkt.yards = s.pkt.yards) (ca : Nat) : defWord t ca = defWord s ca := by
  unfold defWord; rw [h]

theorem liveW_congr {s t : Chip} (hl : t.live = s.live) (hy : t.pkt.yards = s.pkt.yards) (ca : Nat) : liveW t ca = liveW s ca := by
  unfold liveW; rw [hl, defWord_congr hy]

theorem liveW_setLive (ca k : Nat) (v : Word) (s : Chip) : liveW (setLive k v s) ca = if ca = k then v else liveW s ca := by
  have hd : defWord (setLive k v s) ca = defWord s ca := defWord_congr rfl ca
  unfold liveW
  rw [hd]
  by_cases hk : ca = k
  · subst hk
    by_cases hv : v = defWord s ca
    · simp only [setLive, if_pos hv, sfind_sdel, if_true]; exact hv.symm
    · simp only [setLive, if_neg hv, sfind_sins, if_true]
  · by_cases hv : v = defWord s k
    · simp only [setLive, if_pos hv, sfind_sdel, if_neg hk]
    · simp only [setLive, if_neg hv, sfind_sins, if_neg hk]

theorem stagedW_setStaged (ca : Nat) (v : Word) (s : Chip) : stagedW (setStaged ca v s) ca = v := by
  have hl : liveW (setStaged ca v s) ca = liveW s ca := liveW_congr rfl rfl ca
  unfold stagedW
  rw [hl]
  by_cases hv : v = liveW s ca
  · simp only [setStaged, if_pos hv, sfind_sdel, if_true]; exact hv.symm
  · simp only [setStaged, if_neg hv, sfind_sins, if_true]

theorem sfind_setStaged_other {ca k : Nat} (h : k ≠ ca) (v : Word) (s : Chip) :
    sfind (setStaged ca v s).staged k = sfind s.staged k := by
  by_cases hv : v = liveW s ca
  · simp only [setStaged, if_pos hv, sfind_sdel, if_neg h]
  · simp only [setStaged, if_neg hv, sfind_sins, if_neg h]

/-- What the chip shows of a word apart from its read-only bits: its live value, and the values staged. -/
def wordView (ca : Nat) (s : Chip) : Sparse Word × Word := (s.staged, liveW s ca)

theorem stagedW_of_wordView {ca : Nat} {s t : Chip} (h : wordView ca t = wordView ca s) : stagedW t ca = stagedW s ca := by
  obtain ⟨hs, hl⟩ := Prod.mk.inj h
  unfold stagedW; rw [hs, hl]

theorem wordView_setLive {ca k : Nat} (h : ca ≠ k) (v : Word) (s : Chip) : wordView ca (setLive k v s) = wordView ca s := by
  unfold wordView; rw [setLive_staged, liveW_setLive, if_neg h]

theorem wordView_bumpField {ca off : Nat} {i : Isl} (h : ca ≠ caddr i off) (lo w n : Nat) (s : Chip) :
    wordView ca (bumpField i off lo w n s) = wordView ca s := wordView_setLive h _ s

theorem wordView_msix (ca v : Nat) (s : Chip) : wordView ca (msix v s) = wordView ca s := by
  unfold msix; (repeat' split) <;> rfl

/-! Counters of accesses (R426) -/

/-- Adding to a counter changes live words alone. -/
theorem pmcAdd_changes (i : Isl) (k n : Nat) (s : Chip) : ∃ l, pmcAdd i k n s = { s with live := l } := by
  have two : ∀ a v b w, ∃ l, setLive a v (setLive b w s) = { s with live := l } := fun _ _ _ _ => ⟨_, rfl⟩
  exact two ..

/-- Counting an event changes counter words, the marks of the counters and the free values taken. -/
theorem pmcCount_changes (i : Isl) (event sub : Nat) (s : Chip) :
    ∃ l p n, pmcCount i event sub s = { s with live := l, pmc := p, free := n } := by
  unfold pmcCount
  refine List.foldlRecOn (motive := fun (t : Chip) => ∃ l p n, t = { s with live := l, pmc := p, free := n }) _ _
    ⟨s.live, s.pmc, s.free, rfl⟩ ?_
  rintro _ ⟨l, p, n, rfl⟩ k _
  dsimp only
  split
  · obtain ⟨l', h⟩ := pmcAdd_changes i k _ (freeTake { s with live := l, pmc := p, free := n })
    rw [h]
    exact ⟨_, _, _, rfl⟩
  · exact ⟨_, _, _, rfl⟩

@[simp] theorem pmcCount_staged (i : Isl) (event sub : Nat) (s : Chip) : (pmcCount i event sub s).staged = s.staged := by
  obtain ⟨l, p, n, h⟩ := pmcCount_changes i event sub s; rw [h]

@[simp] theorem pmcCount_ports (i : Isl) (event sub : Nat) (s : Chip) : (pmcCount i event sub s).ports = s.ports := by
  obtain ⟨l, p, n, h⟩ := pmcCount_changes i event sub s; rw [h]

@[simp] theorem pmcCount_pkt (i : Isl) (event sub : Nat) (s : Chip) : (pmcCount i event sub s).pkt = s.pkt := by
  obtain ⟨l, p, n, h⟩ := pmcCount_changes i event sub s; rw [h]

@[simp] theorem pmcCount_hostMem (i : Isl) (event sub : Nat) (s : Chip) : (pmcCount i event sub s).hostMem = s.hostMem := by
  obtain ⟨l, p, n, h⟩ := pmcCount_changes i event sub s; rw [h]

theorem wordView_pmcAdd {ca : Nat} {i : Isl} {k : Nat} (hlo : ca ≠ caddr i (0x80 + 8 * k)) (hhi : ca ≠ caddr i (0x84 + 8 * k))
    (n : Nat) (s : Chip) : wordView ca (pmcAdd i k n s) = wordView ca s := by
  unfold pmcAdd
  exact (wordView_setLive hhi _ _).trans (wordView_setLive hlo _ _)

theorem wordView_pmcMark (ca : Nat) (i : Isl) (k till : Nat) (s : Chip) : wordView ca (pmcMark i k till s) = wordView ca s := rfl

theorem wordView_freeTake (ca : Nat) (s : Chip) : wordView ca (freeTake s) = wordView ca s := rfl

/-- Counting an event leaves every word alone that is no counter word of the island. -/
theorem wordView_pmcCount {ca : Nat} {i : Isl} (h : ∀ k < 8, ca ≠ caddr i (0x80 + 8 * k) ∧ ca ≠ caddr i (0x84 + 8 * k))
    (event sub : Nat) (s : Chip) : wordView ca (pmcCount i event sub s) = wordView ca s := by
  unfold pmcCount
  refine List.foldlRecOn (motive := fun (t : Chip) => wordView ca t = wordView ca s) _ _ rfl ?_
  intro t ht k hk
  obtain ⟨hlo, hhi⟩ := h k (by have := (mem_span 0 8 k).1 hk; omega)
  dsimp only
  split
  · rw [wordView_pmcMark, wordView_pmcAdd hlo hhi, wordView_freeTake, ht]
  · exact ht

/-! What an access asks of the state stays true under its own count -/

theorem queueYard_congr {s t : Chip} (h : t.ports = s.ports) (q : Nat) : queueYard t q = queueYard s q := by
  have hserving : servingLine t = servingLine s := by funext k; unfold servingLine; rw [h]
  have hsiding : sidingPlatform t = sidingPlatform s := by
    funext n; unfold sidingPlatform servedBy preparedFor; rw [h, hserving]
  unfold queueYard; rw [hsiding]

theorem notHeld_congr {s t : Chip} (h : t.ports = s.ports) (i : Isl) (off : Nat) : notHeld t i off = notHeld s i off := by
  unfold notHeld; simp only [queueYard_congr h]

theorem lineWaits_congr {s t : Chip} (h : t.pkt = s.pkt) (i : Isl) : lineWaits t i = lineWaits s i := by
  unfold lineWaits commitWaits; rw [h]

theorem clampRecclk_congr {s t : Chip} (h : t.ports = s.ports) (n : Nat) : clampRecclk t n = clampRecclk s n := by
  unfold clampRecclk portOfLane portList portOf; rw [h]

theorem clampWrite_congr {s t : Chip} (h : t.ports = s.ports) (i : Isl) (off n : Nat) : clampWrite t i off n = clampWrite s i off n := by
  unfold clampWrite; simp only [clampRecclk_congr h]

/-- An island that answers keeps no access waiting for its domain (R50). -/
theorem offDomains_of_isOn {s : Chip} {i : Isl} (h : isOn s i = true) : offDomains s [i] = [] := by
  simp [offDomains, h]

/-! Reading -/

/-- Reading words without RC bits leaves the chip as it is. -/
theorem clearRc_of_rc_zero {i : Isl} {off : Nat} (h : ∀ w, wordSpec i off = some w → w.rc = 0) (s : Chip) : clearRc i off s = s := by
  unfold clearRc
  split
  · rfl
  · rename_i w hw; rw [if_pos (h w hw)]

theorem length_readWords (live : Bool) (i : Isl) (off n : Nat) (s : Chip) : (readWords live i off n s).1.length = n := by
  induction n generalizing off s with
  | zero => rfl
  | succ n ih => rw [readWords, List.length_cons, ih]

@[simp] theorem readWords_hostMem (live : Bool) (i : Isl) (off n : Nat) (s : Chip) : (readWords live i off n s).2.hostMem = s.hostMem := by
  induction n generalizing off s with
  | zero => rfl
  | succ n ih => exact (ih _ _).trans (congrArg (fun x => x.2.2.2.1) (clearRc_kept i off s))

/-- Words without RC bits are all read in one and the same state. -/
theorem readWords_getElem? (live : Bool) (i : Isl) (off n : Nat) (s : Chip)
    (h : ∀ o w, off ≤ o → o < off + 4 * n → wordSpec i o = some w → w.rc = 0) (k : Nat) (hk : k < n) :
    (readWords live i off n s).1[k]? = some (readWord s live i (off + 4 * k)) := by
  induction n generalizing off k with
  | zero => omega
  | succ n ih =>
    have hs : (readOnce live i off s).2 = s := clearRc_of_rc_zero (fun w => h off w (Nat.le_refl _) (by omega)) s
    rw [readWords, hs]
    cases k with
    | zero => rfl
    | succ k =>
      rw [List.getElem?_cons_succ, ih (off + 4) (fun o w ho ho' => h o w (by omega) (by omega)) k (by omega)]
      congr 2; omega

/-- A read of words that lie in one Cabin, its island not fenced (R117). -/
theorem readRange_ok {live : Bool} {ca count : Nat} {s : Chip} {i : Isl} {off : Nat} (hat : wordAt ca = .inr (i, off))
    (hf : isFenced s i = false) (hspan : off + 4 * count ≤ 0x00100000) :
    readRange live ca count s = (.ok, readWords live i off count (pmcCount i 0x02 0 s)) := by
  unfold readRange
  rw [hat]
  dsimp only
  rw [if_neg (by omega), hf, Bool.false_and, if_neg (by decide)]

theorem wordAt_inr {ca off : Nat} {i : Isl} (h : wordAt ca = .inr (i, off)) : islOf (ca / 2 ^ 32) = some i ∧ ca % 2 ^ 32 = off := by
  unfold wordAt at h
  split at h
  · cases h
  · split at h
    · cases h
    · rename_i j hj
      dsimp only at h
      split at h
      · cases h
      · split at h
        · cases h
        · cases h; exact ⟨hj, rfl⟩

/-- A read waits for no domain while its island answers (R50). -/
theorem addrDomains_nil {ca off : Nat} {i : Isl} {s : Chip} (hat : wordAt ca = .inr (i, off)) (hon : isOn s i = true) :
    addrDomains ca s = [] := by
  unfold addrDomains writeDomains
  rw [(wordAt_inr hat).1]
  dsimp only
  split
  · rfl
  · exact offDomains_of_isOn hon

theorem fieldRead_ends {s : State} {ring : Nat} {ops : FieldReadOps} (h : AtWork s ring (.fieldRead ring ops))
    (hn : addrDomains ops.caddr s.chip = []) :
    Ends (.fieldRead ring ops) s ring (fieldRead ops s.chip).1 (fieldRead ops s.chip).2.1 (fieldRead ops s.chip).2.2 := by
  have hexec : exec (.fieldRead ring ops) s = execFieldRead ring ops s := rfl
  rw [Ends, Becomes, hexec, execFieldRead, onUnit_next (decide_eq_true h.1), endOrder_atWork h _ _ hn]

/-! Staged words -/

/-- A word with staged bits is none that the catalog lists without them. -/
theorem wordSpec_rws_ne_zero {i : Isl} {off : Nat} {w : WordSpec} (hw : wordSpec i off = some w) (hrws : w.rws ≠ 0) :
    (wordSpec i off).map WordSpec.rws ≠ some 0 := by
  rw [hw]; simpa using hrws

theorem wordSpec_counter (i : Isl) {k : Nat} (hk : k < 8) :
    (wordSpec i (0x80 + 8 * k)).map WordSpec.rws = some 0 ∧ (wordSpec i (0x84 + 8 * k)).map WordSpec.rws = some 0 := by
  have hcab : ∀ held : Bool, ∀ k < 8, cabinWord held (0x80 + 8 * k) = some { rw := 0xFFFFFFFF } ∧
      cabinWord held (0x84 + 8 * k) = some { rw := 0x0000FFFF } := by decide
  obtain ⟨hlo, hhi⟩ := hcab (holdsCounts i) k hk
  unfold wordSpec
  rw [hlo, hhi]
  exact ⟨rfl, rfl⟩

theorem wordAt_caddr {i j : Isl} {o off : Nat} (h : wordAt (caddr j o) = .inr (i, off)) (ho : o < 2 ^ 32) : off = o := by
  have := (wordAt_inr h).2
  unfold caddr at this
  omega

/-- A staged word is no counter word of its island. -/
theorem ne_counter_of_rws {ca off : Nat} {i : Isl} {w : WordSpec} (hat : wordAt ca = .inr (i, off)) (hw : wordSpec i off = some w)
    (hrws : w.rws ≠ 0) : ∀ k < 8, ca ≠ caddr i (0x80 + 8 * k) ∧ ca ≠ caddr i (0x84 + 8 * k) := by
  intro k hk
  obtain ⟨hlo, hhi⟩ := wordSpec_counter i hk
  constructor
  · rintro rfl
    obtain rfl := wordAt_caddr hat (by omega)
    exact wordSpec_rws_ne_zero hw hrws hlo
  · rintro rfl
    obtain rfl := wordAt_caddr hat (by omega)
    exact wordSpec_rws_ne_zero hw hrws hhi

/-! What a staged write makes happen at once -/

/-- Filling the buckets of a queue changes its scheduler state and the free values taken. -/
theorem fillBuckets_words (q : Nat) (s : Chip) :
    (fillBuckets q s).live = s.live ∧ (fillBuckets q s).staged = s.staged ∧ (fillBuckets q s).pkt.yards = s.pkt.yards := by
  unfold fillBuckets
  dsimp only
  split
  · exact ⟨rfl, rfl, rfl⟩
  · split <;> exact ⟨rfl, rfl, rfl⟩

theorem fillBefore_words (i : Isl) (off : Nat) (s : Chip) :
    (fillBefore i off s).live = s.live ∧ (fillBefore i off s).staged = s.staged ∧ (fillBefore i off s).pkt.yards = s.pkt.yards := by
  unfold fillBefore
  split
  · split
    · exact ⟨rfl, rfl, rfl⟩
    · exact fillBuckets_words ..
  · exact ⟨rfl, rfl, rfl⟩

/-- A staged write of a word changes no word by what it makes happen at once: only words of access RW trip the thresholds of R59,
`ERR_N` and the watchdog. -/
theorem afterWrite_words {i : Isl} {off : Nat} {w : WordSpec} (hw : wordSpec i off = some w) (hrws : w.rws ≠ 0) (s : Chip) :
    (afterWrite i off s).live = s.live ∧ (afterWrite i off s).staged = s.staged ∧
      (afterWrite i off s).pkt.yards = s.pkt.yards := by
  unfold afterWrite
  split
  case h_1 =>
    have htj : off ≠ 0x0400 := by rintro rfl; exact wordSpec_rws_ne_zero hw hrws (by decide)
    have herr : off ≠ 0x0110 := by rintro rfl; exact wordSpec_rws_ne_zero hw hrws (by decide)
    rw [if_neg htj, if_neg herr]
    exact ⟨rfl, rfl, rfl⟩
  case h_2 =>
    have hwdog : off ≠ 0x0104 := by rintro rfl; exact wordSpec_rws_ne_zero hw hrws (by decide)
    rw [if_neg (by simp [hwdog])]
    exact ⟨rfl, rfl, rfl⟩
  case h_3 => split <;> exact ⟨rfl, rfl, rfl⟩
  case h_4 n =>
    split
    · exact ⟨rfl, rfl, rfl⟩
    · exact fillBefore_words ..
  case h_5 => exact ⟨rfl, rfl, rfl⟩

/-- A word without W1C bits has none to clear. -/
theorem clearW1c_of_w1c_zero {i : Isl} {off : Nat} {w : WordSpec} (hw : wordSpec i off = some w) (h : w.w1c = 0) (s : Chip) :
    clearW1c i off 0 s = s := by
  unfold clearW1c
  split
  · have hev : off ≠ 0x0300 := by
      rintro rfl
      have : (wordSpec .tt 0x0300).map WordSpec.w1c ≠ some 0 := by decide
      exact this (by rw [hw, Option.map_some, h])
    rw [if_neg hev, if_neg (by decide)]
  · rfl

/-! A write of a staged word -/

/-- A write of R118 to a staged word outside the Signal Box, whose island answers and which nothing refuses. -/
structure StagedWrite (s : Chip) (ca : Nat) (i : Isl) (off : Nat) (w : WordSpec) (mask : Word) : Prop where
  place : wordAt ca = .inr (i, off)
  answers : Answers s i
  notSb : i ≠ .sb
  spec : wordSpec i off = some w
  staged : w.rws ≠ 0
  noW1c : w.w1c = 0
  held : notHeld s i off = false
  notCipher : linkCipherWord i off = false
  writable : mask &&& BitVec.ofNat 32 (w.ro ||| w.rc) = 0
  free : lineWaits s i = false
  noCtl : inBlock off 0x48 8 4 0 = false

/-- The chip after a value was staged in a word: the access counted, and what follows at once. -/
def stageWord (ca : Nat) (i : Isl) (off : Nat) (x : Word) (s : Chip) : Chip :=
  afterWrite i off (setStaged ca x (pmcCount i 0x02 0 s))

section
variable {s : Chip} {ca off : Nat} {i : Isl} {w : WordSpec} {mask : Word}

namespace StagedWrite

/-- Its island being on, it waits for no domain (R50). -/
theorem writeDomains_nil (h : StagedWrite s ca i off w mask) (value : Word) : writeDomains s ca value mask = [] := by
  unfold writeDomains
  rw [(wordAt_inr h.place).1]
  dsimp only
  rw [if_neg (by simp [h.notSb])]
  exact offDomains_of_isOn h.answers.2.2

/-- Counting the access leaves the word alone. -/
theorem wordView_count (h : StagedWrite s ca i off w mask) (event sub : Nat) : wordView ca (pmcCount i event sub s) = wordView ca s :=
  wordView_pmcCount (ne_counter_of_rws h.place h.spec h.staged) event sub s

/-- The write as it stands once every check of R118 has passed. -/
theorem writeWord_eq (h : StagedWrite s ca i off w mask) (value : Word) :
    let u := pmcCount i 0x02 0 s
    let m := mask &&& BitVec.ofNat 32 (w.rw ||| w.rws)
    let new := (mergeW (stagedW s ca) value m).toNat
    let v := clampWrite s i off new
    let t := stageWord ca i off (BitVec.ofNat 32 v) s
    writeWord ca value mask s = if m = 0 then (.ok, readWord u false i off, u)
      else (if v = new then .ok else .governed, readWord t false i off, t) := by
  have hstaged : stagedW (pmcCount i 0x02 0 s) ca = stagedW s ca := stagedW_of_wordView (h.wordView_count 0x02 0)
  unfold writeWord
  rw [h.place]
  dsimp only
  rw [if_neg (by simp [h.answers.2.1]), h.spec]
  dsimp only
  have hw1c : (value &&& mask &&& BitVec.ofNat 32 0).toNat = 0 := by simp
  rw [notHeld_congr (pmcCount_ports ..), h.held, lineWaits_congr (pmcCount_pkt ..), h.free, h.notCipher, h.noW1c, h.noCtl, hw1c,
    clearW1c_of_w1c_zero h.spec h.noW1c, clampWrite_congr (pmcCount_ports ..), hstaged, if_neg (by decide), if_neg (by simp),
    if_neg (fun hne : mask &&& BitVec.ofNat 32 (w.ro ||| w.rc) ≠ 0 => hne h.writable), if_neg (by simp [h.notSb]),
    if_neg (by simp [h.notSb]), if_neg (by simp)]
  simp only [h.staged, stageWord, ne_eq, not_false_eq_true, if_true, Bool.false_and, Bool.false_eq_true, if_false]

/-- Staging a value changes no live value but those of the access counters. -/
theorem stageWord_live (h : StagedWrite s ca i off w mask) (x : Word) : (stageWord ca i off x s).live = (pmcCount i 0x02 0 s).live :=
  (afterWrite_words h.spec h.staged _).1

theorem stageWord_liveW (h : StagedWrite s ca i off w mask) (x : Word) : liveW (stageWord ca i off x s) ca = liveW s ca := by
  obtain ⟨hl, -, hy⟩ := afterWrite_words h.spec h.staged (setStaged ca x (pmcCount i 0x02 0 s))
  calc liveW (stageWord ca i off x s) ca = liveW (pmcCount i 0x02 0 s) ca := liveW_congr hl hy ca
    _ = liveW s ca := congrArg Prod.snd (h.wordView_count 0x02 0)

theorem stageWord_stagedW (h : StagedWrite s ca i off w mask) (x : Word) : stagedW (stageWord ca i off x s) ca = x := by
  obtain ⟨hl, hs, hy⟩ := afterWrite_words h.spec h.staged (setStaged ca x (pmcCount i 0x02 0 s))
  calc stagedW (stageWord ca i off x s) ca = stagedW (setStaged ca x (pmcCount i 0x02 0 s)) ca :=
        stagedW_of_wordView (Prod.ext hs (liveW_congr hl hy ca))
    _ = x := stagedW_setStaged ..

theorem stageWord_staged_other (h : StagedWrite s ca i off w mask) (x : Word) {k : Nat} (hk : k ≠ ca) :
    sfind (stageWord ca i off x s).staged k = sfind s.staged k := by
  rw [stageWord, (afterWrite_words h.spec h.staged _).2.1, sfind_setStaged_other hk, pmcCount_staged]

end StagedWrite
end

/-! A clamped write is counted (R474, R475) -/

theorem escalated_le (s : Chip) (cls sev : Nat) : escalated s cls sev ≤ sev + 1 := by
  unfold escalated; split <;> omega

theorem wordView_ite (ca : Nat) (c : Prop) [Decidable c] (s t : Chip) :
    wordView ca (if c then s else t) = if c then wordView ca s else wordView ca t := apply_ite ..

theorem wordView_errUpdate (ca : Nat) (s : Chip) : wordView ca (errUpdate s) = wordView ca s := rfl

/-- A fault at S0 or S1, which even escalated meets no reaction, changes no word but the counter of its class. -/
theorem wordView_raise_minor {ca cls : Nat} (h : ca ≠ caddr .ks (0x0200 + 8 * cls)) (i : Isl) (loc : Nat) {sev : Nat} (hsev : sev < 2)
    (s : Chip) : wordView ca (raise i loc cls sev s) = wordView ca s := by
  have hesc : escalated s cls sev < 3 := by have := escalated_le s cls sev; omega
  unfold raise raiseIn
  split
  · split <;> rfl
  · dsimp only
    rw [if_neg (show escalated s cls sev ≠ 3 by omega), if_neg (show ¬ 4 ≤ escalated s cls sev by omega), if_pos rfl]
    simp only [wordView_errUpdate, wordView_ite, wordView_msix, wordView_bumpField h, ite_self]
    rfl

theorem wordView_countClamp {ca : Nat} (hsb : ca ≠ caddr .sb 0x0384) (hks : ca ≠ caddr .ks (0x0200 + 8 * clsFirmware)) (n : Nat) (s : Chip) :
    wordView ca (countClamp n s) = wordView ca s :=
  (wordView_raise_minor hks _ _ (by decide) _).trans (wordView_bumpField hsb _ _ _ _)

/-- The count of a clamp touches no staged word outside the Signal Box. -/
theorem StagedWrite.wordView_countClamp {s : Chip} {ca off : Nat} {i : Isl} {w : WordSpec} {mask : Word} (h : StagedWrite s ca i off w mask)
    (n : Nat) (t : Chip) : wordView ca (countClamp n t) = wordView ca t := by
  have hat := h.place
  refine Machine.wordView_countClamp ?_ ?_ n t
  · rintro rfl
    rw [show wordAt (caddr .sb 0x0384) = .inr (.sb, 0x0384) by decide] at hat
    cases hat
    exact h.notSb rfl
  · rintro rfl
    rw [show wordAt (caddr .ks (0x0200 + 8 * clsFirmware)) = .inr (.ks, 0x0250) by decide] at hat
    cases hat
    exact wordSpec_rws_ne_zero h.spec h.staged (by decide)

/-! The field access Orders -/

theorem fieldWrite_ends {s : State} {ring : Nat} {ops : FieldWriteOps} (h : AtWork s ring (.fieldWrite ring ops))
    (hn : entryDomains ops.entries s.chip = []) :
    Ends (.fieldWrite ring ops) s ring (fieldWrite ops s.chip).1 (fieldWrite ops s.chip).2.1 (fieldWrite ops s.chip).2.2 := by
  have hexec : exec (.fieldWrite ring ops) s = execFieldWrite ring ops s := rfl
  rw [Ends, Becomes, hexec, execFieldWrite, onUnit_next (decide_eq_true h.1), endOrder_atWork h _ _ hn]

theorem fieldRead_no_payload {s : Chip} {ops : FieldReadOps} {i : Isl} {off : Nat} (hat : wordAt ops.caddr = .inr (i, off))
    (hf : isFenced s i = false) (h1 : 1 ≤ ops.count) (h2 : ops.count ≤ 1024) (hspan : off + 4 * ops.count ≤ 0x00100000)
    (hp : ops.payload = none) :
    let r := readWords ops.live i off ops.count (pmcCount i 0x02 0 s)
    fieldRead ops s = (.ok, (nth 0 r.1 0).zeroExtend 64, r.2) := by
  unfold fieldRead
  rw [hp, readRange_ok hat hf hspan]
  dsimp only
  rw [if_neg (by simp only [Bool.or_false, Bool.or_eq_true, decide_eq_true_eq]; omega), if_neg (by decide)]

theorem fieldRead_to_payload {s : Chip} {ops : FieldReadOps} {i : Isl} {off : Nat} {p : Payload} (hat : wordAt ops.caddr = .inr (i, off))
    (hf : isFenced s i = false) (h1 : 1 ≤ ops.count) (h2 : ops.count ≤ 1024) (hspan : off + 4 * ops.count ≤ 0x00100000)
    (hp : ops.payload = some p) (hlen : 4 * ops.count ≤ p.len) :
    let r := readWords ops.live i off ops.count (pmcCount i 0x02 0 s)
    fieldRead ops s =
      (.ok, BitVec.ofNat 64 ops.count, hostWrite p.addr ((r.1.map (fun w => leBytes 4 w.toNat)).flatten) r.2) := by
  unfold fieldRead
  rw [hp, readRange_ok hat hf hspan]
  dsimp only
  rw [if_neg (by simp only [Bool.or_eq_true, decide_eq_true_eq]; omega), if_neg (by decide)]

/-- A FIELD_READ of one word without a payload: the word is the result, and its RC bits clear. -/
theorem fieldRead_word {s : State} {ring : Nat} {ops : FieldReadOps} {i : Isl} {off : Nat} (h : AtWork s ring (.fieldRead ring ops))
    (hat : wordAt ops.caddr = .inr (i, off)) (ha : Answers s.chip i) (hp : ops.payload = none) (hc : ops.count = 1)
    (hspan : off + 4 * ops.count ≤ 0x00100000) :
    let u := pmcCount i 0x02 0 s.chip
    Ends (.fieldRead ring ops) s ring .ok ((readWord u ops.live i off).zeroExtend 64) (clearRc i off u) := by
  have hends := fieldRead_ends h (addrDomains_nil hat ha.2.2)
  rw [fieldRead_no_payload hat ha.2.1 (by omega) (by omega) hspan hp, hc] at hends
  exact hends

/-- A FIELD_READ into a payload: the words stand there, and no other byte of memory changes. -/
theorem fieldRead_payload {s : State} {ring : Nat} {ops : FieldReadOps} {i : Isl} {off : Nat} {p : Payload}
    (h : AtWork s ring (.fieldRead ring ops)) (hat : wordAt ops.caddr = .inr (i, off)) (ha : Answers s.chip i) (h1 : 1 ≤ ops.count)
    (h2 : ops.count ≤ 1024) (hspan : off + 4 * ops.count ≤ 0x00100000) (hp : ops.payload = some p) (hlen : 4 * ops.count ≤ p.len) :
    ∃ t, Ends (.fieldRead ring ops) s ring .ok (BitVec.ofNat 64 ops.count) t ∧
      (∀ a, a < p.addr ∨ p.addr + 4 * ops.count ≤ a → hostByte t a = hostByte s.chip a) ∧
      ∀ k, k < ops.count → (∀ o w, off ≤ o → o < off + 4 * ops.count → wordSpec i o = some w → w.rc = 0) → ∀ b, b < 4 →
        hostByte t (p.addr + 4 * k + b) = (leBytes 4 (readWord (pmcCount i 0x02 0 s.chip) ops.live i (off + 4 * k)).toNat)[b]? := by
  have hends := fieldRead_ends h (addrDomains_nil hat ha.2.2)
  rw [fieldRead_to_payload hat ha.2.1 h1 h2 hspan hp hlen] at hends
  have hbytes := length_flatten_leBytes (readWords ops.live i off ops.count (pmcCount i 0x02 0 s.chip)).1
  rw [length_readWords] at hbytes
  refine ⟨_, hends, fun a ho => ?_, fun k hk hrc b hb => ?_⟩
  · rw [hostByte_hostWrite, hbytes, if_neg (by omega), hostByte, readWords_hostMem, pmcCount_hostMem, hostByte]
  · rw [hostByte_hostWrite, hbytes, if_pos (by omega), show p.addr + 4 * k + b - p.addr = 4 * k + b by omega,
      getElem?_flatten_leBytes _ k b hb, readWords_getElem? _ _ _ _ _ hrc k hk]
    rfl

section
variable {s : State} {ring off : Nat} {ops : FieldWriteOps} {e : FieldEntry} {i : Isl} {w : WordSpec}

/-- A FIELD_WRITE of one entry ends as the write of its word does, a clamp counted. -/
theorem fieldWrite_single_ends (h : AtWork s ring (.fieldWrite ring ops)) (hl : ops.isList = false) (he : ops.entries = [e])
    (hw : StagedWrite s.chip e.caddr i off w e.mask) {st : Status} {x : Word} {t : Chip}
    (heq : writeWord e.caddr e.value e.mask s.chip = (st, x, t)) :
    Ends (.fieldWrite ring ops) s ring st (x.zeroExtend 64) (if st = .governed then countClamp 0 t else t) := by
  have hends := fieldWrite_ends h (by simp [he, entryDomains, hw.writeDomains_nil])
  have hfw : fieldWrite ops s.chip = (st, x.zeroExtend 64, if st = .governed then countClamp 0 t else t) := by
    unfold fieldWrite
    rw [hl, he]
    simp only [heq, Bool.false_eq_true, if_false]
  rwa [hfw] at hends

/-- A MASK of 0 writes nothing. -/
theorem fieldWrite_mask_zero (h : AtWork s ring (.fieldWrite ring ops)) (hl : ops.isList = false) (he : ops.entries = [e])
    (hw : StagedWrite s.chip e.caddr i off w e.mask) (hm : e.mask &&& BitVec.ofNat 32 (w.rw ||| w.rws) = 0) :
    ∃ res, Ends (.fieldWrite ring ops) s ring .ok res (pmcCount i 0x02 0 s.chip) :=
  ⟨_, fieldWrite_single_ends h hl he hw ((hw.writeWord_eq e.value).trans (if_pos hm))⟩

/-- A FIELD_WRITE to a staged word stages the bounded value there, and touches no other staged value and no live one but the counters. -/
theorem fieldWrite_staged (h : AtWork s ring (.fieldWrite ring ops)) (hl : ops.isList = false) (he : ops.entries = [e])
    (hw : StagedWrite s.chip e.caddr i off w e.mask) (hm : e.mask &&& BitVec.ofNat 32 (w.rw ||| w.rws) ≠ 0) :
    let new := mergeW (stagedW s.chip e.caddr) e.value (e.mask &&& BitVec.ofNat 32 (w.rw ||| w.rws))
    let v := clampWrite s.chip i off new.toNat
    ∃ res t, Ends (.fieldWrite ring ops) s ring (if v = new.toNat then .ok else .governed) res t ∧
      stagedW t e.caddr = BitVec.ofNat 32 v ∧ (∀ ca, ca ≠ e.caddr → sfind t.staged ca = sfind s.chip.staged ca) ∧
      (v = new.toNat → t.live = (pmcCount i 0x02 0 s.chip).live) ∧ liveW t e.caddr = liveW s.chip e.caddr := by
  intro new v
  have hends := fieldWrite_single_ends h hl he hw ((hw.writeWord_eq e.value).trans (if_neg hm))
  refine ⟨_, _, hends, ?_⟩
  by_cases hv : v = new.toNat
  · rw [if_neg (by rw [if_pos hv]; decide)]
    exact ⟨hw.stageWord_stagedW _, fun ca hca => hw.stageWord_staged_other _ hca, fun _ => hw.stageWord_live _, hw.stageWord_liveW _⟩
  · rw [if_pos (if_neg hv)]
    have hkeep := hw.wordView_countClamp 0 (stageWord e.caddr i off (BitVec.ofNat 32 v) s.chip)
    obtain ⟨hstaged, hlive⟩ := Prod.mk.inj hkeep
    refine ⟨(stagedW_of_wordView hkeep).trans (hw.stageWord_stagedW _), fun ca hca => ?_, fun h => absurd h hv,
      hlive.trans (hw.stageWord_liveW _)⟩
    exact (congrArg (sfind · ca) hstaged).trans (hw.stageWord_staged_other _ hca)

end

/-- Settles O18: the reads through `readWords`, whose words stand in one state while no RC bit clears; the writes through what
`writeWord` does once its checks have passed. -/
theorem fieldAccess : Obligations.FieldAccess := by
  unfold Obligations.FieldAccess
  constructor
  · intro s ring ops i off h hat ha h1 h2 hspan
    exact ⟨fun hp hc => fieldRead_word h hat ha hp hc hspan, fun p hp hlen => fieldRead_payload h hat ha h1 h2 hspan hp hlen⟩
  · intro s ring ops e i off w h hl he hat ha hsb hw hrws hw1c hheld hlink hro hwait hblk
    have hsw : StagedWrite s.chip e.caddr i off w e.mask := ⟨hat, ha, hsb, hw, hrws, hw1c, hheld, hlink, hro, hwait, hblk⟩
    exact ⟨fieldWrite_mask_zero h hl he hsw, fieldWrite_staged h hl he hsw⟩

/-! Register writes -/

/-- The device out of reset, the domain of the Keystone's island (R48) switched off. -/
def keystoneOff : Chip := { power := { supplyHeld := false, domains := [(70, { on := false })] } }

/-- A write of `KS_ERR_CTRL` while that domain is off only wants it on (R50). -/
theorem ksErrCtrlWrite_keystoneOff (value mask : Word) :
    exec (.ksErrCtrlWrite value mask) { chip := keystoneOff } = .next { chip := wantDomains [70] keystoneOff } := by
  have hexec : exec (.ksErrCtrlWrite value mask) { chip := keystoneOff } = execKsErrCtrlWrite value mask { chip := keystoneOff } := rfl
  have hdead : dead keystoneOff = false := by decide
  have hneeds : writeDomains keystoneOff (caddr .ks 0x0110) value mask = [70] := by
    unfold writeDomains
    rw [show islOf (caddr .ks 0x0110 / 2 ^ 32) = some .ks by decide]
    dsimp only
    rw [if_neg (by simp)]
    decide
  rw [hexec, execKsErrCtrlWrite, onChip]
  simp only [directWrite, hdead, hneeds, Bool.false_eq_true, if_false]

/-- Refutes O49: it ranges over every state, and its clause on `KS_ERR_CTRL` does not ask that the Keystone's domain is on, as R49 keeps it
while the device runs. With that domain off, a write of 0 with every bit of MASK set waits for it (R50), and the word keeps its reset value
0x202 where the statement has 0. -/
theorem not_registerWrites : ¬ Obligations.RegisterWrites := by
  unfold Obligations.RegisterWrites
  intro h
  obtain ⟨hks, -⟩ := h { chip := keystoneOff } 0#32 0xFFFFFFFF#32
  obtain ⟨t, ht, hv⟩ := hks (by decide) (by decide) (by decide)
  rw [Becomes, ksErrCtrlWrite_keystoneOff] at ht
  obtain rfl : wantDomains [70] keystoneOff = t := congrArg State.chip (Host.Outcome.next.inj ht)
  exact absurd hv (by decide)

end Sys2Proof.Machine
end

section
/-!
PROOFS. The block: how every command answers, what that leaves of the queue, and the invariant of a step.
-/

namespace Sys2Proof.Machine

/-! How a command answers -/

/-- Every command is what it does to the chip, guarded by its well-formedness: the check of its units is the one thing that can stop it
(R27), and the queue it was taken from is passed on as it is. -/
theorem exec_eq_onUnit (c : Instr) (s : State) : ∃ f, exec c s = onUnit c.wf s f := by
  cases c
  case transmitOpportunity sel env => cases sel <;> exact ⟨_, rfl⟩
  all_goals exact ⟨_, rfl⟩

theorem exec_of_wf {c : Instr} (h : c.wf = true) (s : State) : ∃ t : Chip, Becomes c s t := by
  obtain ⟨f, hf⟩ := exec_eq_onUnit c s
  exact ⟨f s.chip, hf.trans (onUnit_next h s f)⟩

theorem exec_of_not_wf {c : Instr} (h : c.wf = false) (s : State) : exec c s = .fault .noSuchUnit := by
  obtain ⟨f, hf⟩ := exec_eq_onUnit c s
  exact hf.trans (onUnit_fault h s f)

theorem wf_of_exec_next {c : Instr} {s t : State} (h : exec c s = .next t) : c.wf = true := by
  cases hc : c.wf with
  | true => rfl
  | false =>
    rw [exec_of_not_wf hc] at h
    cases h

theorem pending_of_exec_next {c : Instr} {s t : State} (h : exec c s = .next t) : t.pending = s.pending := by
  obtain ⟨u, hu⟩ := exec_of_wf (wf_of_exec_next h) s
  rw [Becomes, h] at hu
  rw [Host.Outcome.next.inj hu]

/-- Settles O3: the guard of `exec_eq_onUnit` holds or fails. -/
theorem queueUntouched : Obligations.QueueUntouched := by
  unfold Obligations.QueueUntouched
  exact ⟨fun c s => ⟨fun h => exec_of_wf h s, fun h => exec_of_not_wf h s⟩, fun _ _ _ h => pending_of_exec_next h⟩

/-! Steps and runs of the block -/

/-- While every waiting command is well formed, a step answers, and the front of the queue, if any, is gone. -/
theorem step_of_queueWf {s : State} (h : QueueWf s) : ∃ t : State, step s = .next t ∧ t.pending = s.pending.tail := by
  unfold step
  cases hq : s.pending with
  | nil => exact ⟨_, rfl, rfl⟩
  | cons c rest =>
    have hc : c.wf = true := List.all_eq_true.1 h c (by rw [hq]; exact List.mem_cons_self ..)
    obtain ⟨t, ht⟩ := exec_of_wf hc { s with pending := rest }
    exact ⟨_, ht, rfl⟩

theorem queueWf_of_tail {s t : State} (h : QueueWf s) (ht : t.pending = s.pending.tail) : QueueWf t := by
  unfold QueueWf at h ⊢
  rw [List.all_eq_true] at h ⊢
  exact fun c hc => h c (List.mem_of_mem_tail (ht ▸ hc))

/-- `k` steps take the first `k` commands off the queue. -/
theorem run_of_queueWf (k : Nat) (s : State) (h : QueueWf s) :
    ∃ t : State, Host.Core.run core k s = .next t ∧ t.pending = s.pending.drop k := by
  induction k generalizing s with
  | zero => exact ⟨s, rfl, rfl⟩
  | succ k ih =>
    obtain ⟨u, hu, hpu⟩ := step_of_queueWf h
    obtain ⟨t, ht, hpt⟩ := ih u (queueWf_of_tail h hpu)
    have hstep : core.step s = .next u := hu
    exact ⟨t, by simp only [Host.Core.run, hstep, ht], by rw [hpt, hpu, List.drop_tail]⟩

/-- Settles O4: a step drops the front of the queue (`step_of_queueWf`), so what still waits stays well formed, and by induction on the
number of steps a run drops one command after another. -/
theorem stepKeepsQueueWf : Obligations.StepKeepsQueueWf := by
  unfold Obligations.StepKeepsQueueWf
  constructor
  · intro s h
    obtain ⟨t, ht, hp⟩ := step_of_queueWf h
    exact ⟨t, ht, queueWf_of_tail h hp, hp⟩
  · exact fun s k h => run_of_queueWf k s h

end Sys2Proof.Machine
end

section
/-!
PROOFS. What the accounts, drops and words leave alone: lanes, ports, groups and Line assignments.
-/

namespace Sys2Proof.Machine

theorem ports_foldl {α : Type} {f : Chip → α → Chip} (l : List α) (s : Chip) (h : ∀ s a, (f s a).ports = s.ports) :
    (l.foldl f s).ports = s.ports := by
  induction l generalizing s with
  | nil => rfl
  | cons a l ih => exact (ih _).trans (h s a)

theorem withStaged_ports (m : Sparse Word) (s : Chip) : ({ s with staged := m } : Chip).ports = s.ports := rfl

/-! Words, Waybills and telemetry -/

@[simp] theorem setField'_ports (i : Isl) (off lo w v : Nat) (s : Chip) : (setField' i off lo w v s).ports = s.ports :=
  setLive_ports ..
@[simp] theorem bumpField_ports (i : Isl) (off lo w n : Nat) (s : Chip) : (bumpField i off lo w n s).ports = s.ports :=
  setLive_ports ..
@[simp] theorem bump_ports (i : Isl) (off n : Nat) (s : Chip) : (bump i off n s).ports = s.ports := bumpField_ports ..
@[simp] theorem errUpdate_ports (s : Chip) : (errUpdate s).ports = s.ports := rfl
@[simp] theorem setFence_ports (i : Isl) (cause : Nat) (s : Chip) : (setFence i cause s).ports = s.ports := rfl
@[simp] theorem modExport_ports (e : Nat) (f : ExportSt → ExportSt) (s : Chip) : (modExport e f s).ports = s.ports := rfl
@[simp] theorem deriveWord_ports (i : Isl) (off : Nat) (w : Word) (s : Chip) : (deriveWord i off w s).ports = s.ports :=
  (withStaged_ports ..).trans ((setShadow_ports ..).trans (setLive_ports ..))

@[simp] theorem msix_ports (v : Nat) (s : Chip) : (msix v s).ports = s.ports := by
  simp [msix, apply_ite Chip.ports]

@[simp] theorem countPosts_ports (e n : Nat) (sent : Bool) (s : Chip) : (countPosts e n sent s).ports = s.ports := by
  simp [countPosts, ports_foldl, apply_ite Chip.ports]

@[simp] theorem postOutcome_ports (post : Option (Nat × Nat)) (sent : Bool) (s : Chip) : (postOutcome post sent s).ports = s.ports := by
  cases post with
  | none => rfl
  | some _ => exact countPosts_ports ..

@[simp] theorem postcardSelect_ports (i : Isl) (w : Waybill) (s : Chip) : (postcardSelect i w s).ports = s.ports := by
  simp [postcardSelect, apply_ite Chip.ports]

@[simp] theorem finishWaybill_ports (i : Isl) (w : Waybill) (s : Chip) : (finishWaybill i w s).ports = s.ports := by
  simp [finishWaybill]

@[simp] theorem dropWaybill_ports (i : Isl) (reason : Nat) (w : Waybill) (s : Chip) : (dropWaybill i reason w s).ports = s.ports :=
  finishWaybill_ports ..

@[simp] theorem hostOutcome_ports (h : Option (Nat × Nat × Bool)) (st : Status) (ts : Nat) (s : Chip) :
    (hostOutcome h st ts s).ports = s.ports := by cases h <;> rfl

/-! Cells, copies and segments -/

@[simp] theorem setQueue_ports (q : Nat) (l : List Copy) (s : Chip) : (setQueue q l s).ports = s.ports := rfl
@[simp] theorem modQueueSt_ports (q : Nat) (f : QueueSt → QueueSt) (s : Chip) : (modQueueSt q f s).ports = s.ports := rfl
@[simp] theorem setShare_ports (y fid : Nat) (v : Share) (s : Chip) : (setShare y fid v s).ports = s.ports := rfl
@[simp] theorem pruneSegs_ports (s : Chip) : (pruneSegs s).ports = s.ports := rfl
@[simp] theorem keepDiscard_ports (c : Copy) (s : Chip) : (keepDiscard c s).ports = s.ports := rfl
@[simp] theorem noteStale_ports (s : Chip) : (noteStale s).ports = s.ports := rfl

@[simp] theorem modYard_ports (y : Nat) (f : YardSt → YardSt) (s : Chip) : (modYard y f s).ports = s.ports := by
  simp [modYard, apply_ite Chip.ports]

@[simp] theorem returnUnused_ports (y r u : Nat) (headroom : Bool) (s : Chip) : (returnUnused y r u headroom s).ports = s.ports :=
  modYard_ports ..

@[simp] theorem freeCells_ports (y r n : Nat) (ret : List Nat) (s : Chip) : (freeCells y r n ret s).ports = s.ports := by
  simp [freeCells, ports_foldl, apply_ite Chip.ports]

@[simp] theorem decShare_ports (y fid : Nat) (idxs : List Nat) (s : Chip) : (decShare y fid idxs s).ports = s.ports := by
  unfold decShare
  split
  · rfl
  · simp [apply_ite Chip.ports]

@[simp] theorem releaseCopy_ports (c : Copy) (s : Chip) : (releaseCopy c s).ports = s.ports := by simp [releaseCopy]

@[simp] theorem recordDrop_ports (i : Isl) (reason : Nat) (c : Copy) (s : Chip) : (recordDrop i reason c s).ports = s.ports := by
  simp [recordDrop]

@[simp] theorem startDiscard_ports (i : Isl) (reason : Nat) (c : Copy) (s : Chip) : (startDiscard i reason c s).ports = s.ports := by
  simp [startDiscard]

@[simp] theorem dropCopy_ports (i : Isl) (reason : Nat) (c : Copy) (s : Chip) : (dropCopy i reason c s).ports = s.ports := by
  simp [dropCopy, apply_ite Chip.ports]

@[simp] theorem dropQueued_ports (i : Copy → Isl) (reason : Nat) (f : Copy → Bool) (s : Chip) :
    (dropQueued i reason f s).ports = s.ports := by
  simp [dropQueued, ports_foldl]

@[simp] theorem cutTx_ports (p : Nat) (s : Chip) : (cutTx p s).ports = s.ports := by simp [cutTx, ports_foldl]
@[simp] theorem cutRx_ports (p : Nat) (s : Chip) : (cutRx p s).ports = s.ports := rfl

/-! The accounts -/

@[simp] theorem sendPfc_ports (p g : Nat) (on : Bool) (s : Chip) : (sendPfc p g on s).ports = s.ports := by
  unfold sendPfc
  split
  · rfl
  · simp [ports_foldl, apply_ite Chip.ports]

@[simp] theorem xoffUpdate_ports (s : Chip) : (xoffUpdate s).ports = s.ports := by
  simp [xoffUpdate, ports_foldl, apply_ite Chip.ports]

@[simp] theorem spillModes_ports (s : Chip) : (spillModes s).ports = s.ports := by
  simp [spillModes, ports_foldl, apply_ite Chip.ports]

@[simp] theorem rebuildMap_ports (q : Nat) (s : Chip) : (rebuildMap q s).ports = s.ports := by
  simp [rebuildMap, apply_ite Chip.ports]

@[simp] theorem spillKeyDrain_ports (s : Chip) : (spillKeyDrain s).ports = s.ports := by
  unfold spillKeyDrain
  (repeat' split) <;> rfl

/-- Bringing the accounts up to date changes no lane, port or group. -/
@[simp] theorem account_ports (s : Chip) : (account s).ports = s.ports := by simp [account, ports_foldl]

/-! What a fence and a hold drop -/

@[simp] theorem dropRx_ports (i : Isl) (reason : Nat) (f : RxFrame) (s : Chip) : (dropRx i reason f s).ports = s.ports := by
  simp [dropRx]

@[simp] theorem dropJn_ports (i : Isl) (reason : Nat) (f : JnFrame) (s : Chip) : (dropJn i reason f s).ports = s.ports := by
  simp [dropJn]

@[simp] theorem clearIline_ports (reason n : Nat) (s : Chip) : (clearIline reason n s).ports = s.ports := by
  simp [clearIline, ports_foldl]

@[simp] theorem clearEline_ports (reason n : Nat) (s : Chip) : (clearEline reason n s).ports = s.ports := by
  simp [clearEline, ports_foldl]

@[simp] theorem clearJn_ports (h : Nat) (s : Chip) : (clearJn h s).ports = s.ports := by simp [clearJn, ports_foldl]

@[simp] theorem stompTx_ports (t : TxCopy) (s : Chip) : (stompTx t s).ports = s.ports := by simp [stompTx]

@[simp] theorem emptyChannels_ports (q : Nat) (s : Chip) : (emptyChannels q s).ports = s.ports := by
  exact ports_foldl _ _ fun _ _ => modChan_ports ..

@[simp] theorem clearYard_ports (y : Nat) (s : Chip) : (clearYard y s).ports = s.ports := by
  simp [clearYard, ports_foldl, apply_ite Chip.ports]

@[simp] theorem dropAllFrames_ports (s : Chip) : (dropAllFrames s).ports = s.ports := by
  simp [dropAllFrames, ports_foldl, apply_ite Chip.ports]

@[simp] theorem startHold_ports (src own : Nat) (s : Chip) : (startHold src own s).ports = s.ports := by
  simp [startHold, apply_ite Chip.ports]

end Sys2Proof.Machine
end

section
/-!
PROOFS. The link of a port (R29, R126, R127, R132, R135, R137): what a change of its state leaves of every port's record, and the events
that cause one.
-/

namespace Sys2Proof.Machine

/-! Records of ports that an operation does not touch -/

theorem portOf_congr {s t : Chip} (h : t.ports.ports = s.ports.ports) : portOf t = portOf s := by
  funext p; unfold portOf; rw [h]

theorem portOf_of_ports {s t : Chip} (h : t.ports = s.ports) : portOf t = portOf s := portOf_congr (by rw [h])

@[simp] theorem portOf_emit (o : Output) (s : Chip) : portOf (emit o s) = portOf s := rfl
@[simp] theorem portOf_recclkHold (f : Nat → Bool) (s : Chip) : portOf (recclkHold f s) = portOf s := rfl
@[simp] theorem portOf_recclkResume (f : Nat → Bool) (s : Chip) : portOf (recclkResume f s) = portOf s := rfl
@[simp] theorem portOf_regroupPort (p : Nat) (s : Chip) : portOf (regroupPort p s) = portOf s := rfl
@[simp] theorem portOf_modLane (l : Nat) (f : LaneSt → LaneSt) (s : Chip) : portOf (modLane l f s) = portOf s := rfl
@[simp] theorem portOf_cutTx (p : Nat) (s : Chip) : portOf (cutTx p s) = portOf s := portOf_of_ports (cutTx_ports ..)
@[simp] theorem portOf_cutRx (p : Nat) (s : Chip) : portOf (cutRx p s) = portOf s := portOf_of_ports (cutRx_ports ..)
@[simp] theorem portOf_account (s : Chip) : portOf (account s) = portOf s := portOf_of_ports (account_ports ..)

/-! A port takes a new state -/

/-- The states a port goes down from (R138). -/
def PortState.alive (x : PortState) : Bool := x = .up || x = .quiet || x = .waking

/-- The record of a port that has taken a new state: going down is counted (R138). -/
def Port.goTo (st : PortState) (v : Port) : Port :=
  { v with st := st, downCount := if v.st.alive && !st.alive then satAdd 0xFFFF v.downCount 1 else v.downCount }

/-- The record of a port that has reached UP (R137, R150). -/
def Port.reachUp (now : Nat) (v : Port) : Port :=
  { v with st := .up, backoff := 0, failRaised := false, afterFail := false, remoteFault := false, skewRaised := false
           standbyLost := false, upSince := now }

/-- A port's record in its new state, Remote Fault sent on entry to FAULT (R135), and its recovered clocks held where it leaves UP (R147): what
`portTo` does first. -/
def portMoved (p : Nat) (v : Port) (st : PortState) (s : Chip) : Chip :=
  let s := setPort p (some { v with st := st }) s
  let s := if st = .fault && v.st ≠ .fault then emit (.remoteFault p) s else s
  if v.st = .up && st ≠ .up then recclkHold (inPort s p) s else s

theorem portTo_eq {s : Chip} {p : Nat} {v : Port} (hv : portOf s p = some v) (st : PortState) :
    portTo p st s =
      if v.st.alive && !st.alive then
        account (regroupPort p (cutRx p (cutTx p
          (modPort p (fun v => { v with downCount := satAdd 0xFFFF v.downCount 1 }) (portMoved p v st s)))))
      else if v.st = .up && st ≠ .up then cutTx p (portMoved p v st s) else portMoved p v st s := by
  unfold portTo
  rw [hv]
  rfl

theorem portOf_portMoved (p k : Nat) (v : Port) (st : PortState) (s : Chip) :
    portOf (portMoved p v st s) k = if k = p then some { v with st := st } else portOf s k := by
  simp only [portMoved, apply_ite (fun t => portOf t k), portOf_recclkHold, portOf_emit, portOf_setPort, ite_self]

theorem portOf_portTo (p k : Nat) (st : PortState) (s : Chip) :
    portOf (portTo p st s) k = if k = p then (portOf s p).map (Port.goTo st) else portOf s k := by
  cases hv : portOf s p with
  | none => by_cases hk : k = p <;> simp [portTo, hk, hv]
  | some v =>
    rw [portTo_eq hv, Option.map_some, Port.goTo]
    by_cases hdown : (v.st.alive && !st.alive) = true
    · simp only [if_pos hdown, portOf_account, portOf_regroupPort, portOf_cutRx, portOf_cutTx, portOf_modPort, portOf_portMoved, if_true,
        Option.map_some]
      by_cases hk : k = p <;> simp only [hk, if_true, if_false]
    · simp only [if_neg hdown, apply_ite (fun t => portOf t k), portOf_cutTx, portOf_portMoved, ite_self]

theorem portOf_portToUp (p k : Nat) (s : Chip) :
    portOf (portToUp p s) k = if k = p then (portOf s p).map (Port.reachUp (runNs s)) else portOf s k := by
  simp only [portToUp, portOf_regroupPort, portOf_recclkResume, portOf_modPort]
  rfl

/-- A change of state that neither starts from UP, nor goes down, nor signals a fault changes the port's state alone. -/
theorem portTo_eq_setPort {s : Chip} {p : Nat} {v : Port} {st : PortState} (hv : portOf s p = some v) (hup : v.st ≠ .up)
    (halive : v.st.alive = true → st.alive = true) (hst : st ≠ .fault) : portTo p st s = setPort p (some { v with st := st }) s := by
  have hdown : ¬ (v.st.alive && !st.alive) = true := by
    rw [Bool.and_eq_true, Bool.not_eq_true']
    exact fun ⟨hwas, his⟩ => Bool.noConfusion (his.symm.trans (halive hwas))
  rw [portTo_eq hv, if_neg hdown, if_neg (by simp [hup]), portMoved, if_neg (by simp [hup]), if_neg (by simp [hst])]

/-! The events of a port -/

theorem onPort_eq {s : Chip} {p : Nat} {v : Port} (hv : portOf s p = some v) (ha : Answers s (.platform (platformOf p)))
    {st : Port → Bool} (hst : st v = true) (f : Port → Chip → Chip) : onPort p st f s = f v s := by
  obtain ⟨hdead, hfence, hon⟩ := ha
  simp [onPort, hv, hst, hdead, hfence, hon]

/-- A change of a port is made on a configured port in the right state, or not at all. -/
theorem onPort_cases (p : Nat) (st : Port → Bool) (f : Port → Chip → Chip) (s : Chip) :
    onPort p st f s = s ∨ ∃ v, portOf s p = some v ∧ st v = true ∧ onPort p st f s = f v s := by
  unfold onPort
  split
  · exact .inl rfl
  case h_2 v hv =>
    split
    case isTrue hc =>
      simp only [Bool.and_eq_true] at hc
      obtain ⟨⟨⟨hst, -⟩, -⟩, -⟩ := hc
      exact .inr ⟨v, hv, hst, rfl⟩
    case isFalse => exact .inl rfl

/-- An event of a configured port in the right state whose Platform answers has its effect. -/
theorem becomes_onPort {c : Instr} {s : State} {p : Nat} {v : Port} {b : Bool} {st : Chip → Port → Bool} {f : Port → Chip → Chip}
    (hc : exec c s = onUnit b s fun u => onPort p (st u) f u) (hb : b = true) (hv : portOf s.chip p = some v)
    (ha : Answers s.chip (.platform (platformOf p))) (hst : st s.chip v = true) : Becomes c s (f v s.chip) := by
  rw [Becomes, hc, onUnit_next hb, onPort_eq hv ha hst]

/-! Negotiation and training -/

theorem setLive_setShadow_changes (ca : Nat) (v : Word) (s : Chip) :
    ∃ l h, setShadow ca v (setLive ca v s) = { s with live := l, shadow := h } := ⟨_, _, rfl⟩

/-- Following a rate writes words of recovered clocks alone. -/
theorem recclkFollow_changes (p old new : Nat) (s : Chip) : ∃ l h, recclkFollow p old new s = { s with live := l, shadow := h } := by
  unfold recclkFollow
  refine List.foldlRecOn (motive := fun (t : Chip) => ∃ l h, t = { s with live := l, shadow := h }) _ _ ⟨s.live, s.shadow, rfl⟩ ?_
  rintro _ ⟨l, h, rfl⟩ k _
  dsimp only
  split
  · obtain ⟨l', h', e⟩ := setLive_setShadow_changes (recclkWord k) (packW [(31, 1, 1), (20, 11, recclkDiv new), (0, 9, p)])
      { s with live := l, shadow := h }
    exact ⟨l', h', e⟩
  · exact ⟨l, h, rfl⟩

/-- A lane is locked and has its signal. -/
def LaneLocked (s : Chip) (l : Nat) : Prop := (laneOf s l).lock = true ∧ (laneOf s l).los = false

@[simp] theorem portOf_adaptLane (l : Nat) (s : Chip) : portOf (adaptLane l s) = portOf s := by
  unfold adaptLane; split <;> rfl

@[simp] theorem portOf_lockLane (trained : Bool) (l : Nat) (s : Chip) : portOf (lockLane trained l s) = portOf s := by
  cases trained <;> exact portOf_adaptLane ..

/-- Adaptation moves taps alone. -/
theorem laneLocked_adaptLane (l k : Nat) (s : Chip) : LaneLocked (adaptLane l s) k ↔ LaneLocked s k := by
  unfold adaptLane
  split
  · rfl
  · by_cases hk : k = l
    · subst hk; simp [LaneLocked, laneOf, modLane, sget_smod]
    · simp [LaneLocked, laneOf, modLane, sget_smod, hk]

/-- A lane that locks is locked, and lanes that were stay so. -/
theorem laneLocked_lockLane (trained : Bool) {l k : Nat} {s : Chip} (h : k = l ∨ LaneLocked s k) :
    LaneLocked (lockLane trained l s) k := by
  unfold lockLane
  rw [laneLocked_adaptLane, LaneLocked, laneOf_modLane]
  by_cases hk : k = l
  · simp only [hk, if_true, and_self]
  · rw [if_neg hk]
    cases trained <;> exact h.resolve_left hk

def lockLanes (trained : Bool) (ls : List Nat) (s : Chip) : Chip := ls.foldl (fun s l => lockLane trained l s) s

theorem portOf_lockLanes (trained : Bool) (ls : List Nat) (s : Chip) : portOf (lockLanes trained ls s) = portOf s := by
  induction ls generalizing s with
  | nil => rfl
  | cons l ls ih => exact (ih _).trans (portOf_lockLane ..)

theorem laneLocked_lockLanes (trained : Bool) {ls : List Nat} {k : Nat} {s : Chip} (h : k ∈ ls ∨ LaneLocked s k) :
    LaneLocked (lockLanes trained ls s) k := by
  induction ls generalizing s with
  | nil => exact h.resolve_left (List.not_mem_nil)
  | cons l ls ih =>
    refine ih ?_
    by_cases hk : k ∈ ls
    · exact .inl hk
    · exact .inr (laneLocked_lockLane trained (h.imp_left fun hm => (List.mem_cons.1 hm).resolve_right hk))

/-! One port moves, the others stay -/

/-- Every other port's record is as before. -/
abbrev OthersKeep (p : Nat) (s t : Chip) : Prop := ∀ q, q ≠ p → portOf t q = portOf s q

/-- The record of port `p` becomes `u`, and every other port's is as before. -/
abbrev PortBecomes (p : Nat) (u : Port) (s t : Chip) : Prop := portOf t p = some u ∧ OthersKeep p s t

section
variable {s : Chip} {p : Nat} {v : Port} (hv : portOf s p = some v)
include hv

theorem portBecomes_portTo (st : PortState) : PortBecomes p (v.goTo st) s (portTo p st s) :=
  ⟨by rw [portOf_portTo, if_pos rfl, hv, Option.map_some], fun q hq => by rw [portOf_portTo, if_neg hq]⟩

theorem portBecomes_portToUp : PortBecomes p (v.reachUp (runNs s)) s (portToUp p s) :=
  ⟨by rw [portOf_portToUp, if_pos rfl, hv, Option.map_some], fun q hq => by rw [portOf_portToUp, if_neg hq]⟩

theorem portBecomes_modPort (f : Port → Port) : PortBecomes p (f v) s (modPort p f s) :=
  ⟨by rw [portOf_modPort, if_pos rfl, hv, Option.map_some], fun q hq => by rw [portOf_modPort, if_neg hq]⟩

end

theorem PortBecomes.trans {p : Nat} {u w : Port} {s t x : Chip} (h : PortBecomes p u s t) (h' : PortBecomes p w t x) :
    PortBecomes p w s x := ⟨h'.1, fun q hq => (h'.2 q hq).trans (h.2 q hq)⟩

/-- An operation that touches no record of a port comes before a change of one. -/
theorem PortBecomes.of_portOf_eq {p : Nat} {u : Port} {s t x : Chip} (h : portOf t = portOf s) (h' : PortBecomes p u t x) :
    PortBecomes p u s x := ⟨h'.1, fun q hq => (h'.2 q hq).trans (congrFun h q)⟩

theorem satAdd_eq_min (m a b : Nat) : satAdd m a b = min m (a + b) := by unfold satAdd; split <;> omega

@[simp] theorem setPort_out (p : Nat) (v : Option Port) (s : Chip) : (setPort p v s).out = s.out := rfl

/-! The link state machine -/

/-- The record of a port that has agreed on mode `m` with its partner (R126, R127, R142). -/
def Port.agreeOn (m : Nat) (partner : Partner) (v : Port) : Port :=
  { v with
    inForce := m, fecInForce := decide (m = 0x02) && (v.rsFec || partner.rsFec), quietAgreed := v.quietOk && partnerQuiet partner }

/-- Going down counts once, up to the counter's bound (R138). -/
theorem goTo_downCount {v : Port} {st : PortState} (hwas : v.st.alive = true) (his : st.alive = false) :
    (v.goTo st).downCount = min 0xFFFF (v.downCount + 1) := by
  rw [Port.goTo, hwas, his]
  exact satAdd_eq_min ..

theorem align_of_within {p skew : Nat} {v : Port} {s : Chip} (h : skew ≤ 180 ∨ modeWidth v.inForce ≤ 1) :
    align p skew v s = portToUp p s := by
  rw [align, if_neg]
  simp only [Bool.and_eq_true, decide_eq_true_eq]
  omega

theorem align_of_beyond {p skew : Nat} {v : Port} {s : Chip} (h : 180 < skew) (hw : 1 < modeWidth v.inForce)
    (hr : v.skewRaised = false) :
    align p skew v s = raise (.platform (platformOf p)) (0x10 + laneIndex p) clsLane 2
      (modPort p (fun v => { v with skewRaised := true }) s) := by
  rw [align, if_pos (by simp [h, hw]), hr, if_neg (by decide)]

theorem anAgree_none {p : Nat} {partner : Partner} {v : Port} {s : Chip}
    (hm : highestMode (Nat.land v.advMask.toNat (partnerModes partner)) = none) :
    anAgree p partner v s = emit (.anPages p Config.efnusOui (ownPage v)) s := by
  unfold anAgree; rw [hm]

theorem anAgree_some {p m : Nat} {partner : Partner} {v : Port} {s : Chip}
    (hm : highestMode (Nat.land v.advMask.toNat (partnerModes partner)) = some m) :
    anAgree p partner v s = recclkFollow p v.inForce m
      (portTo p .training (modPort p (Port.agreeOn m partner) (emit (.anPages p Config.efnusOui (ownPage v)) s))) := by
  unfold anAgree; rw [hm]; rfl

section
variable {s : State} {p : Nat} {v : Port} (hp : p < 512) (hv : portOf s.chip p = some v)
  (ha : Answers s.chip (.platform (platformOf p)))
include hp hv ha

theorem becomes_anAgreement (hst : v.st = .an) (partner : Partner) :
    Becomes (.anAgreement p partner) s (anAgree p partner v s.chip) :=
  becomes_onPort (st := fun _ v => v.st = .an) rfl (decide_eq_true hp) hv ha (decide_eq_true hst)

/-- Negotiation ends in the highest common mode, and the port trains (R126, R127). -/
theorem anAgreement_trains (hst : v.st = .an) {partner : Partner} {m : Nat}
    (hm : highestMode (Nat.land v.advMask.toNat (partnerModes partner)) = some m) :
    ∃ t u, Becomes (.anAgreement p partner) s t ∧ portOf t p = some u ∧ u.st = .training ∧ u.inForce = m ∧
      u.quietAgreed = (v.quietOk && partnerQuiet partner) ∧ t.out = s.chip.out ++ [.anPages p Config.efnusOui (ownPage v)] ∧
      OthersKeep p s.chip t := by
  have hb := becomes_anAgreement hp hv ha hst partner
  rw [anAgree_some hm] at hb
  have hagreed : PortBecomes p (v.agreeOn m partner) s.chip
      (modPort p (Port.agreeOn m partner) (emit (.anPages p Config.efnusOui (ownPage v)) s.chip)) :=
    portBecomes_modPort (s := emit _ s.chip) hv _
  have htrains := hagreed.trans (portBecomes_portTo hagreed.1 .training)
  obtain ⟨l, h, hfollow⟩ := recclkFollow_changes p v.inForce m (portTo p .training
    (modPort p (Port.agreeOn m partner) (emit (.anPages p Config.efnusOui (ownPage v)) s.chip)))
  rw [hfollow] at hb
  refine ⟨_, _, hb, htrains.1, rfl, rfl, rfl, ?_, htrains.2⟩
  dsimp only
  rw [portTo_eq_setPort hagreed.1 (by simp [Port.agreeOn, hst]) (by simp [Port.agreeOn, hst, PortState.alive]) (by decide),
    setPort_out, modPort_out]
  rfl

/-- Without a common mode the port has sent its pages and stays (R127). -/
theorem anAgreement_stays (hst : v.st = .an) {partner : Partner}
    (hm : highestMode (Nat.land v.advMask.toNat (partnerModes partner)) = none) :
    Becomes (.anAgreement p partner) s { s.chip with out := s.chip.out ++ [.anPages p Config.efnusOui (ownPage v)] } := by
  have hb := becomes_anAgreement hp hv ha hst partner
  rwa [anAgree_none hm] at hb

/-- All lanes locked take the port to ALIGNING (R135). -/
theorem laneTrainingDone_aligns (hst : v.st = .training) :
    ∃ t u, Becomes (.laneTrainingDone p) s t ∧ portOf t p = some u ∧ u.st = .aligning ∧
      (∀ l ∈ portLanes p v, (laneOf t l).lock = true ∧ (laneOf t l).los = false) ∧ OthersKeep p s.chip t := by
  have hb : Becomes (.laneTrainingDone p) s (portTo p .aligning (lockLanes v.train (portLanes p v) s.chip)) :=
    becomes_onPort (st := fun _ v => v.st = .training) (f := fun v s => portTo p .aligning (lockLanes v.train (portLanes p v) s)) rfl
      (decide_eq_true hp) hv ha (decide_eq_true hst)
  have hlocked := portOf_lockLanes v.train (portLanes p v) s.chip
  have hv' := (congrFun hlocked p).trans hv
  have hto := portTo_eq_setPort (st := .aligning) hv' (by simp [hst]) (by simp [hst, PortState.alive]) (by decide)
  have haligns := PortBecomes.of_portOf_eq hlocked (portBecomes_portTo hv' .aligning)
  refine ⟨_, _, hb, haligns.1, rfl, fun l hl => ?_, haligns.2⟩
  rw [hto]
  exact laneLocked_lockLanes v.train (.inl hl)

/-- The end of a wait in BACKOFF starts the link again, or finds its Platform held (R137, R453). -/
theorem backoffExpiry_starts (hst : v.st = .backoff) (hw : backoffWait v.backoff ≤ elapsed s.chip v.backoffAt) :
    ∃ t u, Becomes (.backoffExpiry p) s t ∧ portOf t p = some u ∧
      u.st = (if platformHeld s.chip (platformOf p) then .fault else if v.an then .an else .training) ∧ OthersKeep p s.chip t := by
  have hb := becomes_onPort (c := .backoffExpiry p) (st := fun s v => v.st = .backoff && decide (backoffWait v.backoff ≤ elapsed s v.backoffAt))
    (f := fun v s => portTo p (startOrHeld s p v false) (modPort p (fun v => { v with afterFail := false }) s)) rfl
      (decide_eq_true hp) hv ha (by simp [hst, hw])
  have hmod := portBecomes_modPort hv fun v => { v with afterFail := false }
  have hstarts := hmod.trans (portBecomes_portTo hmod.1 (startOrHeld s.chip p v false))
  exact ⟨_, _, hb, hstarts.1, rfl, hstarts.2⟩

/-- Alignment is lost on a lane of a port in UP (R135, R138). -/
theorem alignmentLost_faults (hst : v.st = .up) {l : Nat} (hl : l ∈ portLanes p v) (hl' : l < 512) :
    ∃ t u, Becomes (.alignmentLost p l) s t ∧ portOf t p = some u ∧ u.st = .fault ∧
      u.downCount = min 0xFFFF (v.downCount + 1) ∧ OthersKeep p s.chip t := by
  have hb := becomes_onPort (c := .alignmentLost p l) (st := fun _ v => v.st = .up && (portLanes p v).contains l)
    (f := fun _ s => portTo p .fault s) rfl (by simp [hp, hl']) hv ha (by simp [hst, hl])
  have hfaults := portBecomes_portTo hv .fault
  exact ⟨_, _, hb, hfaults.1, rfl, by rw [goTo_downCount (by simp [hst, PortState.alive]) (by decide)], hfaults.2⟩

/-- Remote Fault takes a port in UP to REMOTE (R135, R138). -/
theorem remoteFaultReceived_goes (hst : v.st = .up) :
    ∃ t u, Becomes (.remoteFaultReceived p) s t ∧ portOf t p = some u ∧ u.st = .remote ∧ u.remoteFault = true ∧
      u.downCount = min 0xFFFF (v.downCount + 1) ∧ OthersKeep p s.chip t := by
  have hb := becomes_onPort (c := .remoteFaultReceived p) (st := fun _ v => v.st = .up)
    (f := fun _ s => portTo p .remote (modPort p (fun v => { v with remoteFault := true }) s)) rfl (decide_eq_true hp) hv ha
    (decide_eq_true hst)
  have hmod := portBecomes_modPort hv fun v => { v with remoteFault := true }
  have hgoes := hmod.trans (portBecomes_portTo hmod.1 .remote)
  exact ⟨_, _, hb, hgoes.1, rfl, rfl, by rw [goTo_downCount (by simp [hst, PortState.alive]) (by decide)], hgoes.2⟩

/-- The end of Remote Fault takes the port back to UP (R135). -/
theorem remoteFaultCleared_returns (hst : v.st = .remote) :
    ∃ t u, Becomes (.remoteFaultCleared p) s t ∧ portOf t p = some u ∧ u.st = .up ∧ u.remoteFault = false ∧
      u.downCount = v.downCount ∧ OthersKeep p s.chip t := by
  have hb := becomes_onPort (c := .remoteFaultCleared p) (st := fun _ v => v.st = .remote)
    (f := fun _ s => portToUp p s) rfl (decide_eq_true hp) hv ha (decide_eq_true hst)
  have hup := portBecomes_portToUp hv
  exact ⟨_, _, hb, hup.1, rfl, rfl, rfl, hup.2⟩

/-- Alignment that is found within the bound takes the port to UP (R132, R135). -/
theorem portAligned_up (hst : v.st = .aligning) {skew : Nat} (h : skew ≤ 180 ∨ modeWidth v.inForce ≤ 1) :
    ∃ t u, Becomes (.portAligned p skew) s t ∧ portOf t p = some u ∧ u.st = .up ∧ u.backoff = 0 ∧ OthersKeep p s.chip t := by
  have hb := becomes_onPort (c := .portAligned p skew) (st := fun _ v => v.st = .aligning) (f := align p skew) rfl (decide_eq_true hp)
    hv ha (decide_eq_true hst)
  rw [align_of_within h] at hb
  have hup := portBecomes_portToUp hv
  exact ⟨_, _, hb, hup.1, rfl, rfl, hup.2⟩

/-- A retry that finds the skew within the bound does too, and ends the occurrence of the fault (R132). -/
theorem skewRetry_up (hst : v.st = .aligning) (hr : v.skewRaised = true) {skew : Nat} (h : skew ≤ 180) :
    ∃ t u, Becomes (.skewRetry p skew) s t ∧ portOf t p = some u ∧ u.st = .up ∧ u.skewRaised = false ∧ OthersKeep p s.chip t := by
  have hb := becomes_onPort (c := .skewRetry p skew) (st := fun _ v => v.st = .aligning && v.skewRaised) (f := align p skew) rfl
    (decide_eq_true hp) hv ha (by simp [hst, hr])
  rw [align_of_within (.inl h)] at hb
  have hup := portBecomes_portToUp hv
  exact ⟨_, _, hb, hup.1, rfl, rfl, hup.2⟩

/-- A larger skew over several lanes raises its fault once (R132). -/
theorem portAligned_raises (hst : v.st = .aligning) (hr : v.skewRaised = false) {skew : Nat} (h : 180 < skew)
    (hw : 1 < modeWidth v.inForce) :
    Becomes (.portAligned p skew) s (raise (.platform (platformOf p)) (0x10 + laneIndex p) clsLane 2
      (modPort p (fun v => { v with skewRaised := true }) s.chip)) := by
  have hb := becomes_onPort (c := .portAligned p skew) (st := fun _ v => v.st = .aligning) (f := align p skew) rfl (decide_eq_true hp)
    hv ha (decide_eq_true hst)
  rwa [align_of_beyond h hw hr] at hb

end

/-- Settles O21: one lemma for each event of the link, on the records that `portTo` and `portToUp` leave. -/
theorem portLinkStates : Obligations.PortLinkStates := by
  unfold Obligations.PortLinkStates
  intro s p v hp hv ha others
  exact ⟨fun hst _ => ⟨fun _ hm => anAgreement_trains hp hv ha hst hm, fun hm => anAgreement_stays hp hv ha hst hm⟩,
    fun hst => laneTrainingDone_aligns hp hv ha hst,
    fun hst hw => backoffExpiry_starts hp hv ha hst hw,
    fun hst _ h => portAligned_up hp hv ha hst h,
    fun hst hr _ h => skewRetry_up hp hv ha hst hr h,
    fun hst hr _ h hw => portAligned_raises hp hv ha hst hr h hw,
    fun hst _ hl hl' => alignmentLost_faults hp hv ha hst hl hl',
    fun hst => remoteFaultReceived_goes hp hv ha hst,
    fun hst => remoteFaultCleared_returns hp hv ha hst⟩

end Sys2Proof.Machine
end

section
/-!
PROOFS. The port Orders (R139, R141, R144, R149, R152): how an Order at work ends, what of a port's configuration outlasts the rest of a
`PORT_SET`, and the results of `PORT_STATE` and `FAILOVER_SET`.
-/

namespace Sys2Proof.Machine

/-! Orders that end at once -/

/-- An Order at work whose domains are on ends with what its effect answers. -/
theorem ends_of_effect {c : Instr} {s : State} {ring : Nat} {needs : Chip → List Nat} {eff : Chip → Status × DWord × Chip}
    (hc : exec c s = onUnit (decide (ring < 64)) s fun u => endOrder ring c needs eff u) (h : AtWork s ring c) (hn : needs s.chip = [])
    {st : Status} {res : DWord} {t : Chip} (he : eff s.chip = (st, res, t)) : Ends c s ring st res t := by
  rw [Ends, Becomes, hc, onUnit_next (decide_eq_true h.1), endOrder_atWork h needs eff hn, he]

/-! Commits and plans leave every port's record -/

theorem portOf_foldl {α : Type} {f : Chip → α → Chip} (l : List α) (s : Chip) (h : ∀ s a, portOf (f s a) = portOf s) :
    portOf (l.foldl f s) = portOf s := by
  induction l generalizing s with
  | nil => rfl
  | cons a l ih => exact (ih _).trans (h s a)

theorem portOf_recclkUpdate (s : Chip) : portOf (recclkUpdate s) = portOf s := rfl

theorem ppsHold_ports (s : Chip) : (ppsHold s).ports = s.ports := ports_foldl _ _ fun _ _ => rfl

theorem portOf_afterCommit (i : Isl) (s : Chip) : portOf (afterCommit i s) = portOf s := by
  unfold afterCommit
  split
  · dsimp only
    split
    · exact portOf_of_ports ((rebuildMap_ports ..).trans (modQuarry_ports ..))
    · rfl
  · exact (portOf_of_ports (ppsHold_ports _)).trans (portOf_recclkUpdate s)
  · rfl

theorem portOf_commitIsl (i : Isl) (s : Chip) : portOf (commitIsl i s).2 = portOf s := by
  unfold commitIsl
  refine (portOf_afterCommit ..).trans ?_
  refine List.foldlRecOn (motive := fun (r : Nat × Chip) => portOf r.2 = portOf s) _ _ rfl fun r hr x _ => ?_
  exact (portOf_of_ports ((setShadow_ports ..).trans (setLive_ports ..))).trans hr

theorem portOf_withLive (m : Sparse Word) (s : Chip) : portOf { s with live := m } = portOf s := rfl

theorem portOf_planYard (gs : List PlanGroup) (qs : List Nat) (y : Nat) (s : Chip) : portOf (planYard gs qs y s) = portOf s := by
  unfold planYard
  dsimp only
  split
  · rfl
  · rw [portOf_withLive, portOf_of_ports (modYard_ports ..), portOf_commitIsl]
    rfl

theorem portOf_derivePlan (s : Chip) : portOf (derivePlan s) = portOf s := portOf_foldl _ _ fun _ _ => portOf_planYard ..

theorem portOf_deriveWord (i : Isl) (off : Nat) (w : Word) (s : Chip) : portOf (deriveWord i off w s) = portOf s :=
  portOf_of_ports (deriveWord_ports ..)

theorem portOf_setRecclk (f : Nat → Word → Word) (s : Chip) : portOf (setRecclk f s) = portOf s := by
  unfold setRecclk
  dsimp only
  split
  · rfl
  · rw [portOf_commitIsl, portOf_deriveWord, portOf_deriveWord]

/-! Lanes, queues and words of a port that is set or removed -/

theorem setFreeze_ports (l : Nat) (b : Bool) (s : Chip) : (setFreeze l b s).ports = s.ports := by
  unfold setFreeze
  dsimp only
  split
  · rfl
  · exact (setShadow_ports ..).trans (setLive_ports ..)

theorem portOf_presetLanes (p mode : Nat) (drop : Bool) (s : Chip) : portOf (presetLanes p mode drop s) = portOf s :=
  portOf_foldl _ _ fun _ _ => (portOf_of_ports (setFreeze_ports ..)).trans (portOf_modLane ..)

theorem portOf_giveUpLanes (ls : List Nat) (s : Chip) : portOf (giveUpLanes ls s) = portOf s :=
  portOf_foldl _ _ fun _ _ => (portOf_of_ports (setFreeze_ports ..)).trans (portOf_modLane ..)

theorem portOf_resetPortQueues (p : Nat) (s : Chip) : portOf (resetPortQueues p s) = portOf s := by
  unfold resetPortQueues
  dsimp only
  split <;> rfl

theorem portOf_resetPortWords (p : Nat) (s : Chip) : portOf (resetPortWords p s) = portOf s := by
  unfold resetPortWords
  exact (portOf_foldl _ _ fun _ _ => portOf_deriveWord ..).trans (portOf_deriveWord ..)

theorem portOf_disableSecy (p : Nat) (s : Chip) : portOf (disableSecy p s) = portOf s := rfl

/-! The settings of a port -/

/-- What a port is configured to, whatever its link does: its record without the state of its link and the count of its losses. -/
def Port.settings (v : Port) : Port := { v with st := .adminDown, downCount := 0 }

def settingsOf (s : Chip) (p : Nat) : Option Port := (portOf s p).map Port.settings

theorem settingsOf_of_portOf {s t : Chip} (h : portOf t = portOf s) : settingsOf t = settingsOf s := by unfold settingsOf; rw [h]

theorem settingsOf_of_ports {s t : Chip} (h : t.ports = s.ports) : settingsOf t = settingsOf s := settingsOf_of_portOf (portOf_of_ports h)

theorem settingsOf_foldl {α : Type} {f : Chip → α → Chip} (l : List α) (s : Chip) (h : ∀ s a, settingsOf (f s a) = settingsOf s) :
    settingsOf (l.foldl f s) = settingsOf s := by
  induction l generalizing s with
  | nil => rfl
  | cons a l ih => exact (ih _).trans (h s a)

/-- A change of a link's state leaves the settings of every port. -/
theorem settingsOf_portTo (p : Nat) (st : PortState) (s : Chip) : settingsOf (portTo p st s) = settingsOf s := by
  funext k
  unfold settingsOf
  rw [portOf_portTo]
  by_cases hk : k = p
  · rw [if_pos hk, hk]
    cases portOf s p <;> rfl
  · rw [if_neg hk]

theorem settingsOf_wakePort (p : Nat) (s : Chip) : settingsOf (wakePort p s) = settingsOf s := by
  unfold wakePort
  obtain h | ⟨v, -, -, h⟩ := onPort_cases p (fun v => v.st = .quiet) (fun _ s => portTo p .waking (emit (.quiet p 3) s)) s
  · rw [h]
  · rw [h]; exact settingsOf_portTo ..

/-! A hold of ports (R453), and what a Yard's fault does -/

theorem settingsOf_holdPorts (k : Nat) (s : Chip) : settingsOf (holdPorts k s) = settingsOf s := by
  refine settingsOf_foldl _ _ fun s p => ?_
  split
  · rfl
  · split
    · rfl
    · exact settingsOf_portTo ..

theorem settingsOf_unholdPorts (k : Nat) (s : Chip) : settingsOf (unholdPorts k s) = settingsOf s := by
  unfold unholdPorts
  split
  · rfl
  · refine settingsOf_foldl _ _ fun s p => ?_
    split
    · rfl
    · simp only [apply_ite settingsOf, settingsOf_portTo, ite_self]

theorem settingsOf_rehold (s0 s : Chip) : settingsOf (rehold s0 s) = settingsOf s :=
  settingsOf_foldl _ _ fun s k => by
    simp only [apply_ite settingsOf, settingsOf_holdPorts, settingsOf_unholdPorts, ite_self]

theorem settingsOf_fenceYard (y cause : Nat) (s : Chip) : settingsOf (fenceIsland (.yard y) cause s) = settingsOf s := by
  unfold fenceIsland
  split
  · rfl
  · exact (settingsOf_rehold ..).trans (settingsOf_of_ports ((clearYard_ports ..).trans (setFence_ports ..)))

theorem settingsOf_fenceFor_yard (y loc : Nat) (s : Chip) : settingsOf (fenceFor (.yard y) loc s) = settingsOf s := by
  simp only [fenceFor, apply_ite settingsOf, settingsOf_fenceYard, ite_self]

theorem settingsOf_withFaults (f : FaultSt) (s : Chip) : settingsOf { s with faults := f } = settingsOf s := rfl

theorem settingsOf_account (s : Chip) : settingsOf (account s) = settingsOf s := settingsOf_of_ports (account_ports s)

/-- A fault of a Yard may take ports down by its fence, and leaves their settings. -/
theorem settingsOf_raise_yard (y loc cls sev : Nat) (s : Chip) : settingsOf (raise (.yard y) loc cls sev s) = settingsOf s := by
  have hcab (i : Isl) (f : CabSt → CabSt) (s : Chip) : settingsOf (modCab i f s) = settingsOf s := settingsOf_of_ports (modCab_ports ..)
  have herr (s : Chip) : settingsOf (errUpdate s) = settingsOf s := settingsOf_of_ports (errUpdate_ports ..)
  have hmsix (v : Nat) (s : Chip) : settingsOf (msix v s) = settingsOf s := settingsOf_of_ports (msix_ports ..)
  have hbump (i : Isl) (off lo w n : Nat) (s : Chip) : settingsOf (bumpField i off lo w n s) = settingsOf s :=
    settingsOf_of_ports (bumpField_ports ..)
  have hhold (src own : Nat) (s : Chip) : settingsOf (startHold src own s) = settingsOf s := settingsOf_of_ports (startHold_ports ..)
  simp only [raise, raiseIn, apply_ite settingsOf, settingsOf_fenceFor_yard, settingsOf_account, settingsOf_withFaults, hcab, herr, hmsix,
    hbump, hhold, ite_self]

theorem settingsOf_retireLimit (s : Chip) : settingsOf (retireLimit s) = settingsOf s :=
  settingsOf_foldl _ _ fun s y => by simp only [apply_ite settingsOf, settingsOf_raise_yard, ite_self]

/-- What follows from the accounts leaves the settings of every port. -/
theorem settingsOf_settle (s : Chip) : settingsOf (settle s) = settingsOf s :=
  (settingsOf_account _).trans (settingsOf_retireLimit s)

/-! `PORT_SET` (R139) -/

/-- MODE 0 removes the port. -/
theorem portOf_portRemove (p : Nat) (s : Chip) : portOf (portRemove p s) p = none := by
  unfold portRemove
  dsimp only
  have hnone {s t : Chip} (h : settingsOf t = settingsOf s) (hs : portOf s p = none) : portOf t p = none := by
    have hp := congrFun h p
    rwa [settingsOf, settingsOf, hs, Option.map_none, Option.map_eq_none_iff] at hp
  refine hnone (settingsOf_settle _) ?_
  rw [portOf_derivePlan, portOf_commitIsl, portOf_setPort, if_pos rfl]

/-- A port stands configured with an Order's fields. -/
def ConfiguredBy (o : PortSetOps) (s : Chip) : Prop :=
  ∃ u, portOf s o.port = some u ∧ u.mode = o.mode ∧ u.an = o.an ∧ u.maxFrame = o.maxFrame ∧
    u.pfcEn = o.pfcEn.toNat ∧ u.advMask = o.advMask ∧ u.quietOk = o.quietOk

/-- It rests on the settings of the port alone. -/
theorem ConfiguredBy.congr {o : PortSetOps} {s t : Chip} (h : settingsOf t = settingsOf s) (hs : ConfiguredBy o s) :
    ConfiguredBy o t := by
  obtain ⟨u, hu, hmode, han, hframe, hpfc, hadv, hquiet⟩ := hs
  have hp := congrFun h o.port
  rw [settingsOf, settingsOf, hu, Option.map_some] at hp
  obtain ⟨w, hw, hwu⟩ := Option.map_eq_some_iff.1 hp
  exact ⟨w, hw, (congrArg Port.mode hwu).trans hmode, (congrArg Port.an hwu).trans han, (congrArg Port.maxFrame hwu).trans hframe,
    (congrArg Port.pfcEn hwu).trans hpfc, (congrArg Port.advMask hwu).trans hadv, (congrArg Port.quietOk hwu).trans hquiet⟩

theorem ConfiguredBy.congr_portOf {o : PortSetOps} {s t : Chip} (h : portOf t = portOf s) (hs : ConfiguredBy o s) : ConfiguredBy o t :=
  hs.congr (settingsOf_of_portOf h)

/-- The record that a new or restarted link starts from has the Order's fields. -/
theorem configuredBy_newPort (o : PortSetOps) (st : PortState) (old : Option Port) (n : Nat) (s : Chip) :
    ConfiguredBy o (setPort o.port (some { newPort o st old with downCount := n }) s) := by
  refine ⟨_, by rw [portOf_setPort, if_pos rfl], ?_⟩
  cases old <;> exact ⟨rfl, rfl, rfl, rfl, rfl, rfl⟩

/-- A port whose link starts takes a new record with the Order's fields; one whose link stays up has its MODE and AN already, and takes the
rest (R139). -/
theorem configuredBy_portConfigure (o : PortSetOps) (s : Chip) : ConfiguredBy o (portConfigure o s) := by
  unfold portConfigure
  extract_lets p old restart plan reset plain given lanes fresh down record started changed moved mode clocked committed
  have hreset : portOf reset = portOf s := by
    unfold reset
    split
    · exact (portOf_resetPortWords ..).trans (portOf_resetPortQueues ..)
    · rfl
  have hlanes : portOf lanes = portOf s := by
    refine (portOf_presetLanes ..).trans ?_
    unfold given plain
    cases old with
    | none => exact hreset
    | some v =>
      refine (portOf_giveUpLanes ..).trans ?_
      dsimp only
      split
      · exact (portOf_disableSecy ..).trans hreset
      · exact hreset
  have hmoved : ConfiguredBy o moved := by
    unfold moved
    by_cases hr : restart = true
    · rw [if_pos hr]
      exact (configuredBy_newPort o .adminDown old _ down).congr (settingsOf_portTo ..)
    · rw [if_neg hr]
      have hchanged : ConfiguredBy o changed := by
        cases hold : old with
        | none => exact absurd (by unfold restart; rw [hold]) hr
        | some v =>
          have hv : portOf lanes p = some v := (congrFun hlanes p).trans hold
          obtain ⟨hmode, han⟩ : v.mode = o.mode ∧ v.an = o.an := by
            simp only [restart, hold, Bool.or_eq_true, not_or, decide_eq_true_eq, ne_eq, Decidable.not_not] at hr
            obtain ⟨⟨⟨⟨hmode, han⟩, -⟩, -⟩, -⟩ := hr
            exact ⟨hmode, han⟩
          exact ⟨_, (portBecomes_modPort hv _).1, hmode, han, rfl, rfl, rfl, rfl⟩
      split
      · exact hchanged.congr (settingsOf_wakePort ..)
      · exact hchanged
  have hcommitted : ConfiguredBy o committed :=
    hmoved.congr_portOf ((portOf_commitIsl ..).trans (portOf_setRecclk ..))
  refine ConfiguredBy.congr (settingsOf_settle _) (ConfiguredBy.congr_portOf (portOf_recclkUpdate _) ?_)
  split
  · exact hcommitted.congr_portOf (portOf_derivePlan _)
  · exact hcommitted

theorem portSet_of_check {o : PortSetOps} {s : Chip} (hm : o.mgmt = false) (h : portSetCheck o s = none) :
    portSet o s = (.ok, 0, if o.mode = 0 then portRemove o.port s else portConfigure o s) := by
  simp only [portSet, hm, Bool.false_eq_true, if_false, h]

theorem portSet_of_fenced {o : PortSetOps} {s : Chip} (hm : o.mgmt = false) (h : portSetCheck o s = some .fenced) :
    portSet o s = (.fenced, 0, countFencedReq (.platform (platformOf o.port)) s) := by
  simp only [portSet, hm, Bool.false_eq_true, if_false, h]

theorem portSet_of_refused {o : PortSetOps} {s : Chip} {e : Status} (hm : o.mgmt = false) (h : portSetCheck o s = some e)
    (he : e ≠ .fenced) : portSet o s = (e, 0, s) := by
  simp only [portSet, hm, Bool.false_eq_true, if_false, h]

theorem portSet_of_mgmtCheck {o : PortSetOps} {s : Chip} (hm : o.mgmt = true) (h : mgmtSetCheck o s = none) :
    portSet o s = (.ok, 0, mgmtConfigure o s) := by
  simp only [portSet, hm, if_true, h]

section
variable {s : State} {ring : Nat} {o : PortSetOps} (h : AtWork s ring (.portSet ring o)) (hn : portNeeds o s.chip = [])
include h hn

theorem portSet_ends {st : Status} {res : DWord} {t : Chip} (he : portSet o s.chip = (st, res, t)) :
    Ends (.portSet ring o) s ring st res t := ends_of_effect rfl h hn he

/-- A `PORT_SET` of a switch port that passes its checks removes the port or configures it. -/
theorem portSet_ends_ok (hm : o.mgmt = false) (hchk : portSetCheck o s.chip = none) :
    ∃ t, Ends (.portSet ring o) s ring .ok 0 t ∧ (o.mode = 0 → portOf t o.port = none) ∧ (o.mode ≠ 0 → ConfiguredBy o t) := by
  refine ⟨_, portSet_ends h hn (portSet_of_check hm hchk), fun h0 => ?_, fun h0 => ?_⟩
  · rw [if_pos h0]; exact portOf_portRemove ..
  · rw [if_neg h0]; exact configuredBy_portConfigure ..

end

/-- A management lane needs no domain. -/
theorem portNeeds_mgmt {o : PortSetOps} (hm : o.mgmt = true) (s : Chip) : portNeeds o s = [] := by
  rw [portNeeds, if_pos (by simp [hm])]

theorem mgmtConfigure_remove {o : PortSetOps} (h : o.mode = 0) (s : Chip) : mgmtConfigure o s = setMgmt o.port none s := by
  rw [mgmtConfigure, if_pos h]

theorem mgmtConfigure_set {o : PortSetOps} (h : o.mode ≠ 0) (s : Chip) : ∃ downs, mgmtConfigure o s = setMgmt o.port (some
    { mode := o.mode, an := o.an, adminDown := o.adminDown, maxFrame := o.maxFrame, rxq := o.mgRxq, txq := o.mgTxq
      st := if o.adminDown then .adminDown else .up, los := o.adminDown, lock := !o.adminDown, downCount := downs }) s :=
  ⟨_, if_neg h⟩

/-! `PORT_STATE` (R141) -/

section
variable {s : State} {ring : Nat} {o : PortStateOps} (h : AtWork s ring (.portState ring o))
include h

theorem portState_ends_mgmt {g : Mgmt} (hm : o.mgmt = true) (hp : o.port < 4) (hg : mgmtOf s.chip o.port = some g)
    (hf : isFenced s.chip .mg = false) : Ends (.portState ring o) s ring .ok (mgmtResult g) s.chip := by
  refine ends_of_effect rfl h (by simp [hm]) ?_
  simp only [portStateOrder, hm, if_true, show ¬ 3 < o.port by omega, if_false, hg, unlessFenced, hf, Bool.false_eq_true]

theorem portState_ends_port {v : Port} (hm : o.mgmt = false) (hp : o.port < 512) (hv : portOf s.chip o.port = some v)
    (ha : Answers s.chip (.platform (platformOf o.port))) :
    Ends (.portState ring o) s ring .ok (portResult s.chip o.port v) s.chip := by
  obtain ⟨-, hf, hon⟩ := ha
  refine ends_of_effect rfl h (by simp [hm, offDomains_of_isOn hon]) ?_
  simp only [portStateOrder, hm, Bool.false_eq_true, if_false, show ¬ 511 < o.port by omega, hv, unlessFenced, hf]

end

/-! `FAILOVER_SET` (R149, R152) -/

theorem groupOf_setGroup (g k : Nat) (v : Option Group) (s : Chip) :
    groupOf (setGroup g v s) k = if k = g then v else groupOf s k := sget_sput ..

/-- Waking a Quiet port changes no group (R151). -/
theorem groupOf_wakePort (p : Nat) (s : Chip) : groupOf (wakePort p s) = groupOf s := by
  unfold wakePort
  obtain h | ⟨v, hv, hst, h⟩ := onPort_cases p (fun v => v.st = .quiet) (fun _ s => portTo p .waking (emit (.quiet p 3) s)) s
  · rw [h]
  · rw [h, portTo_eq_setPort (s := emit _ s) hv (by simp [of_decide_eq_true hst]) (fun _ => rfl) (by decide)]
    rfl

theorem groupOf_wakePorts (ps : List Nat) (s : Chip) : groupOf (ps.foldl (fun s p => wakePort p s) s) = groupOf s := by
  induction ps generalizing s with
  | nil => rfl
  | cons p ps ih => exact (ih _).trans (groupOf_wakePort ..)

/-- The members that an Order takes out of its group. -/
def leavers (o : FailoverSetOps) (s : Chip) : List Nat :=
  (match groupOf s o.group with | none => [] | some g => g.members).filter (fun p => !o.members.contains p)

/-- The chip after a `FAILOVER_SET` whose checks have passed. -/
def regrouped (o : FailoverSetOps) (s : Chip) : Chip :=
  (leavers o s).foldl (fun s p => wakePort p s) (setGroup o.group (newGroup o s) s)

theorem failoverSet_of_check {o : FailoverSetOps} {s : Chip} (h : failoverCheck o s = none) :
    failoverSet o s = (.ok, BitVec.ofNat 64 (16384 - memberEntries (regrouped o s)), regrouped o s) := by
  unfold failoverSet; rw [h]; rfl

theorem failoverSet_of_refused {o : FailoverSetOps} {s : Chip} {e : Status} (h : failoverCheck o s = some e) :
    failoverSet o s = (e, 0, s) := by
  unfold failoverSet; rw [h]

theorem groupOf_regrouped (o : FailoverSetOps) (s : Chip) (k : Nat) :
    groupOf (regrouped o s) k = if k = o.group then newGroup o s else groupOf s k := by
  rw [regrouped, groupOf_wakePorts, groupOf_setGroup]

theorem newGroup_protect {o : FailoverSetOps} {s : Chip} (hk : o.kind = 1) :
    ∃ g, newGroup o s = some g ∧ g.spread = false ∧ g.members = o.members ∧ g.current = firstUp s o.members := by
  refine ⟨_, if_neg (by omega), ?_, rfl, ?_⟩ <;> simp [hk]

/-- Settles O26: `PORT_SET` by what each outcome of its checks does, `PORT_STATE` by its results, `FAILOVER_SET` on the group that
`regrouped` leaves. -/
theorem portOrders : Obligations.PortOrders := by
  unfold Obligations.PortOrders
  refine ⟨fun s ring => ⟨fun o h hn hm => ⟨portSet_ends_ok h hn hm, fun e hchk he => ?_, fun hchk => ?_⟩,
    fun o h hm hchk => ⟨fun h0 => ?_, fun h0 => ?_⟩, fun o g h hm hp hg hf => portState_ends_mgmt h hm hp hg hf,
    fun o v h hm hp hv ha => portState_ends_port h hm hp hv ha⟩, fun s ring o h => ⟨fun hchk => ?_, fun e hchk => ?_⟩⟩
  · exact portSet_ends h hn (portSet_of_refused hm hchk he)
  · exact portSet_ends h hn (portSet_of_fenced hm hchk)
  · rw [← mgmtConfigure_remove h0]
    exact portSet_ends h (portNeeds_mgmt hm _) (portSet_of_mgmtCheck hm hchk)
  · obtain ⟨downs, hset⟩ := mgmtConfigure_set h0 s.chip
    exact ⟨downs, hset ▸ portSet_ends h (portNeeds_mgmt hm _) (portSet_of_mgmtCheck hm hchk)⟩
  · refine ⟨_, ends_of_effect rfl h rfl (failoverSet_of_check hchk), fun g hg => ?_, fun h0 => ?_, fun h1 => ?_⟩
    · rw [groupOf_regrouped, if_neg hg]
    · rw [groupOf_regrouped, if_pos rfl, newGroup, if_pos h0]
    · rw [groupOf_regrouped, if_pos rfl]; exact newGroup_protect h1
  · exact ends_of_effect rfl h rfl (failoverSet_of_refused hchk)

end Sys2Proof.Machine
end

section
/-!
PROOFS. The resets of the PCI Express side (R63, R66, R67, R69, R78): what a recorded cause, a reset of the host interface state, an
abandoned mailbox read and the training of the link each leave, and the statement about the commands made of them.
-/

namespace Sys2Proof.Machine

/-- A command that no unit check guards does to the chip what its function does. -/
theorem becomes_of_onChip {c : Instr} {s : State} {f : Chip → Chip} {t : Chip} (hc : exec c s = onChip s f) (h : f s.chip = t) :
    Becomes c s t := by
  rw [Becomes, hc, onChip, h]

/-! Reset causes (R67) -/

theorem bit_eq_testBit (x i : Nat) : bit x i = x.testBit i := by
  rw [bit, Nat.testBit_eq_decide_div_mod_eq]

/-- Adding the power of a bit that is 0 puts a 1 into a field of one bit, and so carries into no other. -/
theorem bit_add_two_pow {x k : Nat} (h : bit x k = false) (j : Nat) : bit (x + 2 ^ k) j = (bit x j || decide (j = k)) := by
  have hput : x + 2 ^ k = putField x k 1 1 := by
    have hk : bits x k 1 = 0 := by
      have := of_decide_eq_false h
      rw [bits]; omega
    simp [putField, hk]
  rw [hput, bit_eq_testBit, bit_eq_testBit, testBit_putField]
  by_cases hj : j = k
  · simp [hj]
  · rw [if_neg (by omega), decide_eq_false hj, Bool.or_false]

theorem causeSet_rstCause (k : Nat) (s : Chip) : CauseSet k s (rstCause k s) := by
  intro j
  simp only [rstCause]
  by_cases h : bit s.power.rstCause k = true
  · rw [if_pos h]
    by_cases hj : j = k
    · rw [hj, h, Bool.true_or]
    · rw [decide_eq_false hj, Bool.or_false]
  · rw [if_neg h, bit_add_two_pow (Bool.eq_false_iff.2 h)]

/-- A recorded cause rests on the cause bits alone. -/
theorem CauseSet.congr {k : Nat} {s s' t t' : Chip} (h : CauseSet k s t) (hs : s'.power.rstCause = s.power.rstCause)
    (ht : t'.power.rstCause = t.power.rstCause) : CauseSet k s' t' := by
  intro j
  rw [hs, ht, h j]

/-! The host interface state (R66) -/

/-- What a map whose listed values all have a property reads, where its default has it too. -/
theorem sget_of_forall {α : Type} {p : α → Prop} {d : α} (hd : p d) {m : Sparse α} (hm : ∀ x ∈ m, p x.2) (k : Nat) :
    p (sget d m k) := by
  induction m with
  | nil => exact hd
  | cons x m ih =>
    rw [sget]
    split
    · exact hm x (List.mem_cons_self ..)
    · exact ih fun y hy => hm y (List.mem_cons_of_mem _ hy)

/-- A ring out of service, at most with an Order at work whose completion is to be discarded. -/
def RingSt.Silenced (v : RingSt) : Prop := ∃ run, v = { running := run } ∧ ∀ o, run = some o → o.orphan = true

theorem RingSt.hostReset_silenced (v : RingSt) : v.hostReset.Silenced := by
  refine ⟨_, rfl, fun o ho => ?_⟩
  obtain ⟨u, -, rfl⟩ := Option.map_eq_some_iff.1 ho
  rfl

theorem hostReset_resets (s : Chip) : HostReset s (hostReset s) := by
  refine ⟨fun r => ?_, rfl, rfl, rfl, rfl, rfl, rfl, rfl, rfl, rfl⟩
  refine sget_of_forall (p := RingSt.Silenced) ⟨none, rfl, fun _ h => by cases h⟩ (fun x hx => ?_) r
  obtain ⟨y, -, rfl⟩ := List.mem_map.1 (List.mem_filter.1 hx).1
  exact RingSt.hostReset_silenced y.2

/-- A reset of the host interface state rests on that state alone. -/
theorem HostReset.congr {s s' t t' : Chip} (h : HostReset s t) (hs : s'.host = s.host) (ht : t'.host = t.host) : HostReset s' t' := by
  unfold HostReset ringOf at h ⊢
  rwa [hs, ht]

/-! The mailbox read (R78) and the link (R63, R69) -/

theorem mailboxAbort_abandons (s : Chip) : MailboxAbandoned s (mailboxAbort s) := by
  unfold MailboxAbandoned mailboxAbort
  split <;> rfl

theorem mailboxAbort_eq (s : Chip) : mailboxAbort s = { s with boot := (mailboxAbort s).boot } := by
  unfold mailboxAbort
  split <;> rfl

theorem MailboxAbandoned.congr {s s' t t' : Chip} (h : MailboxAbandoned s t) (hs : s'.boot = s.boot) (ht : t'.boot = t.boot) :
    MailboxAbandoned s' t' := by
  unfold MailboxAbandoned at h ⊢
  rwa [hs, ht]

theorem linkTrain_eq (s : Chip) : linkTrain s = { s with power := { s.power with
    linkUp := s.power.linkUp || (hostUp s && s.boot.stage ≠ 0 && s.boot.stage ≠ 0x0F) } } := by
  unfold linkTrain
  split
  next h => rw [h, Bool.or_true]
  next h => rw [Bool.eq_false_iff.2 h, Bool.or_false]

/-! The commands -/

/-- `PERST_N` is low and the link down, and nothing is reset yet. -/
def perstAsserted (s : Chip) : Chip := { s with power := { s.power with perst := true, linkUp := false } }

/-- The chip after `PERST_N` is asserted on a running device. -/
def perstReset (s : Chip) : Chip := resetIsland .pc (hostReset (mailboxAbort (rstCause 2 (perstAsserted s))))

theorem perstReset_boot (s : Chip) : (perstReset s).boot = (mailboxAbort (rstCause 2 (perstAsserted s))).boot := rfl

/-- Of what no mailbox read touches, `PERST_N` resets the host interface state, moves the pin, the link and the cause, and leaves the
packet path, the ports and the Timetable running. -/
theorem perstReset_does (s : Chip) :
    (perstReset s).host = (hostReset s).host ∧ (perstReset s).power = (rstCause 2 (perstAsserted s)).power ∧
    (perstReset s).pkt = s.pkt ∧ (perstReset s).ports = s.ports ∧ (perstReset s).time = s.time := by
  rw [perstReset, mailboxAbort_eq]
  exact ⟨rfl, rfl, rfl, rfl, rfl⟩

theorem becomes_pcieFundamentalReset {s : State} (hp : s.chip.power.perst = false) (hd : dead s.chip = false)
    (ha : aonLost s.chip = false) : Becomes .pcieFundamentalReset s (perstReset s.chip) := by
  refine becomes_of_onChip (show _ = execPcieFundamentalReset s from rfl) ?_
  have hd' : dead (perstAsserted s.chip) = false := hd
  have ha' : aonLost (perstAsserted s.chip) = false := ha
  rw [perstReset, if_neg (Bool.eq_false_iff.1 hp)]
  exact (if_neg (Bool.eq_false_iff.1 ha')).trans (if_neg (Bool.eq_false_iff.1 hd'))

theorem becomes_perstNRelease {s : State} (hp : s.chip.power.perst = true) : Becomes .perstNRelease s { s.chip with
    power := { s.chip.power with
      perst := false, pcieRefLost := false
      linkUp := s.chip.power.linkUp || (!dead s.chip && s.chip.boot.stage ≠ 0 && s.chip.boot.stage ≠ 0x0F) } } := by
  refine becomes_of_onChip rfl ?_
  have hup : hostUp { s.chip with power := { s.chip.power with perst := false, pcieRefLost := false } } = !dead s.chip :=
    Bool.and_true _
  rw [if_pos hp, linkTrain_eq, hup]

/-- The link or its reference is lost: a mailbox read is abandoned, and the power state alone changes beside it. -/
theorem mailboxAbort_withPower (s : Chip) (p : PowerSt) :
    MailboxAbandoned s (mailboxAbort { s with power := p }) ∧
      mailboxAbort { s with power := p } = { s with boot := (mailboxAbort { s with power := p }).boot, power := p } :=
  ⟨(mailboxAbort_abandons { s with power := p }).congr rfl rfl, mailboxAbort_eq _⟩

/-- Settles O8: each command by the lemma of what it resets, records or abandons. -/
theorem pcieResets : Obligations.PcieResets := by
  unfold Obligations.PcieResets
  refine fun s => ⟨fun hp hd ha => ?perst, fun hb => ?flr, becomes_perstNRelease, ?linkDown, ?refLost, rfl⟩
  case perst =>
    obtain ⟨hhost, hpower, hpkt, hports, htime⟩ := perstReset_does s.chip
    exact ⟨_, becomes_pcieFundamentalReset hp hd ha, (hostReset_resets _).congr rfl hhost,
      (causeSet_rstCause 2 (perstAsserted s.chip)).congr rfl (congrArg PowerSt.rstCause hpower),
      (mailboxAbort_abandons (rstCause 2 (perstAsserted s.chip))).congr rfl (perstReset_boot _),
      congrArg PowerSt.perst hpower, congrArg PowerSt.linkUp hpower, hpkt, hports, htime⟩
  case flr =>
    exact ⟨_, becomes_of_onChip rfl (if_pos hb), (hostReset_resets _).congr rfl rfl, (causeSet_rstCause 3 _).congr rfl rfl,
      rfl, rfl, rfl, rfl, rfl, rfl⟩
  case linkDown => exact ⟨_, rfl, mailboxAbort_withPower _ _⟩
  case refLost => exact ⟨_, rfl, mailboxAbort_withPower _ _⟩

end Sys2Proof.Machine
end

section
/-!
PROOFS. The boot sequence and the mailbox (R69 to R78): what each step leaves of the boot state, the checks of R75 as a condition on a
container, and the statement about the two commands.
-/

namespace Sys2Proof.Machine

/-! Steps that leave the boot state alone -/

theorem boot_of_kept {s t : Chip} (h : kept t = kept s) : t.boot = s.boot := congrArg Prod.fst h

theorem boot_foldl {α : Type} {f : Chip → α → Chip} (h : ∀ s a, (f s a).boot = s.boot) (l : List α) (s : Chip) :
    (l.foldl f s).boot = s.boot := by
  induction l generalizing s with
  | nil => rfl
  | cons a l ih => exact (ih _).trans (h s a)

@[simp] theorem modBoot_boot (f : BootSt → BootSt) (s : Chip) : (modBoot f s).boot = f s.boot := rfl

@[simp] theorem linkTrain_boot (s : Chip) : (linkTrain s).boot = s.boot := by rw [linkTrain_eq]

@[simp] theorem startSms_boot (s : Chip) : (startSms s).boot = s.boot := boot_foldl (fun _ _ => modSm_boot ..) _ _

@[simp] theorem raise_boot (i : Isl) (loc cls sev : Nat) (s : Chip) : (raise i loc cls sev s).boot = s.boot :=
  boot_of_kept (raise_kept ..)

@[simp] theorem errUpdate_boot (s : Chip) : (errUpdate s).boot = s.boot := rfl

@[simp] theorem bootEvent_boot (s : Chip) : (bootEvent s).boot = s.boot := by
  unfold bootEvent
  split
  · rfl
  · exact boot_of_kept (msix_kept ..)

@[simp] theorem bistKeep_boot (i : Isl) (sub : Nat) (r : List Byte) (s : Chip) : (bistKeep i sub r s).boot = s.boot := rfl

@[simp] theorem bistFence_boot (i : Isl) (sub type : Nat) (s : Chip) : (bistFence i sub type s).boot = s.boot := by
  refine boot_of_kept ?_
  unfold bistFence
  split
  · split
    · exact fenceTile_kept ..
    · exact fenceIsland_kept ..
  · split
    · exact fenceChannel_kept ..
    · exact fenceIsland_kept ..
  · exact fenceIsland_kept ..

@[simp] theorem quickResult_boot (i : Isl) (type : Nat) (o : BistOutcome) (s : Chip) : (quickResult i type o s).boot = s.boot := by
  unfold quickResult
  extract_lets exp total one other two dur three st
  exact bistKeep_boot ..

@[simp] theorem quickOne_boot (i : Isl) (o : BistOutcome) (s : Chip) : (quickOne i o s).boot = s.boot := by
  unfold quickOne
  split
  · rfl
  · split
    · exact quickResult_boot ..
    · exact raise_boot ..
    · simp only [raise_boot, quickResult_boot, bistFence_boot]

@[simp] theorem quickBist_boot (found : List (Nat × BistOutcome)) (s : Chip) : (quickBist found s).boot = s.boot := by
  refine (boot_foldl (fun s x => ?_) _ _).trans (boot_foldl (fun _ _ => quickOne_boot ..) _ _)
  split
  · rfl
  · exact quickOne_boot ..

/-! The end of the boot (R69, R76) -/

/-- The boot state once the boot has ended in a stage. -/
def BootSt.ended (stage : Nat) (b : BootSt) : BootSt := { b with stage := stage, reading := false, done := true }

theorem bootFinish_boot (quick romOnly : Bool) (env : BootEnv) (s : Chip) :
    (bootFinish quick romOnly env s).boot = s.boot.ended (if romOnly then 0x07 else 0x06) := by
  unfold bootFinish
  extract_lets started trained tested
  have htrained : trained.boot = { s.boot with stage := 0x04, reading := false } :=
    (boot_foldl (fun _ _ => boot_of_kept (trainCauseway_kept ..)) _ _).trans (startSms_boot _)
  have htested : tested.boot = { s.boot with stage := tested.boot.stage, reading := false } := by
    unfold tested
    split
    · rw [quickBist_boot, modBoot_boot, htrained]
    · rw [htrained]
  rw [bootEvent_boot, errUpdate_boot, modBoot_boot, htested]
  rfl

/-- Without patches the boot ends in READY_ROM_ONLY, its fault recorded on the way. -/
theorem bootRomOnly_boot (env : BootEnv) (s : Chip) : (bootRomOnly env s).boot = s.boot.ended 0x07 := by
  rw [bootRomOnly, bootFinish_boot, raise_boot, if_pos rfl]

/-! Containers (R75) -/

/-- A container passes every check of R75, those of its segments among them. -/
def ContainerGood (c : List Byte) : Prop :=
  containerError c none = none ∧ (patchSegments (leAt c 0x12 2) (containerBody c)).isSome = true

theorem loadContainer_of_good {c : List Byte} (h : ContainerGood c) (s : Chip) :
    ∃ t, loadContainer c none s = .inr t ∧ t.boot = { s.boot with svn := leAt c 0x10 1 } := by
  obtain ⟨hchecks, hsegs⟩ := h
  obtain ⟨l, hl⟩ := Option.isSome_iff_exists.1 hsegs
  refine ⟨{ loadSegments l s with boot := { s.boot with svn := leAt c 0x10 1 } }, ?_, rfl⟩
  simp only [loadContainer, hchecks, hl]

theorem loadContainer_of_bad {c : List Byte} (h : ¬ ContainerGood c) (s : Chip) : ∃ e, loadContainer c none s = .inl e := by
  unfold loadContainer
  cases hchecks : containerError c none with
  | some e => exact ⟨e, rfl⟩
  | none =>
    cases hsegs : patchSegments (leAt c 0x12 2) (containerBody c) with
    | none => exact ⟨0x08, rfl⟩
    | some l => exact absurd ⟨hchecks, by rw [hsegs]; rfl⟩ h

/-! The boot from flash (R76) -/

theorem bootFlash_unreadable {env : BootEnv} (h : env.flash = none) (s : Chip) :
    (bootFlash env s).boot = BootSt.ended 0x07 { s.boot with error := 0x09 } := by
  simp only [bootFlash, h, bootRomOnly_boot]
  rfl

/-- One good copy is enough: copy A is tried first, then copy B. -/
theorem bootFlash_good {env : BootEnv} {a b : List Byte} (h : env.flash = some (a, b)) (hg : ContainerGood a ∨ ContainerGood b)
    (s : Chip) :
    ∃ e v, (bootFlash env s).boot = BootSt.ended 0x06 { s.boot with error := e, svn := v } := by
  simp only [bootFlash, h]
  by_cases ha : ContainerGood a
  · obtain ⟨t, ht, hboot⟩ := loadContainer_of_good ha (modBoot (fun b => { b with stage := 0x02 }) s)
    simp only [ht, bootFinish_boot, hboot]
    exact ⟨_, _, rfl⟩
  · obtain ⟨e, he⟩ := loadContainer_of_bad ha (modBoot (fun b => { b with stage := 0x02 }) s)
    obtain ⟨t, ht, hboot⟩ := loadContainer_of_good (hg.resolve_left ha)
      (modBoot (fun b => { b with error := e }) (modBoot (fun b => { b with stage := 0x02 }) s))
    simp only [he, ht, bootFinish_boot, hboot]
    exact ⟨_, _, rfl⟩

theorem bootFlash_bad {env : BootEnv} {a b : List Byte} (h : env.flash = some (a, b)) (ha : ¬ ContainerGood a) (hb : ¬ ContainerGood b)
    (s : Chip) : ∃ e v, (bootFlash env s).boot = BootSt.ended 0x07 { s.boot with error := e, svn := v } := by
  obtain ⟨ea, hea⟩ := loadContainer_of_bad ha (modBoot (fun b => { b with stage := 0x02 }) s)
  obtain ⟨eb, heb⟩ := loadContainer_of_bad hb
    (modBoot (fun b => { b with error := ea }) (modBoot (fun b => { b with stage := 0x02 }) s))
  simp only [bootFlash, h, hea, heb, bootRomOnly_boot]
  exact ⟨_, _, rfl⟩

/-! The boot sequence from its first step (R69 to R73) -/

/-- The boot sequence has sampled `BOOT_SRC`. -/
def sampled (env : BootEnv) (s : Chip) : Chip := { s with boot := { bootSrc := env.bootSrc } }

theorem bootRun_halted {env : BootEnv} (h : env.fusesGood = false) (s : Chip) :
    bootRun env s = rstCause 4 (modBoot (fun b => { b with stage := 0x0F, error := 0x0A }) (sampled env s)) := by
  simp only [bootRun, h, Bool.not_false, if_true]
  rfl

theorem bootRun_mailbox {env : BootEnv} (hf : env.fusesGood = true) (hm : env.bootSrc = true) (s : Chip) :
    (bootRun env s).boot = { bootSrc := true, stage := 0x03 } := by
  simp only [bootRun, hf, hm, Bool.not_true, Bool.false_eq_true, if_false, if_true, modBoot_boot, linkTrain_boot]

/-- The chip about to read the flash: `BOOT_SRC` sampled, its link in training. -/
def beforeFlash (env : BootEnv) (s : Chip) : Chip := linkTrain (modBoot (fun b => { b with stage := 0x01 }) (sampled env s))

theorem beforeFlash_boot (env : BootEnv) (s : Chip) : (beforeFlash env s).boot = { bootSrc := env.bootSrc, stage := 0x01 } :=
  linkTrain_boot _

theorem bootRun_flash {env : BootEnv} (hf : env.fusesGood = true) (hm : env.bootSrc = false) (s : Chip) :
    bootRun env s = bootFlash env (beforeFlash env s) := by
  simp only [bootRun, hf, hm, Bool.not_true, Bool.false_eq_true, if_false, beforeFlash, sampled]

/-- A boot from flash ends, what it sampled kept, in READY or READY_ROM_ONLY as the copies pass the checks of R75. -/
theorem bootFlash_ends (env : BootEnv) (s : Chip) :
    (bootFlash env s).boot.pending = s.boot.pending ∧ (bootFlash env s).boot.bootSrc = s.boot.bootSrc ∧
    (bootFlash env s).boot.done = true ∧
    (∀ a b, env.flash = some (a, b) → (ContainerGood a ∨ ContainerGood b → (bootFlash env s).boot.stage = 0x06) ∧
      (¬ ContainerGood a → ¬ ContainerGood b → (bootFlash env s).boot.stage = 0x07)) ∧
    (env.flash = none → (bootFlash env s).boot.stage = 0x07 ∧ (bootFlash env s).boot.error = 0x09) := by
  cases hflash : env.flash with
  | none =>
    rw [bootFlash_unreadable hflash]
    exact ⟨rfl, rfl, rfl, fun _ _ h => (by cases h), fun _ => ⟨rfl, rfl⟩⟩
  | some copies =>
    obtain ⟨a, b⟩ := copies
    by_cases hg : ContainerGood a ∨ ContainerGood b
    · obtain ⟨e, v, hboot⟩ := bootFlash_good hflash hg s
      rw [hboot]
      refine ⟨rfl, rfl, rfl, fun x y h => ⟨fun _ => rfl, fun hx hy => ?_⟩, fun h => (by cases h)⟩
      cases h
      exact absurd hg (not_or.2 ⟨hx, hy⟩)
    · obtain ⟨ha, hb⟩ := not_or.1 hg
      obtain ⟨e, v, hboot⟩ := bootFlash_bad hflash ha hb s
      rw [hboot]
      refine ⟨rfl, rfl, rfl, fun x y h => ⟨fun hxy => ?_, fun _ _ => rfl⟩, fun h => (by cases h)⟩
      cases h
      exact absurd hxy hg

theorem becomes_bootSequence {s : State} (hp : s.chip.boot.pending = true) (hd : dead s.chip = false) (env : BootEnv) :
    Becomes (.bootSequence env) s (bootRun env s.chip) :=
  becomes_of_onChip (show _ = execBootSequence env s from rfl) (if_pos (by rw [hp, hd]; rfl))

/-! The mailbox (R77, R78) -/

section
variable {s : Chip} (hb : barUp s = true) (hst : s.boot.stage = 0x03) (hr : s.boot.reading = false) (len : Nat) (env : BootEnv)
include hb hst hr

/-- Length 0 asks for no container. -/
theorem mailboxGo_empty (h0 : len % 2 ^ 20 = 0) :
    mailboxGo len .started env s = bootRomOnly env (modBoot (fun b => { b with mbLen := len % 2 ^ 20 }) s) := by
  simp [mailboxGo, hb, hst, hr, h0, -Nat.reducePow]

theorem mailboxGo_started (h0 : len % 2 ^ 20 ≠ 0) :
    mailboxGo len .started env s = modBoot (fun b => { b with mbLen := len % 2 ^ 20, reading := true }) s := by
  simp [mailboxGo, hb, hst, hr, h0, modBoot, -Nat.reducePow]

theorem mailboxGo_dmaError (h0 : len % 2 ^ 20 ≠ 0) :
    mailboxGo len .dmaError env s = modBoot (fun b => { b with mbLen := len % 2 ^ 20, error := 0x0B }) s := by
  simp [mailboxGo, hb, hst, hr, h0, modBoot, -Nat.reducePow]

theorem mailboxGo_whole (h0 : len % 2 ^ 20 ≠ 0) (bytes : List Byte) :
    mailboxGo len (.whole bytes) env s = mailboxLoad bytes env (modBoot (fun b => { b with mbLen := len % 2 ^ 20 }) s) := by
  simp [mailboxGo, hb, hst, hr, h0, -Nat.reducePow]

end

/-- A size outside the bounds of R77 is refused. -/
theorem mailboxLoad_of_size {s : Chip} (h : s.boot.mbLen < 368 ∨ 524640 < s.boot.mbLen) (bytes : List Byte) (env : BootEnv) :
    mailboxLoad bytes env s = modBoot (fun b => { b with reading := false, error := 0x05 }) s := by
  unfold mailboxLoad
  exact if_pos (Bool.or_eq_true_iff.2 (h.imp decide_eq_true decide_eq_true))

/-- Settles O13: `BOOT_SEQUENCE` by where its fuses, its source and its flash lead it, `PC_MBOX_GO` by its length and its read. -/
theorem bootSequence : Obligations.BootSequence := by
  unfold Obligations.BootSequence
  refine ⟨fun s env hp hd => ⟨_, becomes_bootSequence hp hd env, ?run⟩, fun s len env hb hst hr =>
    ⟨fun h0 => ?empty, fun h0 => ?started, fun h0 => ?dmaError, fun h0 hsize bytes => ?size⟩⟩
  case run =>
    cases hf : env.fusesGood with
    | false =>
      rw [bootRun_halted hf, if_pos rfl]
      exact ⟨rfl, rfl, rfl, rfl, rfl, (causeSet_rstCause 4 _).congr rfl rfl⟩
    | true =>
      rw [if_neg (by decide)]
      cases hm : env.bootSrc with
      | true =>
        rw [bootRun_mailbox hf hm, if_pos rfl]
        exact ⟨rfl, rfl, rfl, rfl, rfl⟩
      | false =>
        rw [bootRun_flash hf hm, if_neg (by decide)]
        obtain ⟨hpend, hsrc, hends⟩ := bootFlash_ends env (beforeFlash env s.chip)
        rw [beforeFlash_boot] at hpend hsrc
        exact ⟨hpend, hsrc.trans hm, hends⟩
  case empty =>
    refine ⟨_, becomes_of_onChip rfl (mailboxGo_empty hb hst hr len env h0), ?_⟩
    rw [bootRomOnly_boot]
    exact ⟨rfl, rfl⟩
  case started => exact becomes_of_onChip rfl (mailboxGo_started hb hst hr len env h0)
  case dmaError => exact becomes_of_onChip rfl (mailboxGo_dmaError hb hst hr len env h0)
  case size =>
    exact becomes_of_onChip rfl ((mailboxGo_whole hb hst hr len env h0 bytes).trans (mailboxLoad_of_size hsize bytes env))

end Sys2Proof.Machine
end

section
/-!
PROOFS. The load Orders and EPOCH_STATUS (R190, R206, R231, R235): a field of a packed result, a change of every named Line of one side, and
what the checks of each Order leave it to answer.
-/

namespace Sys2Proof.Machine

/-! Fields of a packed word (R5) -/

theorem bit_eq_bits (x i : Nat) : bit x i = decide (bits x i 1 = 1) := rfl

theorem bits_mod_two_pow {x n lo w : Nat} (h : lo + w ≤ n) : bits (x % 2 ^ n) lo w = bits x lo w := by
  apply Nat.eq_of_testBit_eq
  intro i
  rw [testBit_bits, testBit_bits, Nat.testBit_mod_two_pow]
  by_cases hi : i < w
  · rw [decide_eq_true (show lo + i < n by omega), Bool.true_and]
  · simp [hi]

/-- Two fields (low bit, width, value) have no bit in common. -/
abbrev FieldsApart (f g : Nat × Nat × Nat) : Prop := f.1 + f.2.1 ≤ g.1 ∨ g.1 + g.2.1 ≤ f.1

/-- A field put where a word is clear adds to it. -/
theorem putField_of_clear {x lo w : Nat} (h : bits x lo w = 0) (v : Nat) : putField x lo w v = v % 2 ^ w * 2 ^ lo + x := by
  rw [putField, h, Nat.zero_mul, Nat.sub_zero, Nat.add_comm]

theorem bits_pack_outside {fs : List (Nat × Nat × Nat)} (hapart : fs.Pairwise FieldsApart) {a n : Nat}
    (h : ∀ f ∈ fs, f.1 + f.2.1 ≤ a ∨ a + n ≤ f.1) : bits (pack fs) a n = 0 := by
  induction fs generalizing a n with
  | nil => simp [pack, bits]
  | cons f m ih =>
    obtain ⟨lo, w, v⟩ := f
    obtain ⟨hhead, hrest⟩ := List.pairwise_cons.1 hapart
    rw [pack, ← putField_of_clear (ih hrest fun g hg => (hhead g hg).symm),
      bits_putField_other _ _ _ _ _ _ (h _ List.mem_cons_self).symm]
    exact ih hrest fun g hg => h g (List.mem_cons_of_mem _ hg)

/-- A field reads back from a word packed of fields that lie apart. -/
theorem bits_pack_of_mem {fs : List (Nat × Nat × Nat)} (hapart : fs.Pairwise FieldsApart) {lo w v : Nat} (hm : (lo, w, v) ∈ fs) :
    bits (pack fs) lo w = v % 2 ^ w := by
  induction fs with
  | nil => exact absurd hm List.not_mem_nil
  | cons f m ih =>
    obtain ⟨hhead, hrest⟩ := List.pairwise_cons.1 hapart
    have hclear := bits_pack_outside hrest fun g hg => (hhead g hg).symm
    rw [pack, ← putField_of_clear hclear]
    obtain rfl | hmem := List.mem_cons.1 hm
    · exact bits_putField ..
    · rw [bits_putField_other _ _ _ _ _ _ (hhead _ hmem).symm]
      exact ih hrest hmem

theorem bits_packD_of_mem {fs : List (Nat × Nat × Nat)} (hapart : fs.Pairwise FieldsApart) {lo w v : Nat} (hm : (lo, w, v) ∈ fs)
    (h : lo + w ≤ 64) : bits (packD fs).toNat lo w = v % 2 ^ w := by
  rw [packD, BitVec.toNat_ofNat, bits_mod_two_pow h, bits_pack_of_mem hapart hm]

/-! The named Lines of one side -/

theorem nodup_span (a n : Nat) : (span a n).Nodup := by
  induction n generalizing a with
  | zero => exact List.nodup_nil
  | succ n ih =>
    refine List.nodup_cons.2 ⟨fun h => ?_, ih (a + 1)⟩
    have := ((mem_span ..).1 h).1
    omega

theorem nodup_linesOf (mask : Nat) : (linesOf mask).Nodup := (nodup_span 0 36).filter _

theorem lineOf_modLine_side {e d : Bool} (h : d ≠ e) (n k : Nat) (f : LineSt → LineSt) (s : Chip) :
    lineOf (modLine e n f s) d k = lineOf s d k := by
  rw [Bool.eq_not_of_ne h]
  cases e <;> rfl

/-- The same change at every Line of a list. -/
def modLines (e : Bool) (ns : List Nat) (f : LineSt → LineSt) (s : Chip) : Chip := ns.foldl (fun s n => modLine e n f s) s

theorem lineOf_modLines_other {e d : Bool} {ns : List Nat} {k : Nat} (h : d ≠ e ∨ k ∉ ns) (f : LineSt → LineSt) (s : Chip) :
    lineOf (modLines e ns f s) d k = lineOf s d k := by
  refine List.foldlRecOn (motive := fun (t : Chip) => lineOf t d k = lineOf s d k) _ _ rfl fun t ht n hn => ?_
  by_cases hd : d = e
  · subst hd
    have hk : k ≠ n := fun hk => h.resolve_left (not_not_intro rfl) (hk ▸ hn)
    rw [lineOf_modLine, if_neg hk, ht]
  · rw [lineOf_modLine_side hd, ht]

/-- A Line listed once takes the change once. -/
theorem lineOf_modLines_of_mem (e : Bool) {ns : List Nat} (hnd : ns.Nodup) {k : Nat} (hk : k ∈ ns) (f : LineSt → LineSt) (s : Chip) :
    lineOf (modLines e ns f s) e k = f (lineOf s e k) := by
  induction ns generalizing s with
  | nil => exact absurd hk List.not_mem_nil
  | cons n ns ih =>
    obtain ⟨hn, hnd'⟩ := List.nodup_cons.1 hnd
    rw [show modLines e (n :: ns) f s = modLines e ns f (modLine e n f s) from rfl]
    obtain rfl | hmem := List.mem_cons.1 hk
    · rw [lineOf_modLines_other (.inr hn), lineOf_modLine, if_pos rfl]
    · rw [ih hnd' hmem, lineOf_modLine, if_neg fun h : k = n => hn (h ▸ hmem)]

/-! The loads (R190, R206) -/

/-- No Line of a list is fenced or in the scope of a commit that waits. -/
abbrev LinesFree (s : Chip) (e : Bool) (ns : List Nat) : Prop := ∀ n ∈ ns, isFenced s (lineIsl e n) = false ∧ commitWaits s n = false

theorem LinesFree.fencedLine {s : Chip} {e : Bool} {ns : List Nat} (h : LinesFree s e ns) : fencedLine s e ns = none :=
  List.find?_eq_none.2 fun n hn => Bool.eq_false_iff.1 (h n hn).1

theorem LinesFree.commitWaits {s : Chip} {e : Bool} {ns : List Nat} (h : LinesFree s e ns) : ns.any (commitWaits s) = false :=
  List.any_eq_false.2 fun n hn => Bool.eq_false_iff.1 (h n hn).2

/-- A program takes the place of the one staged where its declarations fit; else the Line stays. -/
def tryStage (p : Prog) (l : LineSt) : LineSt := (stageProg p.egress p l).getD l

theorem programLoad_of_bad {o : LoadOps} {e : ImgErr} (h : checkImage o.image.data o.image.len = some e) (s : Chip) :
    programLoad o s = (.badOperand, imageResult e, s) := by
  simp only [programLoad, h]

theorem programLoad_of_good {o : LoadOps} {s : Chip} {p : Prog} (hp : progOf o.image.data = p)
    (hgood : checkImage o.image.data o.image.len = none) (h0 : o.lines ≠ 0) (hfree : LinesFree s p.egress (linesOf o.lines))
    (hfits : ∀ n ∈ linesOf o.lines, (stageProg p.egress p (lineOf s p.egress n)).isSome = true) :
    programLoad o s = (.ok, BitVec.ofNat 64 p.crc.toNat, modLines p.egress (linesOf o.lines) (tryStage p) s) := by
  have hroom : (linesOf o.lines).any (fun n => (stageProg p.egress p (lineOf s p.egress n)).isNone) = false :=
    List.any_eq_false.2 fun n hn => by simpa [Option.isSome_iff_ne_none] using hfits n hn
  simp only [programLoad, hgood, hp, hroom, Bool.false_eq_true, if_false, h0, hfree.fencedLine, hfree.commitWaits]
  rfl

theorem parserLoad_of_bad {o : LoadOps} {e : Nat × Nat} (h : checkGraph o.image.data o.image.len = some e) (s : Chip) :
    parserLoad o s = (.badOperand, packD [(24, 8, e.1), (0, 16, e.2)], s) := by
  simp only [parserLoad, h]

theorem parserLoad_of_good {o : LoadOps} {s : Chip} {g : Graph} (hg : graphOf o.image.data = g)
    (hgood : checkGraph o.image.data o.image.len = none) (h0 : o.lines ≠ 0) (hfree : LinesFree s g.egress (linesOf o.lines)) :
    parserLoad o s =
      (.ok, BitVec.ofNat 64 g.crc.toNat, modLines g.egress (linesOf o.lines) (fun l => { l with stgGraph := some g }) s) := by
  simp only [parserLoad, hgood, hg, Bool.false_eq_true, if_false, h0, hfree.fencedLine, hfree.commitWaits]
  rfl

/-! EPOCH_STATUS (R231) -/

theorem epochSummary_packed (s : Chip) : ∃ fs, epochSummary s = (.ok, packD fs, s) ∧ fs.Pairwise FieldsApart ∧
    (48, 16, s.pkt.epoch.cur) ∈ fs ∧ (25, 1, b2n s.pkt.epoch.draining) ∈ fs ∧ (0, 24, satAdd 0xFFFFFF (drainingHeld s) 0) ∈ fs :=
  ⟨_, rfl, by simp [FieldsApart], by simp, by simp, by simp⟩

theorem epochSummary_fields (s : Chip) : ∃ res, epochSummary s = (.ok, res, s) ∧ bits res.toNat 48 16 = s.pkt.epoch.cur % 2 ^ 16 ∧
    bit res.toNat 25 = s.pkt.epoch.draining ∧ bits res.toNat 0 24 = min 0xFFFFFF (drainingHeld s) := by
  obtain ⟨fs, heff, hapart, hcur, hdraining, hheld⟩ := epochSummary_packed s
  refine ⟨_, heff, bits_packD_of_mem hapart hcur (by omega), ?_, ?_⟩
  · rw [bit_eq_bits, bits_packD_of_mem hapart hdraining (by omega)]
    cases s.pkt.epoch.draining <;> rfl
  · rw [bits_packD_of_mem hapart hheld (by omega), satAdd_eq_min, Nat.add_zero]
    exact Nat.mod_eq_of_lt (by omega)

theorem epochBank_staged {o : EpochBankOps} {s : Chip} (hbank : o.bank = 2) (hline : o.line ≤ 35)
    (hf : isFenced s (lineIsl o.egress o.line) = false) :
    epochBank o s = (.ok, packD
      [(32, 32, match (lineOf s o.egress o.line).stgProg with | none => 0xFFFFFFFF | some b => b.prog.progId.toNat),
       (0, 32, match (lineOf s o.egress o.line).stgGraph with | none => 0xFFFFFFFF | some g => g.graphId.toNat)], s) := by
  have hrange : ¬ 35 < o.line := Nat.not_lt.2 hline
  cases hprog : (lineOf s o.egress o.line).stgProg <;> cases hgraph : (lineOf s o.egress o.line).stgGraph <;>
    simp [epochBank, hbank, hf, hrange, hprog, hgraph]

/-- Settles O34: the loads by the outcome of their checks, each over the named Lines of the image's side; the reports by their fields. -/
theorem programOrders : Obligations.ProgramOrders := by
  unfold Obligations.ProgramOrders
  refine fun s ring => ⟨fun o h hn => ⟨fun e he => ?badImage, fun hgood h0 hlines => ?program⟩,
    fun o h hn => ⟨fun e he => ?badGraph, fun hgood h0 hfree => ?graph⟩, fun h => ?summary, fun o h hn hline hf hbank => ?bank⟩
  case badImage => exact ends_of_effect rfl h hn (programLoad_of_bad he _)
  case badGraph => exact ends_of_effect rfl h hn (parserLoad_of_bad he _)
  case program =>
    have hfits n hn := (hlines n hn).2.2
    refine ⟨_, ends_of_effect rfl h hn (programLoad_of_good rfl hgood h0 (fun n hn => ⟨(hlines n hn).1, (hlines n hn).2.1⟩) hfits),
      fun n hmem => ?_, fun eg n hother => lineOf_modLines_other hother _ _⟩
    obtain ⟨l, hl⟩ := Option.isSome_iff_exists.1 (hfits n hmem)
    rw [lineOf_modLines_of_mem _ (nodup_linesOf _) hmem, tryStage, hl, Option.getD_some]
  case graph =>
    exact ⟨_, ends_of_effect rfl h hn (parserLoad_of_good rfl hgood h0 hfree),
      fun n hmem => lineOf_modLines_of_mem _ (nodup_linesOf _) hmem _ _, fun eg n hother => lineOf_modLines_other hother _ _⟩
  case summary =>
    obtain ⟨res, heff, hfields⟩ := epochSummary_fields s.chip
    exact ⟨res, ends_of_effect rfl h rfl heff, hfields⟩
  case bank =>
    exact ends_of_effect rfl h (by rw [if_neg (by omega), hn]) (epochBank_staged hbank hline hf)

end Sys2Proof.Machine
end

section
/-!
PROOFS. EPOCH_COMMIT and the retirement of the draining epoch (R209, R215, R217, R219, R229, R230, R242): how an Order ends or waits, what
the words of a Line have to do with the packet state, and the views that a commit and a retirement leave in each Line.
-/

namespace Sys2Proof.Machine

/-! Orders that end at once or wait -/

section
variable {c : Instr} {s : State} {ring : Nat} {needs : Chip → List Nat} {eff : Chip → Ran}
  (hc : exec c s = onUnit (decide (ring < 64)) s fun u => runOrder ring c needs eff u) (h : AtWork s ring c) (hn : needs s.chip = [])
include hc h hn

theorem ends_of_done {st : Status} {res : DWord} {t : Chip} (he : eff s.chip = .done st res t) : Ends c s ring st res t := by
  rw [Ends, Becomes, hc, onUnit_next (decide_eq_true h.1), runOrder_atWork h needs eff hn, he]

/-- An Order whose effect goes on has begun and has no status yet. -/
theorem becomes_of_going {t : Chip} (he : eff s.chip = .going t) (ht : ringOf t = ringOf s.chip) :
    ∃ u run, Becomes c s u ∧ u.pkt = t.pkt ∧ (ringOf u ring).running = some run ∧ run.outcome = none ∧ run.begun = true := by
  obtain ⟨run, hrun, -, hout, -⟩ := h.2.2.2
  refine ⟨modRing ring (fun v => { v with running := v.running.map fun o => { o with begun := true } }) t,
    { run with begun := true }, ?_, modRing_pkt .., ?_, hout, rfl⟩
  · rw [Becomes, hc, onUnit_next (decide_eq_true h.1), runOrder_atWork h needs eff hn, he]
  · rw [ringOf_modRing, if_pos rfl, ht]
    exact congrArg (Option.map fun o => { o with begun := true }) hrun

end

/-! What counters, words and Lines leave of the packet state -/

theorem pkt_foldl {α : Type} {f : Chip → α → Chip} (h : ∀ s a, (f s a).pkt = s.pkt) (l : List α) (s : Chip) :
    (l.foldl f s).pkt = s.pkt := by
  induction l generalizing s with
  | nil => rfl
  | cons a l ih => exact (ih _).trans (h s a)

@[simp] theorem bump_pkt (i : Isl) (off n : Nat) (s : Chip) : (bump i off n s).pkt = s.pkt := setLive_pkt ..

@[simp] theorem lineCount_pkt (egress : Bool) (n off k : Nat) (s : Chip) : (lineCount egress n off k s).pkt = s.pkt := by
  unfold lineCount
  split
  · rfl
  · exact bump_pkt ..

theorem afterCommit_line (egress : Bool) (n : Nat) (s : Chip) : afterCommit (lineIsl egress n) s = s := by cases egress <;> rfl

/-- A commit of a Line's island changes words alone. -/
theorem commitIsl_line_pkt (egress : Bool) (n : Nat) (s : Chip) : (commitIsl (lineIsl egress n) s).2.pkt = s.pkt := by
  unfold commitIsl
  refine (congrArg Chip.pkt (afterCommit_line ..)).trans ?_
  refine List.foldlRecOn (motive := fun (r : Nat × Chip) => r.2.pkt = s.pkt) _ _ rfl fun r hr x _ => ?_
  exact ((setShadow_pkt ..).trans (setLive_pkt ..)).trans hr

theorem commitAll_lines_pkt (ns ms : List Nat) (s : Chip) : (commitAll (ns.map .iline ++ ms.map .eline) s).2.pkt = s.pkt := by
  refine List.foldlRecOn (motive := fun (r : Nat × Chip) => r.2.pkt = s.pkt) _ _ rfl fun r hr i hi => Eq.trans ?_ hr
  obtain hi | hi := List.mem_append.1 hi
  · obtain ⟨n, -, rfl⟩ := List.mem_map.1 hi
    exact commitIsl_line_pkt false n r.2
  · obtain ⟨n, -, rfl⟩ := List.mem_map.1 hi
    exact commitIsl_line_pkt true n r.2

theorem lineOf_of_pkt {s t : Chip} (h : t.pkt = s.pkt) : lineOf t = lineOf s := by
  unfold lineOf
  rw [h]

@[simp] theorem lineOf_lineCount (e : Bool) (n off k : Nat) (s : Chip) : lineOf (lineCount e n off k s) = lineOf s :=
  lineOf_of_pkt (lineCount_pkt ..)

theorem lineOf_commitAll_lines (ns ms : List Nat) (s : Chip) : lineOf (commitAll (ns.map .iline ++ ms.map .eline) s).2 = lineOf s :=
  lineOf_of_pkt (commitAll_lines_pkt ..)

@[simp] theorem lineOf_noteStale (s : Chip) : lineOf (noteStale s) = lineOf s := rfl

@[simp] theorem modLine_epoch (e : Bool) (n : Nat) (f : LineSt → LineSt) (s : Chip) : (modLine e n f s).pkt.epoch = s.pkt.epoch := by
  cases e <;> rfl

/-! The views of a Line (R209, R215) -/

/-- `m` is live with what `l` had staged as its current view, and nothing is staged. -/
def LineSt.Switched (l m : LineSt) : Prop :=
  m.live = true ∧ m.stgProg = none ∧ m.stgGraph = none ∧ m.curProg = (match l.stgProg with | none => l.curProg | some b => some b)

/-- `m` has the current view of `l`. -/
def LineSt.SameView (l m : LineSt) : Prop := m.curProg = l.curProg ∧ m.curGraph = l.curGraph

theorem takeView_switched (drains : Bool) (l : LineSt) : l.Switched (takeView drains l) := by
  unfold LineSt.Switched takeView
  cases l.stgProg <;> cases l.curProg <;> cases drains <;> exact ⟨rfl, rfl, rfl, rfl⟩

theorem keepView_sameView (drains : Bool) (l : LineSt) : l.SameView (keepView drains l) := by cases drains <;> exact ⟨rfl, rfl⟩

/-- What a commit makes of Line `n`, one of its scope or not. -/
def commitLine (drains : Bool) (ns : List Nat) (n : Nat) (l : LineSt) : LineSt :=
  if n ∈ ns then takeView drains l else if l.live then keepView drains l else l

theorem commitLine_sameView {n : Nat} {ns : List Nat} (h : n ∉ ns) (drains : Bool) (l : LineSt) :
    l.SameView (commitLine drains ns n l) := by
  rw [commitLine, if_neg h]
  split
  · exact keepView_sameView ..
  · exact ⟨rfl, rfl⟩

/-- A fold over distinct Lines of one side, whose step at `n` changes Line `n` alone, changes each listed Line once. -/
theorem lineOf_foldl_of_local {e : Bool} {f : Chip → Nat → Chip} {g : Nat → LineSt → LineSt}
    (h : ∀ s n k, lineOf (f s n) e k = if k = n then g n (lineOf s e n) else lineOf s e k) {ns : List Nat} (hnd : ns.Nodup) (s : Chip)
    (k : Nat) : lineOf (ns.foldl f s) e k = if k ∈ ns then g k (lineOf s e k) else lineOf s e k := by
  induction ns generalizing s with
  | nil => rfl
  | cons n ns ih =>
    obtain ⟨hn, hnd'⟩ := List.nodup_cons.1 hnd
    rw [List.foldl_cons, ih hnd', h]
    by_cases hk : k = n
    · subst hk
      rw [if_neg hn, if_pos rfl, if_pos List.mem_cons_self]
    · simp only [List.mem_cons, hk, if_false, false_or]

theorem lineOf_switchLines (e drains : Bool) (ns : List Nat) (s : Chip) (k : Nat) :
    lineOf (switchLines e drains ns s) e k = if k ∈ span 0 36 then commitLine drains ns k (lineOf s e k) else lineOf s e k := by
  refine lineOf_foldl_of_local (fun s n k => ?_) (nodup_span 0 36) s k
  dsimp only
  by_cases hn : n ∈ ns
  · rw [if_pos (List.contains_iff_mem.2 hn), lineOf_lineCount, lineOf_modLine, commitLine, if_pos hn]
  · rw [if_neg (mt List.contains_iff_mem.1 hn), commitLine, if_neg hn]
    split
    · rw [lineOf_modLine]
    · split
      · next hk => rw [hk]
      · rfl

theorem lineOf_switchLines_side {e d : Bool} (h : d ≠ e) (drains : Bool) (ns : List Nat) (s : Chip) (k : Nat) :
    lineOf (switchLines e drains ns s) d k = lineOf s d k := by
  refine List.foldlRecOn (motive := fun (t : Chip) => lineOf t d k = lineOf s d k) _ _ rfl fun t ht n _ => Eq.trans ?_ ht
  split
  · rw [lineOf_lineCount, lineOf_modLine_side h]
  · split
    · rw [lineOf_modLine_side h]
    · rfl

theorem lineOf_switchLines_both (e drains : Bool) (ns : List Nat) (s : Chip) (k : Nat) :
    lineOf (switchLines true drains ns (switchLines false drains ns s)) e k = lineOf (switchLines e drains ns s) e k := by
  cases e with
  | false => exact lineOf_switchLines_side (by decide) ..
  | true => rw [lineOf_switchLines, lineOf_switchLines, lineOf_switchLines_side (by decide)]

/-! The commit (R215, R229) -/

/-- Restarted generators change the state of the generators alone (R493). -/
theorem lineOf_restartRnds (e d : Bool) (ns : List Nat) (s : Chip) (k : Nat) :
    ∃ r, lineOf (ns.foldl (fun s n => restartRnd e n s) s) d k = { lineOf s d k with rnd := r } := by
  refine List.foldlRecOn (motive := fun (t : Chip) => ∃ r, lineOf t d k = { lineOf s d k with rnd := r }) _ _ ⟨_, rfl⟩
    fun t ⟨r, ht⟩ n _ => ?_
  by_cases hd : d = e
  · subst hd
    rw [restartRnd, lineOf_modLine]
    split
    · next hk => exact ⟨_, by rw [← hk, ht]⟩
    · exact ⟨r, ht⟩
  · rw [restartRnd, lineOf_modLine_side hd]
    exact ⟨r, ht⟩

theorem restartRnds_epoch (e : Bool) (ns : List Nat) (s : Chip) :
    (ns.foldl (fun s n => restartRnd e n s) s).pkt.epoch = s.pkt.epoch :=
  List.foldlRecOn (motive := fun (t : Chip) => t.pkt.epoch = s.pkt.epoch) _ _ rfl fun _ ht _ _ => (modLine_epoch ..).trans ht

/-- The new epoch is current, and the one before it, where there was one, drains. -/
theorem commitEpoch_epoch (lines ageMs : Nat) (s : Chip) :
    let e := s.pkt.epoch
    let f := (commitEpoch lines ageMs s).2.pkt.epoch
    f.live = true ∧ f.cur = (if e.live then (e.cur + 1) % 65536 else 0) ∧ f.draining = e.live ∧ f.waiting = none := by
  simp only [commitEpoch, noteStale, modPkt, restartRnds_epoch, and_self]

/-- A commit leaves each Line as the switch of its side does, but for the state of its generator. -/
theorem lineOf_commitEpoch (lines ageMs : Nat) (s : Chip) (e : Bool) (k : Nat) :
    ∃ r, lineOf (commitEpoch lines ageMs s).2 e k =
      { lineOf (switchLines e s.pkt.epoch.live (linesOf lines) s) e k with rnd := r } := by
  simp only [commitEpoch, lineOf_noteStale]
  obtain ⟨r, hegress⟩ := lineOf_restartRnds true e _ _ k
  obtain ⟨q, hingress⟩ := lineOf_restartRnds false e _ _ k
  refine ⟨r, ?_⟩
  rw [hegress, hingress, ← lineOf_switchLines_both,
    ← lineOf_commitAll_lines (linesOf lines) (linesOf lines) (switchLines true ..)]
  rfl

theorem commitEpoch_switched {n lines : Nat} (h : n ∈ linesOf lines) (ageMs : Nat) (s : Chip) (e : Bool) :
    (lineOf s e n).Switched (lineOf (commitEpoch lines ageMs s).2 e n) := by
  obtain ⟨r, hm⟩ := lineOf_commitEpoch lines ageMs s e n
  rw [hm, lineOf_switchLines, if_pos (List.mem_filter.1 h).1, commitLine, if_pos h]
  exact takeView_switched ..

theorem commitEpoch_sameView {n lines : Nat} (h : n ∉ linesOf lines) (ageMs : Nat) (s : Chip) (e : Bool) :
    (lineOf s e n).SameView (lineOf (commitEpoch lines ageMs s).2 e n) := by
  obtain ⟨r, hm⟩ := lineOf_commitEpoch lines ageMs s e n
  rw [hm, lineOf_switchLines]
  split
  · exact commitLine_sameView h ..
  · exact ⟨rfl, rfl⟩

/-- What a commit of a scope leaves. -/
def Commits (lines : Nat) (s t : Chip) : Prop :=
  t.pkt.epoch.live = true ∧ t.pkt.epoch.cur = (if s.pkt.epoch.live then (s.pkt.epoch.cur + 1) % 65536 else 0) ∧
  t.pkt.epoch.draining = s.pkt.epoch.live ∧ t.pkt.epoch.waiting = none ∧
  (∀ n ∈ linesOf lines, ∀ e, (lineOf s e n).Switched (lineOf t e n)) ∧
  ∀ n e, n ∉ linesOf lines → (lineOf s e n).SameView (lineOf t e n)

theorem commitEpoch_commits (lines ageMs : Nat) (s : Chip) : Commits lines s (commitEpoch lines ageMs s).2 := by
  obtain ⟨hlive, hcur, hdraining, hwaiting⟩ := commitEpoch_epoch lines ageMs s
  exact ⟨hlive, hcur, hdraining, hwaiting, fun _ hn _ => commitEpoch_switched hn .., fun _ _ hn => commitEpoch_sameView hn ..⟩

/-- A commit that takes effect ends `OK`, or `GOVERNED` where a bound replaced a value. -/
theorem commitResult_commits (lines ageMs waited : Nat) (s : Chip) :
    ∃ st res t, commitResult lines ageMs waited s = (st, res, t) ∧ (st = .ok ∨ st = .governed) ∧ Commits lines s t := by
  refine ⟨_, _, _, rfl, ?_, commitEpoch_commits lines ageMs s⟩
  split
  · exact .inl rfl
  · exact .inr rfl

/-! `EPOCH_COMMIT`, at once or after its wait (R219, R229, R230) -/

section
variable {ring : Nat} {o : EpochCommitOps} {s : Chip} (hc : commitCheck o s = none)
include hc

theorem epochCommit_of_allowed (ha : commitAllowed s = true) {st : Status} {res : DWord} {t : Chip}
    (hr : commitResult o.lines o.ageMs 0 s = (st, res, t)) : epochCommit ring o s = .done st res t := by
  simp only [epochCommit, hc, ha, if_true, hr]

theorem epochCommit_of_refused (ha : commitAllowed s = false) : epochCommit ring o s = .going (modPkt (fun k =>
    { k with epoch := { k.epoch with waiting := some (ring, o.lines, o.ageMs, o.timeoutMs, runNs s) } }) s) := by
  simp only [epochCommit, hc, ha, Bool.false_eq_true, if_false]

end

section
variable {s : State} {ring lines ageMs tmo start : Nat} (hd : dead s.chip = false)
  (hw : s.chip.pkt.epoch.waiting = some (ring, lines, ageMs, tmo, start))
include hd hw

theorem epochCommitProceed_ends (ha : commitAllowed s.chip = true) {st : Status} {res : DWord} {t : Chip}
    (hr : commitResult lines ageMs (elapsed s.chip start) s.chip = (st, res, t)) : Ends .epochCommitProceed s ring st res t :=
  becomes_of_onChip (show _ = execEpochCommitProceed s from rfl) (by
    simp only [hw, hd, ha, hr, Bool.not_true, Bool.or_self, Bool.false_eq_true, if_false])

theorem epochCommitTimeout_ends (ha : commitAllowed s.chip = false) (ht : tmo * 1000000 ≤ elapsed s.chip start) :
    ∃ res, Ends .epochCommitTimeout s ring .timeout res
      { s.chip with pkt := { s.chip.pkt with epoch := { s.chip.pkt.epoch with waiting := none } } } :=
  ⟨_, becomes_of_onChip (show _ = execEpochCommitTimeout s from rfl) (by
    simp only [hw, hd, ha, decide_eq_false (Nat.not_lt.2 ht), Bool.or_self, Bool.false_eq_true, if_false]
    rfl)⟩

end

/-! Retirement (R217, R242) -/

theorem retireEpoch_retires (s : Chip) : (retireEpoch s).pkt.epoch.draining = false ∧ (retireEpoch s).pkt.epoch.cur = s.pkt.epoch.cur ∧
    ∀ e n, (lineOf (retireEpoch s) e n).drnProg = none ∧ (lineOf (retireEpoch s) e n).drnGraph = none := by
  refine ⟨rfl, ?_, fun e n => ?_⟩
  · simp only [retireEpoch, noteStale, modPkt, pkt_foldl (fun _ _ => lineCount_pkt ..)]
  · refine sget_of_forall (p := fun l : LineSt => l.drnProg = none ∧ l.drnGraph = none) ⟨rfl, rfl⟩ (fun x hx => ?_) n
    cases e <;>
    · obtain ⟨y, -, rfl⟩ := List.mem_map.1 (List.mem_filter.1 hx).1
      exact ⟨rfl, rfl⟩

section
variable {s : State} (hd : dead s.chip = false) (hdr : s.chip.pkt.epoch.draining = true)
include hd hdr

theorem becomes_epochDrained (h : drainingHeld s.chip = 0) : Becomes .epochDrained s (retireEpoch s.chip) :=
  becomes_of_onChip (show _ = execEpochDrained s from rfl) (if_neg (by
    simp only [hd, hdr, h, Bool.not_true, Bool.or_self, ne_eq, not_true_eq_false, decide_false, Bool.false_eq_true, not_false_eq_true]))

theorem becomes_epochAgeLimit (h : s.chip.pkt.epoch.ageMs * 1000000 ≤ elapsed s.chip s.chip.pkt.epoch.phase2) :
    Becomes .epochAgeLimit s (retireEpoch s.chip) :=
  becomes_of_onChip (show _ = execEpochAgeLimit s from rfl) (if_neg (by
    simp only [hd, hdr, decide_eq_false (Nat.not_lt.2 h), Bool.not_true, Bool.or_self, Bool.false_eq_true, not_false_eq_true]))

end

/-- Settles O35: a commit by whether R219 allows it, at once or after its wait; a retirement by what ends the drain. -/
theorem Settled.epochCommit : Obligations.EpochCommit := by
  unfold Obligations.EpochCommit
  refine fun s => ⟨fun ring o h hn hc => ⟨fun ha => ?commits, fun ha => ?waits⟩,
    fun ring lines ageMs tmo start hd hw => ⟨fun ha => ?proceeds, fun ha ht => epochCommitTimeout_ends hd hw ha ht⟩,
    fun hd hdr => ⟨fun hheld => ?drained, fun hage => ?aged⟩⟩
  case commits =>
    obtain ⟨st, res, t, hr, hst, hcommits⟩ := commitResult_commits o.lines o.ageMs 0 s.chip
    exact ⟨st, res, t, ends_of_done rfl h hn (epochCommit_of_allowed hc ha hr), hst, hcommits⟩
  case waits =>
    obtain ⟨t, run, hb, hpkt, hrun⟩ := becomes_of_going rfl h hn (epochCommit_of_refused hc ha) rfl
    exact ⟨t, run, hb, congrArg PacketSt.epoch hpkt, hrun⟩
  case proceeds =>
    obtain ⟨st, res, t, hr, hst, hcommits⟩ := commitResult_commits lines ageMs (elapsed s.chip start) s.chip
    exact ⟨st, res, t, epochCommitProceed_ends hd hw ha hr, hst, hcommits⟩
  case drained => exact ⟨_, becomes_epochDrained hd hdr hheld, retireEpoch_retires s.chip⟩
  case aged => exact ⟨_, becomes_epochAgeLimit hd hdr hage, retireEpoch_retires s.chip⟩

end Sys2Proof.Machine
end

section
/-!
PROOFS. Learning, flap trackers, the aging sweep and the TCAM scrubber (R251, R252, R256, R258, R259, R261): counter words of a Line's Cabin,
a change of one table instance, and what each engine of a Line leaves of its instances.
-/

namespace Sys2Proof.Machine

/-- A command on a unit that exists does to the chip what its function does. -/
theorem becomes_of_onUnit {c : Instr} {s : State} {b : Bool} {f : Chip → Chip} {t : Chip} (hc : exec c s = onUnit b s f) (hb : b = true)
    (h : f s.chip = t) : Becomes c s t := by
  rw [Becomes, hc, onUnit_next hb, h]

/-! Counters of a Cabin (R8) -/

theorem mergeW_ones (old v : Word) : mergeW old v 0xFFFFFFFF#32 = v := by
  rw [mergeW, show ~~~0xFFFFFFFF#32 = 0#32 by decide, show 0xFFFFFFFF#32 = BitVec.allOnes 32 by decide, BitVec.and_zero, BitVec.zero_or,
    BitVec.and_allOnes]

/-- A counter word saturates at all ones. -/
theorem toNat_liveW_bump (i : Isl) (off n : Nat) (s : Chip) :
    (liveW (bump i off n s) (caddr i off)).toNat = min 0xFFFFFFFF ((liveW s (caddr i off)).toNat + n) := by
  have hold : fieldOf s i off 0 32 = (liveW s (caddr i off)).toNat := by
    rw [fieldOf, bits, Nat.pow_zero, Nat.div_one, Nat.mod_eq_of_lt (BitVec.isLt _)]
  have hones : packW [(0, 32, 2 ^ 32 - 1)] = 0xFFFFFFFF#32 := by decide
  rw [bump, bumpField, hold, satAdd_eq_min, setField', liveW_setLive, if_pos rfl, hones, mergeW_ones]
  simp only [packW, pack, BitVec.toNat_ofNat]
  omega

theorem liveW_bump_other {ca off : Nat} {i : Isl} (h : ca ≠ caddr i off) (n : Nat) (s : Chip) : liveW (bump i off n s) ca = liveW s ca :=
  (Prod.mk.inj (wordView_bumpField h 0 32 n s)).2

/-- Every count of a Line, that of nothing too, adds to the value its word had. -/
theorem toNat_liveW_lineCount (e : Bool) (n off k : Nat) (s : Chip) :
    (liveW (lineCount e n off k s) (caddr (lineIsl e n) off)).toNat = min 0xFFFFFFFF ((liveW s (caddr (lineIsl e n) off)).toNat + k) := by
  unfold lineCount
  split
  · have := (liveW s (caddr (lineIsl e n) off)).isLt
    omega
  · exact toNat_liveW_bump ..

theorem liveW_lineCount_other {off off' : Nat} (h : off ≠ off') (e : Bool) (n k : Nat) (s : Chip) :
    liveW (lineCount e n off' k s) (caddr (lineIsl e n) off) = liveW s (caddr (lineIsl e n) off) := by
  unfold lineCount
  split
  · rfl
  · exact liveW_bump_other (fun hca => h (Nat.add_left_cancel hca)) k s

theorem liveW_modLine (e : Bool) (n : Nat) (f : LineSt → LineSt) (s : Chip) : liveW (modLine e n f s) = liveW s := by
  cases e <;> exact funext fun ca => liveW_congr rfl rfl ca

theorem liveW_modInst (e : Bool) (n iid : Nat) (f : Inst → Inst) (s : Chip) : liveW (modInst e n iid f s) = liveW s := liveW_modLine ..

/-! One table instance of a Line -/

theorem instOf_congr {s t : Chip} (h : lineOf t = lineOf s) : instOf t = instOf s := by
  unfold instOf
  rw [h]

@[simp] theorem instOf_lineCount (e : Bool) (n off k : Nat) (s : Chip) : instOf (lineCount e n off k s) = instOf s :=
  instOf_congr (lineOf_lineCount ..)

theorem iid_of_instOf {s : Chip} {e : Bool} {n iid : Nat} {t : Inst} (h : instOf s e n iid = some t) : t.iid = iid := by
  simpa using List.find?_some h

/-- The instance that a change addresses, where the change keeps its number. -/
theorem instOf_modInst {s : Chip} {e : Bool} {n iid : Nat} {t : Inst} {f : Inst → Inst} (ht : instOf s e n iid = some t)
    (hf : (f t).iid = t.iid) : instOf (modInst e n iid f s) e n iid = some (f t) := by
  have hiid := iid_of_instOf ht
  unfold instOf at ht ⊢
  rw [modInst, lineOf_modLine, if_pos rfl]
  dsimp only
  generalize (lineOf s e n).insts = l at ht
  induction l with
  | nil => cases ht
  | cons x l ih =>
    by_cases hx : x.iid = iid
    · obtain rfl : x = t := by simpa [hx] using ht
      simp [hx, hf]
    · rw [List.find?_cons_of_neg (by simpa using hx)] at ht
      rw [List.map_cons, if_neg hx, List.find?_cons_of_neg (by simpa using hx), ih ht]

theorem learnQ_modInst (e : Bool) (n iid : Nat) (f : Inst → Inst) (s : Chip) :
    (lineOf (modInst e n iid f s) e n).learnQ = (lineOf s e n).learnQ := by
  rw [modInst, lineOf_modLine, if_pos rfl]

/-! Table events (R263) -/

theorem ringEvent_pkt (s : Chip) : (ringEvent s).pkt = s.pkt := by
  unfold ringEvent
  split
  · rfl
  · exact msix_pkt ..

theorem dmaComplete_pkt (q : Nat) (body : Bool → List Byte) (s : Chip) : (dmaComplete q body s).pkt = s.pkt := msix_pkt ..

theorem deliverInto_pkt (q : Nat) (x : HostRx) (ds : List (Nat × Option (List Byte))) (s : Chip) : (deliverInto q x ds s).2.pkt = s.pkt := by
  induction ds generalizing s with
  | nil => rfl
  | cons d ds ih =>
    obtain ⟨slot, _ | bytes⟩ := d <;> rw [deliverInto]
    · split
      · rfl
      · exact ringEvent_pkt _
    · dsimp only
      split
      · rfl
      · split
        · exact (ih _).trans (dmaComplete_pkt ..)
        · exact dmaComplete_pkt ..

theorem postRecord_pkt (i : Isl) (lostAt q : Nat) (bs : List Byte) (s : Chip) : (postRecord i lostAt q bs s).pkt = s.pkt := by
  have htry (x : HostRx) : (deliverTry q x s).2.pkt = s.pkt := by
    unfold deliverTry
    dsimp only
    split
    · rfl
    · exact deliverInto_pkt ..
  unfold postRecord
  dsimp only
  split
  · exact bump_pkt ..
  · split
    · exact htry _
    · exact (bump_pkt ..).trans (htry _)

/-- A table event goes to the host and to no Line. -/
theorem lineOf_tableEvent (e : Bool) (n evq : Nat) (r : EventRec) (s : Chip) : lineOf (tableEvent e n evq r s) = lineOf s :=
  lineOf_of_pkt (postRecord_pkt ..)

/-! Insertion and removal of an entry (R246, R247, R249) -/

theorem exactInsert_iid {t : Inst} {deep : Bool} {e : Entry} {x : Inst × Nat × Nat} (h : exactInsert t deep e = some x) :
    x.1.iid = t.iid := by
  unfold exactInsert at h
  split at h
  · cases h; rfl
  · split at h
    · cases h; rfl
    · cases h

theorem insertEntry_iid {t : Inst} {deep : Bool} {e : Entry} {x : Inst × Nat} (h : insertEntry t deep e = some x) : x.1.iid = t.iid := by
  unfold insertEntry at h
  split at h
  · obtain ⟨y, hy, rfl⟩ := Option.map_eq_some_iff.1 h
    exact exactInsert_iid hy
  · dsimp only at h
    split at h
    · cases h; rfl
    · cases h

theorem removeEntry_exact {t : Inst} (h : t.decl.tkind = 1) (loc : Nat) : removeEntry t loc = ({ t with ents := sdel t.ents loc }, 0) := by
  unfold removeEntry
  rw [if_pos (by simp [h])]

/-! Learning (R251, R252, R257) -/

/-- An engine that meets no bad word goes on as it was. -/
theorem meetEngine_nil (e : Bool) (n iid : Nat) (insert deep : Bool) (key : Nat) (s : Chip) :
    meetEngine e n iid insert deep key [] s = ([], s) := by
  unfold meetEngine
  split
  · rfl
  · split <;> rfl

/-- The entry that a learn of an absent key inserts. -/
def learnedEntry (t : Inst) (key value : Nat) : Entry :=
  { key := key, action := t.decl.learnAction, ad := value :: repl (t.decl.adWords - 1) 0, learned := true, hbit := true }

/-- A learn with no room leaves the Line as it is, or writes the pending list of the instance. -/
theorem lineOf_learnFail (n : Nat) (keep : Bool) (t : Inst) (key value : Nat) (s : Chip) :
    lineOf (learnFail n keep t key value s) = lineOf s ∨
    ∃ f : Inst → Inst, (∀ x, (f x).iid = x.iid ∧ (f x).ents = x.ents) ∧
      lineOf (learnFail n keep t key value s) = lineOf (modInst false n t.iid f (lineCount false n 0x0808 1 s)) := by
  have hevent (due : Bool) (r : EventRec) (u : Chip) :
      lineOf (if due = true then tableEvent false n t.decl.evq r u else u) = lineOf u := by
    cases due
    · rfl
    · exact lineOf_tableEvent ..
  unfold learnFail
  dsimp only
  split
  · exact .inl (lineOf_lineCount ..)
  · refine .inr ⟨_, ?_, hevent ..⟩
    exact fun x => ⟨rfl, rfl⟩

section
variable {n iid key value : Nat} {deep keep : Bool} {s : Chip} {t : Inst} (ht : instOf s false n iid = some t)
  (habs : exactFind t key true = none)
include ht habs

theorem learnOne_of_room {x : Inst × Nat} (hx : insertEntry t deep (learnedEntry t key value) = some x) :
    (learnOne n deep keep iid key value s).2 =
      lineCount false n 0x0818 x.2 (lineCount false n 0x0800 1 (modInst false n iid (fun _ => x.1) s)) := by
  unfold learnedEntry at hx
  simp only [learnOne, ht, habs, hx]

theorem learnOne_of_full (hx : insertEntry t deep (learnedEntry t key value) = none) :
    (learnOne n deep keep iid key value s).2 = learnFail n keep t key value s := by
  unfold learnedEntry at hx
  simp only [learnOne, ht, habs, hx]

/-- An absent key with room is inserted and counted in LN_LEARNED. -/
theorem learnOne_inserts {x : Inst × Nat} (hx : insertEntry t deep (learnedEntry t key value) = some x) :
    let u := (learnOne n deep keep iid key value s).2
    instOf u false n iid = some x.1 ∧
      (liveW u (caddr (.iline n) 0x0800)).toNat = min 0xFFFFFFFF ((liveW s (caddr (.iline n) 0x0800)).toNat + 1) := by
  dsimp only
  rw [learnOne_of_room ht habs hx, instOf_lineCount, instOf_lineCount]
  refine ⟨instOf_modInst ht (insertEntry_iid hx), ?_⟩
  have hcount := toNat_liveW_lineCount false n 0x0800 1 (modInst false n iid (fun _ => x.1) s)
  rw [liveW_modInst] at hcount
  exact (congrArg BitVec.toNat (liveW_lineCount_other (by decide) false n x.2 _)).trans hcount

/-- An absent key without room leaves the entries as they were. -/
theorem learnOne_keeps (hx : insertEntry t deep (learnedEntry t key value) = none) :
    ∃ t', instOf (learnOne n deep keep iid key value s).2 false n iid = some t' ∧ t'.ents = t.ents := by
  rw [learnOne_of_full ht habs hx]
  obtain hline | ⟨f, hf, hline⟩ := lineOf_learnFail n keep t key value s
  · exact ⟨t, by rw [instOf_congr hline, ht], rfl⟩
  · rw [instOf_congr hline, iid_of_instOf ht]
    exact ⟨f t, instOf_modInst (by rw [instOf_lineCount, ht]) (hf t).1, (hf t).2⟩

/-- A learn takes no other submission. -/
theorem learnQ_learnOne : (lineOf (learnOne n deep keep iid key value s).2 false n).learnQ = (lineOf s false n).learnQ := by
  cases hx : insertEntry t deep (learnedEntry t key value) with
  | some x => rw [learnOne_of_room ht habs hx, lineOf_lineCount, lineOf_lineCount, learnQ_modInst]
  | none =>
    rw [learnOne_of_full ht habs hx]
    obtain hline | ⟨f, -, hline⟩ := lineOf_learnFail n keep t key value s <;> rw [hline]
    rw [learnQ_modInst, lineOf_lineCount]

end

/-- The submissions of a Line once the first is taken. -/
def takeLearn (n : Nat) (rest : List LearnSub) (s : Chip) : Chip := modLine false n (fun l => { l with learnQ := rest }) s

theorem learnQ_takeLearn (n : Nat) (rest : List LearnSub) (s : Chip) : (lineOf (takeLearn n rest s) false n).learnQ = rest := by
  rw [takeLearn, lineOf_modLine, if_pos rfl]

theorem instOf_takeLearn (n : Nat) (rest : List LearnSub) (s : Chip) (iid : Nat) :
    instOf (takeLearn n rest s) false n iid = instOf s false n iid := by
  rw [instOf, takeLearn, lineOf_modLine, if_pos rfl, instOf]

theorem applyLearn_eq {n : Nat} {q : LearnSub} {rest : List LearnSub} {s : Chip} (hd : dead s = false)
    (hq : (lineOf s false n).learnQ = q :: rest) :
    applyLearn n [] s = (learnOne n false true q.iid q.key q.value (takeLearn n rest s)).2 := by
  simp only [applyLearn, hq, hd, Bool.false_eq_true, if_false, meetEngine_nil]
  rfl

/-! Flap trackers (R256) -/

theorem lineOf_modLine_other {e d : Bool} {n k : Nat} (h : d ≠ e ∨ k ≠ n) (f : LineSt → LineSt) (s : Chip) :
    lineOf (modLine e n f s) d k = lineOf s d k := lineOf_modLines_other (ns := [n]) (by simpa using h) f s

section
variable {s : State} {n k : Nat} {x : Tracker} (hn : n < 36) (hx : (lineOf s.chip false n).trackers[k]? = some x)
include hn hx

theorem flapTrackerExpiry_over (hd : dead s.chip = false) (hover : trackerOver s.chip n x = true) :
    Becomes (.flapTrackerExpiry n k) s
      (modLine false n (fun l => { l with trackers := l.trackers.take k ++ l.trackers.drop (k + 1) }) s.chip) := by
  refine becomes_of_onUnit rfl (decide_eq_true hn) ?_
  simp only [hx, hd, hover, Bool.not_true, Bool.or_self, Bool.false_eq_true, if_false]

theorem flapTrackerExpiry_early (hover : trackerOver s.chip n x = false) : Becomes (.flapTrackerExpiry n k) s s.chip := by
  refine becomes_of_onUnit rfl (decide_eq_true hn) ?_
  simp only [hx, hover, Bool.not_false, Bool.or_true, if_true]

end

/-! The aging sweep (R258, R259) -/

/-- What a visit of the sweeper leaves of an entry, with a hit in its clock or without. -/
def sweptEntry (hit : Bool) (e : Entry) : Option Entry :=
  if e.hbit then some { e with hbit := hit, abit := false } else if hit then some { e with hbit := true, abit := true }
  else if e.abit then none else some { e with abit := true }

/-- An EXACT instance with that in a location. -/
def sweptInst (loc : Nat) (o : Option Entry) (t : Inst) : Inst :=
  match o with | some e => setEntry t loc e | none => (removeEntry t loc).1

theorem sweptInst_iid {t : Inst} (hk : t.decl.tkind = 1) (loc : Nat) (o : Option Entry) : (sweptInst loc o t).iid = t.iid := by
  cases o with
  | none => rw [sweptInst, removeEntry_exact hk]
  | some e => rfl

theorem sfind_sweptInst {t : Inst} (hk : t.decl.tkind = 1) (loc : Nat) (o : Option Entry) (l : Nat) :
    sfind (sweptInst loc o t).ents l = if l = loc then o else sfind t.ents l := by
  cases o with
  | none => rw [sweptInst, removeEntry_exact hk]; exact sfind_sdel ..
  | some e => exact sfind_sins ..

/-- A visit writes back what it leaves of the entry, and counts one that it removes in LN_AGED. -/
theorem sweep_eq {eg hit : Bool} {n iid loc : Nat} {s : Chip} {t : Inst} {e : Entry} (hd : dead s = false)
    (ht : instOf s eg n iid = some t) (hk : t.decl.tkind = 1) (hages : bit t.decl.tflags 0 = true) (hloc : loc < roomOf t.decl)
    (he : sfind t.ents loc = some e) (hvis : e.vis = 0) (hstatic : e.static = false) :
    sweep eg n iid loc hit none s =
      lineCount eg n 0x0814 (b2n (sweptEntry hit e).isNone) (modInst eg n iid (sweptInst loc (sweptEntry hit e)) s) := by
  have hruns : ¬ (dead s || !(decide (t.decl.tkind = 1) && bit t.decl.tflags 0 && decide (loc < roomOf t.decl))) = true := by
    simp [hd, hk, hages, hloc]
  have hmay : ¬ (decide (e.vis ≠ 0) || e.static) = true := by simp [hvis, hstatic]
  unfold sweep
  simp only [ht, if_neg hruns, Option.bind_some, he, if_neg hmay]
  by_cases hhbit : e.hbit = true
  · rw [if_pos hhbit, show sweptEntry hit e = some _ from if_pos hhbit]; rfl
  rw [if_neg hhbit]
  by_cases hhit : hit = true
  · rw [if_pos hhit, show sweptEntry hit e = some _ from (if_neg hhbit).trans (if_pos hhit)]; rfl
  rw [if_neg hhit]
  by_cases habit : e.abit = true
  · rw [if_pos habit, show sweptEntry hit e = none from (if_neg hhbit).trans ((if_neg hhit).trans (if_pos habit))]; rfl
  · rw [if_neg habit, show sweptEntry hit e = some _ from (if_neg hhbit).trans ((if_neg hhit).trans (if_neg habit))]; rfl

theorem sweptEntry_isNone (hit : Bool) (e : Entry) : (sweptEntry hit e).isNone = true ↔ e.hbit = false ∧ hit = false ∧ e.abit = true := by
  unfold sweptEntry
  cases e.hbit <;> cases hit <;> cases e.abit <;> simp

/-- A visit counts what it removes: an entry with H at 0 and marked, that no lookup hits in the sweeper's clock. -/
theorem sweep_counts (hit : Bool) (e : Entry) (eg : Bool) (n : Nat) (s : Chip) :
    (liveW (lineCount eg n 0x0814 (b2n (sweptEntry hit e).isNone) s) (caddr (lineIsl eg n) 0x0814)).toNat =
      if e.hbit = false ∧ hit = false ∧ e.abit = true then min 0xFFFFFFFF ((liveW s (caddr (lineIsl eg n) 0x0814)).toNat + 1)
      else (liveW s (caddr (lineIsl eg n) 0x0814)).toNat := by
  rw [toNat_liveW_lineCount]
  split
  · next h => rw [(sweptEntry_isNone hit e).2 h]; rfl
  · next h =>
    rw [Bool.eq_false_iff.2 (mt (sweptEntry_isNone hit e).1 h)]
    exact Nat.min_eq_right (Nat.le_of_lt_succ (BitVec.isLt _))

/-! The TCAM scrubber (R261) -/

section
variable {eg : Bool} {n slice : Nat} {s : Chip} (hd : dead s = false) (hf : isFenced s (lineIsl eg n) = false)
  (hslice : slice < 2048 * tcamBlocks eg) (mask : Nat)
include hd hf hslice

theorem scrub_clean : scrub eg n slice (some (mask, .clean)) s = raise (lineIsl eg n) (0x50 + slice / 2048) clsTable 1 s := by
  simp only [scrub, hd, hf, Nat.not_le.2 hslice, Bool.or_self, decide_false, Bool.false_eq_true, if_false]

theorem scrub_ownerless (hown : sliceOwner (lineOf s eg n) slice = none) :
    scrub eg n slice (some (mask, .bad)) s = raise (lineIsl eg n) (0x50 + slice / 2048) clsTable 2 s := by
  simp only [scrub, hd, hf, Nat.not_le.2 hslice, Bool.or_self, decide_false, Bool.false_eq_true, if_false, hown]

end

/-- Settles O38: the update engine by whether `insertEntry` finds room, an expiry by `trackerOver`, a visit of the sweeper by `sweep_eq`. -/
theorem learning : Obligations.Learning := by
  unfold Obligations.Learning
  refine ⟨fun s n q rest t hn hd hq ht habs => ?learn, fun s n k x hn hd hx => ⟨fun hover => ?expired, ?early⟩,
    fun s n iid loc eg hit t e hn hd ht hk hages hloc he hvis hstatic => ?sweep, fun s n slice mask eg hn hd hf hslice => ?scrub⟩
  case learn =>
    have hbec : Becomes (.learnApply n []) s (learnOne n false true q.iid q.key q.value (takeLearn n rest s.chip)).2 :=
      becomes_of_onUnit rfl (decide_eq_true hn) (applyLearn_eq hd hq)
    have ht' : instOf (takeLearn n rest s.chip) false n q.iid = some t := by rw [instOf_takeLearn, ht]
    refine ⟨_, hbec, by rw [learnQ_learnOne ht' habs, learnQ_takeLearn], ?_⟩
    split
    · next x hx =>
      obtain ⟨hinst, hcount⟩ := learnOne_inserts (keep := true) ht' habs hx
      rw [takeLearn, liveW_modLine] at hcount
      exact ⟨hinst, hcount⟩
    · next hx => exact learnOne_keeps ht' habs hx
  case expired =>
    refine ⟨_, flapTrackerExpiry_over hn hx hd hover, fun eg m hother => lineOf_modLine_other (by simpa using hother) _ _,
      by rw [lineOf_modLine, if_pos rfl]⟩
  case early => exact flapTrackerExpiry_early hn hx
  case sweep =>
    refine ⟨_, sweptInst loc (sweptEntry hit e) t, becomes_of_onUnit rfl (decide_eq_true hn)
      (sweep_eq hd ht hk hages hloc he hvis hstatic), ?_, ?_, fun l hl => ?_, ?_⟩
    · rw [instOf_lineCount, instOf_modInst ht (sweptInst_iid hk ..)]
    · rw [sfind_sweptInst hk, if_pos rfl, sweptEntry]
    · rw [sfind_sweptInst hk, if_neg hl]
    · rw [sweep_counts, liveW_modInst]
  case scrub =>
    have hbec {find : ScrubFind} {u : Chip} (h : scrub eg n slice find s.chip = u) : Becomes (.tcamScrub n eg slice find) s u :=
      becomes_of_onUnit rfl (decide_eq_true hn) h
    exact ⟨hbec (scrub_clean hd hf hslice mask), fun hown => hbec (scrub_ownerless hd hf hslice mask hown)⟩

end Sys2Proof.Machine
end

section
/-!
PROOFS. Table Orders (R250, R265, R268): a DUMP that starts past the last index of a DIRECT or ADATA table ends with RANGE.
-/

namespace Sys2Proof.Machine

/-- An Order at work ends with one status alone. -/
theorem Ends.status_eq {c : Instr} {s : State} {ring : Nat} {st st' : Status} {res res' : DWord} {t t' : Chip} (he : Ends c s ring st res t)
    (h : AtWork s ring c) (ht : ringOf t = ringOf s.chip) (he' : Ends c s ring st' res' t')
    (ht' : ringOf t' = ringOf s.chip) :
    st = st' := by
  obtain ⟨-, -, -, run, hrun, -, hout, -⟩ := h
  have hchip : finishOrder ring st res t = finishOrder ring st' res' t' :=
    congrArg State.chip (Host.Outcome.next.inj (Eq.trans (Eq.symm he) he'))
  have hst := running_finishOrder ring st res t run (by rw [ht, hrun]) hout
  rw [hchip, running_finishOrder ring st' res' t' run (by rw [ht', hrun]) hout] at hst
  exact (Prod.mk.inj (Option.some.inj (congrArg Running.outcome (Option.some.inj hst)))).1.symm

/-- The checks of a DUMP pass (R265), and its start lies past the last index of a DIRECT or ADATA table. -/
theorem tableDump_past_end {o : TableOps} {s : Chip} {t : Inst} {r : Rec} (hr : recAt o.payload.data 0 = r) (hcheck : plainCheck true o s = none)
    (hcommon : r.common = true) (ht : orderInst (lineOf s o.egress ((linesOf o.lines).headD 0)) false r.id = some t)
    (hok : recOk t.decl { r with index := 0 } = true) (hk : 4 ≤ t.decl.tkind) (hi : t.decl.entries ≤ r.index) (met : List TableDefect) :
    tableDump o met s = (.range, 0, s) := by
  simp only [tableDump, hcheck, hr, hcommon, ht, hok, hk, hi, Bool.not_true, Bool.false_eq_true, if_false, decide_true, Bool.and_self, if_true]

/-- A DIRECT table with two entries. -/
def twoEntries : TableDecl :=
  { id := 0, tkind := 4, keyBits := 0, adWords := 1, adMode := 0, adTable := 0, tflags := 0, blocks := 0, learnAction := 0, evq := 0xFF
    pfxWidth := 0, pfxLsb := 0, agePeriod := 0, hseed := 0, entries := 2, missAd := [] }
def twoEntriesInst : Inst := { iid := 0, decl := twoEntries, initAd := [0] }

/-- A DUMP of it on ingress Line 0 from index 2 on. -/
def dumpFromTwo : TableOps :=
  { lines := 1, egress := false, epoch := false, deep := false, absentOk := false, count := 1
    payload := { addr := 0, len := 176, data := repl 8 0 ++ leBytes 4 2 ++ repl 164 0 } }

/-- The Order that asks for it. -/
def dumpRun : Running :=
  { cmd := some (.tableModDump 0 dumpFromTwo []), tag := 0, index := 0, notify := false, progress := false, seq := 0, start := 0 }

/-- The device up, with that table in the Line's program and the Order at work on ring 0. -/
def dumping : Chip :=
  let p : Prog := { egress := false, progId := 0, crc := 0, courses := [], headers := [], deparse := [], tables := [twoEntries], ledgers := [] }
  { power := { supplyHeld := false }
    host := { rings := [(0, { enable := true, running := some dumpRun })] }
    pkt := { ilines := [(0, { live := true, curProg := some { prog := p, binds := [(0, 0)], lbinds := [] }, insts := [twoEntriesInst] })] } }

theorem atWork_dumping : AtWork { chip := dumping } 0 (.tableModDump 0 dumpFromTwo []) := by
  exact ⟨by decide, by decide, by decide, dumpRun, rfl, rfl, rfl, rfl⟩

/-- Refutes O36: its clause on DUMP asks for no start below ENTRIES, as the checks of R268 do. On a DIRECT table with two entries, a DUMP
that starts at index 2 ends with RANGE, where the statement has OK. -/
theorem not_tableOrders : ¬ Obligations.TableOrders := by
  unfold Obligations.TableOrders
  intro h
  have hcheck : listCheck dumpFromTwo dumping = none := by decide
  have hinst : orderInst (lineOf dumping false 0) false (recAt dumpFromTwo.payload.data 0).id = some twoEntriesInst := by decide
  have hneeds : lineNeeds dumpFromTwo.lines dumping = [] := by decide
  obtain ⟨-, hreads, -⟩ := h { chip := dumping } 0 0 dumpFromTwo twoEntriesInst hneeds (by decide) rfl rfl hcheck (by decide)
  obtain ⟨res, bs, hok, -⟩ := (hreads rfl hinst).2 atWork_dumping (by decide)
  have hrange : tableDump dumpFromTwo [] dumping = (.range, 0, dumping) :=
    tableDump_past_end rfl (by decide) (by decide) hinst (by decide) (by decide) (by decide) []
  have hends : Ends (.tableModDump 0 dumpFromTwo []) { chip := dumping } 0 .range 0 dumping :=
    ends_of_effect rfl atWork_dumping hneeds hrange
  exact absurd (hends.status_eq atWork_dumping rfl hok rfl) (by decide)

end Sys2Proof.Machine
end

section
/-!
PROOFS. What `settle` leaves of a chip whose boot sequence has not begun (R82): no fault of a Yard is recorded then, and only the accounts
follow. Two statements that range over every state fail there on numbers outside R27, since `caddr` adds an offset that no Cabin bounds
to the code of an island: the admission of a frame (R279, R290), and the plan that `QUEUE_SET` derives (R292, R320).
-/

namespace Sys2Proof.Machine

theorem Becomes.unique {c : Instr} {s : State} {t t' : Chip} (h : Becomes c s t) (h' : Becomes c s t') : t = t' :=
  congrArg State.chip (Host.Outcome.next.inj (Eq.trans (Eq.symm h) h'))

/-! Settling before the boot sequence begins (R82) -/

theorem raise_yard_of_bootPending {s : Chip} (h : s.boot.pending = true) (y loc cls sev : Nat) : raise (.yard y) loc cls sev s = s := by
  rw [raise, raiseIn, if_pos (by simp [h]), if_neg nofun]

theorem settle_of_bootPending {s : Chip} (h : s.boot.pending = true) : settle s = account s := by
  have hkeep : retireLimit s = s := by
    unfold retireLimit
    refine List.foldlRecOn (motive := fun t : Chip => t = s) _ _ rfl ?_
    rintro _ rfl y -
    rw [raise_yard_of_bootPending h, ite_self]
  rw [settle, hkeep]

theorem boot_settle (s : Chip) : (settle s).boot = s.boot := boot_of_kept (settle_kept s)

/-! What bringing the accounts up to date leaves -/

/-- A view of the chip that no step of `account` changes: XOFF states and PFC frames, spill modes, maps, the draining key and the stale counts. -/
structure AccountKeeps {β : Type} (φ : Chip → β) : Prop where
  xoff : ∀ y l s, φ (modYard y (fun v => { v with xoff := l }) s) = φ s
  emit : ∀ o s, φ (emit o s) = φ s
  count : ∀ k i s, φ (pmcCount (.platform k) 0x24 i s) = φ s
  queue : ∀ q l s, φ (setQueue q l s) = φ s
  queueSt : ∀ q f s, φ (modQueueSt q f s) = φ s
  quarry : ∀ q f s, φ (modQuarry q f s) = φ s
  cipher : ∀ c s, φ { s with cipher := c } = φ s
  stale : ∀ s, φ (noteStale s) = φ s

theorem foldl_keeps {α β : Type} {φ : Chip → β} {f : Chip → α → Chip} (h : ∀ s a, φ (f s a) = φ s) (l : List α) (s : Chip) :
    φ (l.foldl f s) = φ s := by
  induction l generalizing s with
  | nil => rfl
  | cons a l ih => exact (ih _).trans (h s a)

namespace AccountKeeps

variable {β : Type} {φ : Chip → β} (h : AccountKeeps φ)
include h

theorem sendPfc (p g : Nat) (on : Bool) (s : Chip) : φ (sendPfc p g on s) = φ s := by
  unfold Machine.sendPfc
  split
  · rfl
  · dsimp only
    split
    · refine foldl_keeps (fun s k => ?_) _ _
      simp only [apply_ite φ, h.count, h.emit, ite_self]
    · rfl

theorem xoffUpdate (s : Chip) : φ (xoffUpdate s) = φ s := by
  unfold Machine.xoffUpdate
  dsimp only
  rw [foldl_keeps (φ := φ), foldl_keeps (φ := φ)]
  · intro t y; simp only [apply_ite φ, h.xoff, ite_self]
  · intro t r; simp only [apply_ite φ, h.sendPfc, ite_self]

theorem spillModes (s : Chip) : φ (spillModes s) = φ s := by
  unfold Machine.spillModes
  dsimp only
  rw [foldl_keeps (φ := φ), foldl_keeps (φ := φ)]
  · intro t x; simp only [apply_ite φ, h.queue, h.queueSt, ite_self]
  · intro t q; simp only [apply_ite φ, h.queueSt, ite_self]

theorem rebuildMap (q : Nat) (s : Chip) : φ (rebuildMap q s) = φ s := by
  simp only [Machine.rebuildMap, apply_ite φ, h.quarry, ite_self]

theorem spillKeyDrain (s : Chip) : φ (spillKeyDrain s) = φ s := by
  unfold Machine.spillKeyDrain
  split
  · rfl
  · simp only [apply_ite φ, h.cipher, ite_self]

theorem account (s : Chip) : φ (account s) = φ s := by
  rw [Machine.account, h.stale, h.spillKeyDrain, foldl_keeps fun s q => h.rebuildMap q s, h.spillModes, h.xoffUpdate]

theorem settle {s : Chip} (hs : s.boot.pending = true) : φ (settle s) = φ s := by rw [settle_of_bootPending hs, h.account]

end AccountKeeps

theorem accountKeeps_shares : AccountKeeps (fun s => s.pkt.shares) where
  xoff y l s := by simp only [modYard, setField', apply_ite Chip.pkt, setLive_pkt, ite_self]; rfl
  emit _ _ := rfl
  count _ _ _ := by rw [pmcCount_pkt]
  queue _ _ _ := rfl
  queueSt _ _ _ := rfl
  quarry _ _ _ := rfl
  cipher _ _ := rfl
  stale _ := rfl

/-! Copies and cells: a requester no Yard has (R277) -/

/-- The number of a requester whose first word at Yard 0, laid out as R290 has it, is the first counter of Junction half 0. -/
def farRequester : Nat := ((Isl.jn 0).code - (Isl.yard 0).code) * 2 ^ 28 + 8 - 0x1000

theorem caddr_farRequester : caddr (.yard 0) (0x10000 + 16 * farRequester) = caddr (.jn 0) 0x80 := by decide

/-- A frame for port 0 charged to it, one cell set aside. -/
def farFrame : JnFrame :=
  { fid := 0, half := 0, line := 0, bytes := [], bad := 0, m := { dispKind := 1 }, wb := {}, req := farRequester, group := 0, cells := 1
    first := false, primary := true, mirrors := [], hostCopy := none }

/-- The frame waits in half 0, whose first counter counts the copies formed (R426). The boot sequence is still to begin, so that no fault is
recorded when the accounts follow. -/
def farWaiting : Chip :=
  { power := { supplyHeld := false }, boot := { pending := true }, live := [(caddr (.jn 0) 0x48, 0x80000040#32)]
    pkt := { jn := [farFrame] } }

/-- What half 0 makes of it. -/
def farFormed : Chip := junctionStep 0 none farWaiting

theorem admission_farFrame :
    let q := queueId farFrame.m.dispTarget farFrame.m.tc
    admission farWaiting (queueYard farWaiting q) farFrame.req (max farFrame.cells (cellsOf farFrame.bytes.length)) (depthOf farWaiting q)
      (qlimitOf farWaiting (queueYard farWaiting q) q) = .inl dropQuota := by decide +kernel

theorem farFormed_shares : farFormed.pkt.shares ≠ [] := by decide +kernel

theorem farFormed_boot : farFormed.boot.pending = true := by decide +kernel

/-- Refutes O29: it ranges over every requester number, where R277 has 4,100. The Junction counts the copy it forms before the Yard decides, and
that counter is where the RSV of `farRequester` is read: it is 0 before the step, for which the statement has a refusal, and 1 when the Yard
decides, so the frame is admitted and gets a share. -/
theorem not_copiesAndCells : ¬ Obligations.CopiesAndCells := by
  unfold Obligations.CopiesAndCells
  rintro ⟨hform, -, -⟩
  obtain ⟨u, hu, -, hadm⟩ :=
    hform { chip := farWaiting } 0 farFrame (by decide) ⟨rfl, rfl, rfl⟩ rfl rfl rfl rfl (by decide) (by decide) rfl nofun
  have hformed : Becomes (.copyFormation 0 none) { chip := farWaiting } (settle farFormed) := 
    becomes_of_onUnit (f := fun t => settle (junctionStep 0 none t)) rfl rfl rfl
  dsimp only at hadm
  rw [admission_farFrame] at hadm
  obtain ⟨-, hshares, -⟩ := hadm
  have hsettled : settle u = settle farFormed := hu.unique hformed
  have hboot : u.boot = farFormed.boot := by rw [← boot_settle, hsettled, boot_settle]
  have hkept : u.pkt.shares = farFormed.pkt.shares :=
    calc u.pkt.shares = (settle u).pkt.shares := (accountKeeps_shares.settle (hboot ▸ farFormed_boot)).symm
      _ = (settle farFormed).pkt.shares := by rw [hsettled]
      _ = farFormed.pkt.shares := accountKeeps_shares.settle farFormed_boot
  exact farFormed_shares (hkept.symm.trans hshares)

/-! Queues: a configured port outside R27 -/

theorem liveW_finishOrder (ring : Nat) (st : Status) (res : DWord) (s : Chip) (ca : Nat) : liveW (finishOrder ring st res s) ca = liveW s ca :=
  liveW_congr rfl rfl ca

theorem ne_caddr_of_offset {ca off : Nat} (hca : 0x1000 ≤ ca % 2 ^ 32) (hoff : off < 0x1000) (i : Isl) : ca ≠ caddr i off := by
  unfold caddr; omega

/-- The accounts leave every word past the first 4,096 bytes of its Cabin whose value, unwritten, rests on no plan. -/
theorem accountKeeps_liveW {ca : Nat} (hca : 0x1000 ≤ ca % 2 ^ 32) (hdef : ∀ s t, defWord s ca = defWord t ca) :
    AccountKeeps (fun s => liveW s ca) := by
  have hpkt (f : PacketSt → PacketSt) (s : Chip) : liveW (modPkt f s) ca = liveW s ca := by
    unfold liveW; rw [hdef _ s, modPkt_live]
  refine ⟨fun y l s => ?_, fun _ _ => rfl, fun k i s => ?_, fun _ _ _ => hpkt .., fun _ _ _ => hpkt .., fun _ _ _ => hpkt ..,
    fun _ _ => rfl, fun _ => hpkt ..⟩
  · have hmark : ca ≠ caddr (.yard y) 0x0114 := ne_caddr_of_offset hca (by omega) _
    simp only [modYard, setField', apply_ite (liveW · ca), liveW_setLive, if_neg hmark, ite_self, hpkt]
  · have hcount : ∀ n < 8, ca ≠ caddr (.platform k) (0x80 + 8 * n) ∧ ca ≠ caddr (.platform k) (0x84 + 8 * n) := fun n hn =>
      ⟨ne_caddr_of_offset hca (by omega) _, ne_caddr_of_offset hca (by omega) _⟩
    exact congrArg Prod.snd (wordView_pmcCount hcount 0x24 i s)

/-- What OP 0 of `QUEUE_SET` leaves before the accounts follow: the policy, its words, and the plan derived anew (R294, R320). -/
def policyTaken (o : QueuePortOps) (s : Chip) : Chip :=
  let i := Isl.platform (platformOf o.port)
  let b := 0x1000 + 0x40 * laneIndex o.port
  let quota := (span 0 8).foldl (fun m g => sput 0 m g (byteAt o.record (0x10 + g))) []
  let s := modPort o.port (fun v => { v with policy := { peerNs := leAt o.record 4 2, propNs := leAt o.record 6 2, quotaPct := quota } }) s
  let s := deriveWord i (b + 4) (recordPrio o.record) s
  derivePlan (commitIsl i ((span 0 7).foldl (fun s w => deriveWord i (b + 0x10 + 4 * w) (recordDscp o.record w) s) s)).2

theorem queuePolicy_of_checked {o : QueuePortOps} {s : Chip} (hport : (portOf s o.port).isSome = true) (hlen : o.len = 128)
    (hrec : recordBad o.record = false) (hfence : queueFence s (platformOf o.port) = none) :
    queuePolicy o s = (.ok, 0, settle (policyTaken o s)) := by
  rw [queuePolicy, if_neg (by simp [Option.isSome_iff_ne_none.1 hport]), if_neg (by simp [hlen, hrec]), hfence]
  rfl

/-- The number of a port whose QUOTA word of group 0 at Yard 0, laid out as R290 has it, is `PF_PRIO_CTRL` of port 128. -/
def farPort : Nat := 208 * 2 ^ 25 - 480

theorem caddr_farPort : caddr (.yard 0) (0x10000 + 16 * (8 * farPort) + 4) = portWord 128 0x1000 4 := by decide

/-- A port in ADMIN_DOWN with one lane at 10 Gbit/s and the policy given. -/
def plainPort (policy : PortPolicy) : Port :=
  { mode := 0x01, an := false, train := false, rsFec := false, quietOk := false, advMask := 0, maxFrame := 1518, pfcEn := 0, st := .adminDown
    inForce := 0x01, fecInForce := false, policy := policy }

/-- A policy record of zeros for port 128, and the Order that asks for it. -/
def zeroPolicy : QueuePortOps := { port := 128, len := 128, record := repl 128 0 }
def zeroPolicyRun : Running :=
  { cmd := some (.queueSetPort 0 zeroPolicy), tag := 0, index := 0, notify := false, progress := false, seq := 0, start := 0 }

/-- That Order at work on ring 0, and both ports configured, `farPort` with a quota of its own. The boot sequence is still to begin. -/
def farPlanned : Chip :=
  { power := { supplyHeld := false }, boot := { pending := true }, host := { rings := [(0, { enable := true, running := some zeroPolicyRun })] }
    ports := { ports := [(128, some (plainPort {})), (farPort, some (plainPort { quotaPct := [(0, 50)] }))] } }

theorem atWork_farPlanned : AtWork { chip := farPlanned } 0 (.queueSetPort 0 zeroPolicy) :=
  ⟨by decide, by decide, by decide, zeroPolicyRun, rfl, rfl, rfl, rfl⟩

theorem policyTaken_farPlanned_prio : liveW (policyTaken zeroPolicy farPlanned) (portWord 128 0x1000 4) = 62976#32 := by decide +kernel

theorem policyTaken_farPlanned_boot : (policyTaken zeroPolicy farPlanned).boot.pending = true := by decide +kernel

theorem accountKeeps_prio : AccountKeeps (fun s => liveW s (portWord 128 0x1000 4)) :=
  accountKeeps_liveW (by decide) fun _ _ => rfl

/-- Refutes O33: it ranges over every number of a configured port, where R27 has 512. The plan that `QUEUE_SET` derives writes the QUOTA of
`farPort` where `PF_PRIO_CTRL` of port 128 lies: a record of zeros for port 128 leaves that word at 62,976, half of the shared limit, where the
statement has 0. -/
theorem not_queueOrders : ¬ Obligations.QueueOrders := by
  unfold Obligations.QueueOrders
  intro h
  obtain ⟨hport, -⟩ := h { chip := farPlanned } 0
  obtain ⟨t, ht, hprio, -⟩ := hport zeroPolicy (plainPort {}) atWork_farPlanned (by decide) rfl rfl (by decide) (by decide) (by decide)
  have htaken : Ends (.queueSetPort 0 zeroPolicy) { chip := farPlanned } 0 .ok 0 (settle (policyTaken zeroPolicy farPlanned)) :=
    ends_of_effect rfl atWork_farPlanned (by decide) (queuePolicy_of_checked (by decide) rfl (by decide) (by decide))
  have hends := Becomes.unique ht htaken
  have hboot : t.boot = (policyTaken zeroPolicy farPlanned).boot := by
    have := congrArg Chip.boot hends
    rwa [finishOrder_boot, finishOrder_boot, boot_settle, boot_settle] at this
  have hword := congrArg (liveW · (portWord 128 0x1000 4)) hends
  simp only [liveW_finishOrder] at hword
  rw [accountKeeps_prio.settle (hboot ▸ policyTaken_farPlanned_boot), accountKeeps_prio.settle policyTaken_farPlanned_boot,
    policyTaken_farPlanned_prio] at hword
  exact absurd (hprio.symm.trans hword) (by decide)

end Sys2Proof.Machine
end

section
/-!
PROOFS. The other ways of a copy (R123, R223, R226, R309): what a Waybill at its end leaves alone, how a Yard decides a single copy, and the
delivery of a frame into a posted buffer.
-/

namespace Sys2Proof.Machine

/-! Waybills at their end (R411, R416) -/

/-- Counting records sent or lost changes counter words, their marks, the free values taken and telemetry. -/
theorem countPosts_changes (e n : Nat) (sent : Bool) (s : Chip) :
    ∃ l p f t, countPosts e n sent s = { s with live := l, pmc := p, free := f, tm := t } := by
  unfold countPosts
  split
  · exact ⟨_, _, _, _, rfl⟩
  · refine List.foldlRecOn (motive := fun u : Chip => ∃ l p f t, u = { s with live := l, pmc := p, free := f, tm := t }) _ _ ?_ ?_
    · split <;> exact ⟨_, _, _, _, rfl⟩
    · rintro _ ⟨l, p, f, t, rfl⟩ _ -
      obtain ⟨l', p', f', h⟩ := pmcCount_changes .tm (if sent then 0x64 else 0x65) e { s with live := l, pmc := p, free := f, tm := t }
      exact ⟨l', p', f', t, h⟩

theorem postcardSelect_changes (i : Isl) (w : Waybill) (s : Chip) :
    ∃ l p f t, postcardSelect i w s = { s with live := l, pmc := p, free := f, tm := t } := by
  unfold postcardSelect
  dsimp only
  split
  · split
    · exact countPosts_changes ..
    · split <;> exact ⟨_, _, _, _, rfl⟩
  · exact ⟨_, _, _, _, rfl⟩

/-- A Waybill at its end is sent to telemetry: nothing of the packet path or of the host changes. -/
theorem finishWaybill_changes (i : Isl) (w : Waybill) (s : Chip) :
    ∃ o l p f t, finishWaybill i w s = { s with out := o, live := l, pmc := p, free := f, tm := t } := by
  unfold finishWaybill
  dsimp only
  obtain ⟨l, p, f, t, h⟩ := postcardSelect_changes i _ (emit _ s)
  rw [h]
  exact ⟨_, _, _, _, _, rfl⟩

@[simp] theorem finishWaybill_pkt (i : Isl) (w : Waybill) (s : Chip) : (finishWaybill i w s).pkt = s.pkt := by
  obtain ⟨o, l, p, f, t, h⟩ := finishWaybill_changes i w s; rw [h]

@[simp] theorem finishWaybill_host (i : Isl) (w : Waybill) (s : Chip) : (finishWaybill i w s).host = s.host := by
  obtain ⟨o, l, p, f, t, h⟩ := finishWaybill_changes i w s; rw [h]

@[simp] theorem finishWaybill_hostMem (i : Isl) (w : Waybill) (s : Chip) : (finishWaybill i w s).hostMem = s.hostMem := by
  obtain ⟨o, l, p, f, t, h⟩ := finishWaybill_changes i w s; rw [h]

@[simp] theorem refuseCopy_pkt (y reason : Nat) (f : JnFrame) (c : CopyPlan) (s : Chip) : (refuseCopy y reason f c s).pkt = s.pkt :=
  finishWaybill_pkt ..

/-! How a Yard decides one copy (R279, R280, R305, R306) -/

@[simp] theorem countFencedReq_pkt (i : Isl) (s : Chip) : (countFencedReq i s).pkt = s.pkt := bump_pkt ..

@[simp] theorem countRefusal_pkt (y r h reason : Nat) (s : Chip) : (countRefusal y r h reason s).pkt = s.pkt := by
  unfold countRefusal
  dsimp only
  split
  · rw [bump_pkt, countFencedReq_pkt]
  · rw [pmcCount_pkt, bump_pkt, bump_pkt]

theorem modYard_pkt (y : Nat) (f : YardSt → YardSt) (s : Chip) :
    (modYard y f s).pkt = { s.pkt with yards := smod {} s.pkt.yards y f } := by
  unfold modYard
  dsimp only
  split <;> rfl

@[simp] theorem grant_queues (y r c : Nat) (headroom : Bool) (s : Chip) : (grant y r c headroom s).pkt.queues = s.pkt.queues := by
  rw [grant, pmcCount_pkt, modYard_pkt]

@[simp] theorem grant_stagedMirrors (y r c : Nat) (headroom : Bool) (s : Chip) : (grant y r c headroom s).pkt.staged = s.pkt.staged := by
  rw [grant, pmcCount_pkt, modYard_pkt]

theorem admission_of_fenced {s : Chip} {y : Nat} (h : isFenced s (.yard y) = true) (r c depth limit : Nat) :
    admission s y r c depth limit = .inl dropFenced := if_pos h

theorem admission_of_full {s : Chip} {y r depth limit : Nat} (h : isFenced s (.yard y) = false)
    (hfull : (!losslessOf s y r && decide (limit ≤ depth)) = true) (c : Nat) :
    admission s y r c depth limit = .inl dropQueueLimit := by
  unfold admission
  rw [if_neg (by rw [h]; exact Bool.false_ne_true), if_pos hfull]

section
variable {y : Nat} {f : JnFrame} {c : CopyPlan} {s : Chip}

theorem yardDecide_of_fenced (h : isFenced s (.yard y) = true) : (yardDecide y f [c] s).2.pkt = s.pkt := by
  rw [yardDecide, if_pos h]
  dsimp only
  rw [pkt_foldl fun t c => refuseCopy_pkt y dropFenced f c t, countFencedReq_pkt, bump_pkt]

theorem yardDecide_of_full (h : isFenced s (.yard y) = false)
    (hfull : (!losslessOf s y f.req && decide (qlimitOf s y c.queue ≤ depthOf s c.queue)) = true) :
    (yardDecide y f [c] s).2.pkt = s.pkt := by
  rw [yardDecide, if_neg (by rw [h]; exact Bool.false_ne_true)]
  extract_lets full aside rest t
  have haside : aside = [c] := List.filter_cons_of_pos hfull
  have hrest : rest = [] := List.filter_cons_of_neg (by simp [full, hfull])
  have ht : t = refuseCopy y dropQueueLimit f c (countRefusal y f.req f.half dropQueueLimit s) := by
    rw [show t = aside.foldl _ s from rfl, haside, List.foldl_cons, List.foldl_nil]
  have hpkt : t.pkt = s.pkt := by rw [ht, refuseCopy_pkt, countRefusal_pkt]
  clear_value rest t
  subst hrest
  exact hpkt

theorem yardDecide_of_room (h : isFenced s (.yard y) = false)
    (hroom : (!losslessOf s y f.req && decide (qlimitOf s y c.queue ≤ depthOf s c.queue)) = false) :
    match admission s y f.req (max f.cells (cellsOf f.bytes.length)) (depthOf s c.queue) (qlimitOf s y c.queue) with
    | .inl _ => (yardDecide y f [c] s).2.pkt = s.pkt
    | .inr _ => ∃ t, (yardDecide y f [c] s).2 = appendCopy y (cellsOf f.bytes.length) f c t ∧ t.pkt.queues = s.pkt.queues ∧
        t.pkt.staged = s.pkt.staged := by
  rw [yardDecide, if_neg (by rw [h]; exact Bool.false_ne_true)]
  extract_lets full aside rest t
  have haside : aside = [] := List.filter_cons_of_neg (by simp [full, hroom])
  have hrest : rest = [c] := List.filter_cons_of_pos (by simp [full, hroom])
  have ht : t = s := by simp only [t, haside, List.foldl]
  clear_value rest t
  subst hrest ht
  dsimp only
  split
  · next reason had =>
    rw [had]
    exact (refuseCopy_pkt ..).trans (countRefusal_pkt ..)
  · next headroom had =>
    rw [had]
    refine ⟨_, rfl, ?_, ?_⟩ <;> simp only [modPkt, freeBytesTake, grant_queues, grant_stagedMirrors]

end

/-- A Yard takes a copy exactly where the admission of R279 grants its cells. -/
theorem yardDecide_single (y : Nat) (f : JnFrame) (c : CopyPlan) (s : Chip) :
    match admission s y f.req (max f.cells (cellsOf f.bytes.length)) (depthOf s c.queue) (qlimitOf s y c.queue) with
    | .inl _ => (yardDecide y f [c] s).2.pkt = s.pkt
    | .inr _ => ∃ t, (yardDecide y f [c] s).2 = appendCopy y (cellsOf f.bytes.length) f c t ∧ t.pkt.queues = s.pkt.queues ∧
        t.pkt.staged = s.pkt.staged := by
  cases hfence : isFenced s (.yard y)
  case true =>
    rw [admission_of_fenced hfence]
    exact yardDecide_of_fenced hfence
  case false =>
    cases hfull : !losslessOf s y f.req && decide (qlimitOf s y c.queue ≤ depthOf s c.queue)
    case true =>
      rw [admission_of_full hfence hfull]
      exact yardDecide_of_full hfence hfull
    case false => exact yardDecide_of_room hfence hfull

/-- The copy appended to a queue is its last, with the bytes of its frame and the kind and port of its plan. -/
theorem queueOf_appendCopy (y n : Nat) (f : JnFrame) (c : CopyPlan) (s : Chip) :
    ∃ x, queueOf (appendCopy y n f c s) c.queue = queueOf s c.queue ++ [x] ∧ x.bytes = f.bytes ∧ x.kind = c.kind ∧ x.port = c.port := by
  unfold appendCopy
  exact ⟨_, (queueOf_setQueue ..).trans (if_pos rfl), rfl, rfl, rfl⟩

theorem appendCopy_stagedMirrors (y n : Nat) (f : JnFrame) (c : CopyPlan) (s : Chip) :
    (appendCopy y n f c s).pkt.staged = s.pkt.staged := rfl

/-! The mirror engine (R309) -/

/-- The staged copy leaves the buffer, and its frame takes the next number. -/
def unstaged (g : Staged) (s : Chip) : Chip :=
  modPkt (fun k => { k with staged := k.staged.filter (fun x => ¬ x.sid = g.sid), nextId := k.nextId + 1 }) s

theorem sid_ne_of_mem_unstaged {g x : Staged} {s : Chip} (h : x ∈ (unstaged g s).pkt.staged) : x.sid ≠ g.sid := by
  simpa using (List.mem_filter.1 h).2

/-- The frame that the mirror engine offers to the Yard for a staged copy: a request of the mirror requester. -/
def mirrorFrame (half : Nat) (g : Staged) (s : Chip) : JnFrame :=
  { fid := s.pkt.nextId, half := half, line := 0, bytes := g.bytes, bad := 0, m := g.m, wb := g.wb, req := 4097, group := 0
    cells := cellsOf g.bytes.length, first := false, primary := false, mirrors := [], hostCopy := none }

/-- The copy that it asks for. -/
def mirrorPlan (g : Staged) : CopyPlan := { queue := g.queue, port := g.port, kind := 1 }

theorem mirrorWrite_of_staged {half : Nat} {g : Staged} {s : Chip} (ha : Answers s (.jn half)) (hport : (portOf s g.port).isSome = true)
    (hg : s.pkt.staged.find? (fun g => g.half = half && g.complete) = some g) :
    mirrorWrite half none s = (yardDecide (queueYard s g.queue) (mirrorFrame half g s) [mirrorPlan g] (unstaged g s)).2 := by
  obtain ⟨hd, hfence, hon⟩ := ha
  have hin : s.pkt.staged.any (fun x => x.sid = g.sid) = true := List.any_eq_true.2 ⟨g, List.mem_of_find?_eq_some hg, by simp⟩
  have hthere : ¬ (portOf s g.port).isNone = true := by simpa using Option.isSome_iff_ne_none.1 hport
  unfold mirrorWrite
  dsimp only
  rw [if_neg (by simp [hd, hfence, hon]), hg]
  dsimp only
  rw [if_neg (by simp [hin])]
  exact if_neg hthere

/-- The staged copy leaves the buffer; where its cells are granted it is the last of its queue, else no queue changes. -/
theorem mirrorWrite_does {half : Nat} {g : Staged} {s : Chip} (ha : Answers s (.jn half)) (hport : (portOf s g.port).isSome = true)
    (hg : s.pkt.staged.find? (fun g => g.half = half && g.complete) = some g) :
    (∀ x ∈ (mirrorWrite half none s).pkt.staged, x.sid ≠ g.sid) ∧
      match admission s (queueYard s g.queue) 4097 (cellsOf g.bytes.length) (depthOf s g.queue) (qlimitOf s (queueYard s g.queue) g.queue) with
      | .inl _ => (mirrorWrite half none s).pkt.queues = s.pkt.queues
      | .inr _ => ∃ c, queueOf (mirrorWrite half none s) g.queue = queueOf s g.queue ++ [c] ∧ c.bytes = g.bytes ∧ c.kind = 1 ∧
          c.port = g.port := by
  rw [mirrorWrite_of_staged ha hport hg]
  have hyard := yardDecide_single (queueYard s g.queue) (mirrorFrame half g s) (mirrorPlan g) (unstaged g s)
  have hadm : admission (unstaged g s) (queueYard s g.queue) (mirrorFrame half g s).req
      (max (mirrorFrame half g s).cells (cellsOf (mirrorFrame half g s).bytes.length)) (depthOf (unstaged g s) (mirrorPlan g).queue)
      (qlimitOf (unstaged g s) (queueYard s g.queue) (mirrorPlan g).queue) =
      admission s (queueYard s g.queue) 4097 (cellsOf g.bytes.length) (depthOf s g.queue) (qlimitOf s (queueYard s g.queue) g.queue) :=
    congrArg (fun n => admission s (queueYard s g.queue) 4097 n _ _) (Nat.max_self _)
  rw [hadm] at hyard
  split at hyard
  · rw [hyard]
    exact ⟨fun x => sid_ne_of_mem_unstaged, rfl⟩
  · obtain ⟨t, ht, hqueues, hstaged⟩ := hyard
    have hqueue : queueOf t g.queue = queueOf s g.queue := congrArg (sget [] · g.queue) hqueues
    rw [ht, appendCopy_stagedMirrors, hstaged, ← hqueue]
    exact ⟨fun x => sid_ne_of_mem_unstaged, queueOf_appendCopy ..⟩

/-! Sidings (R223, R226) -/

theorem reenter_of_waiting {n : Nat} {f : RxFrame} {s : Chip} (ha : Answers s (.iline n))
    (hf : s.pkt.sidings.find? (fun f => f.line = n) = some f) :
    reenter n s = { s with pkt := { s.pkt with sidings := s.pkt.sidings.filter (fun x => ¬ x.fid = f.fid), rx := s.pkt.rx ++ [f] } } := by
  obtain ⟨hd, hfence, hon⟩ := ha
  unfold reenter
  dsimp only
  rw [if_neg (by simp [hd, hfence, hon]), hf]
  rfl

/-! Completions and posted buffers (R120, R123) -/

theorem length_hostRxCompletion (slot : Nat) (st : Status) (len flags : Nat) (x : Option HostRx) (phase : Bool) :
    (hostRxCompletion slot st len flags x phase).length = 32 := by
  unfold hostRxCompletion
  cases x <;> simp [repl]

/-- A completion moves the tail of its ring on by one slot. -/
theorem dmaOf_dmaComplete (q : Nat) (body : Bool → List Byte) (s : Chip) :
    ∃ phase, dmaOf (dmaComplete q body s) q =
      { dmaOf s q with cplTail := ((dmaOf s q).cplTail + 1) % (dmaOf s q).size, phase := phase } := by
  unfold dmaComplete dmaOf
  dsimp only
  rw [msix_dma]
  exact ⟨_, (dmaOf_modDma q q _ _).trans (if_pos rfl)⟩

/-- A completion writes its own slot of the completion ring and no other byte. -/
theorem hostByte_dmaComplete {q len a : Nat} {body : Bool → List Byte} (hlen : ∀ b, (body b).length = len) (s : Chip)
    (ha : a < pageAddr (dmaOf s q).cplHi (dmaOf s q).cplLo + len * (dmaOf s q).cplTail ∨
      pageAddr (dmaOf s q).cplHi (dmaOf s q).cplLo + len * (dmaOf s q).cplTail + len ≤ a) :
    hostByte (dmaComplete q body s) a = hostByte s a := by
  have hmem : (dmaComplete q body s).hostMem =
      (hostWrite (pageAddr (dmaOf s q).cplHi (dmaOf s q).cplLo + (body (dmaOf s q).phase).length * (dmaOf s q).cplTail)
        (body (dmaOf s q).phase) s).hostMem := msix_hostMem ..
  rw [hostByte, hmem, ← hostByte, hostByte_hostWrite, hlen, if_neg (by omega)]

theorem deliver_of_disabled {q : Nat} {s : Chip} (h : (dmaOf s q).enable = false) (x : HostRx) :
    deliver q x s = (false, countHostDrop q s) := by
  have htry : deliverTry q x s = (false, s) := by
    unfold deliverTry
    exact if_pos (by simp [h])
  rw [deliver, htry]
  rfl

theorem dmaDrop_countHostDrop (q : Nat) (s : Chip) :
    sget 0 (countHostDrop q s).host.dmaDrop q = min 0xFFFFFFFF (sget 0 s.host.dmaDrop q + 1) := by
  rw [← satAdd_eq_min]
  exact (sget_smod 0 s.host.dmaDrop q q (satAdd max32 · 1)).trans (if_pos rfl)

/-- The queue's next posted buffer is taken and holds the first bytes of a frame, as many as it has room for. -/
def fillBuffer (q : Nat) (d : List Byte) (ds : List (Nat × Option (List Byte))) (bytes : List Byte) (s : Chip) : Chip :=
  hostWrite (leAt d 0 8) (bytes.take (leAt d 8 4)) (modDma q (fun v => { v with descs := ds, head := (v.head + 1) % v.size }) s)

theorem dmaOf_fillBuffer (q : Nat) (d : List Byte) (ds : List (Nat × Option (List Byte))) (bytes : List Byte) (s : Chip) :
    dmaOf (fillBuffer q d ds bytes s) q = { dmaOf s q with descs := ds, head := ((dmaOf s q).head + 1) % (dmaOf s q).size } :=
  (dmaOf_modDma q q _ s).trans (if_pos rfl)

theorem hostByte_fillBuffer (q a : Nat) (d : List Byte) (ds : List (Nat × Option (List Byte))) (bytes : List Byte) (s : Chip) :
    hostByte (fillBuffer q d ds bytes s) a =
      if leAt d 0 8 ≤ a ∧ a < leAt d 0 8 + (bytes.take (leAt d 8 4)).length then (bytes.take (leAt d 8 4))[a - leAt d 0 8]?
      else hostByte s a := hostByte_hostWrite ..

/-- A queue that takes frames without their Waybill has a well-formed buffer posted, and a slot for its completion. -/
structure BufferPosted (s : Chip) (q slot : Nat) (d : List Byte) (ds : List (Nat × Option (List Byte))) : Prop where
  up : hostUp s = true
  enabled : (dmaOf s q).enable = true
  running : (dmaOf s q).stopped = false
  bare : (dmaOf s q).waybill = false
  descs : (dmaOf s q).descs = (slot, some d) :: ds
  slots : (dmaOf s q).freeSlots ≠ 0
  aligned : leAt d 0 8 % 64 = 0
  whole : leAt d 8 4 % 64 = 0
  least : 256 ≤ leAt d 8 4
  most : leAt d 8 4 ≤ 65536

section
variable {s : Chip} {q slot : Nat} {d : List Byte} {ds : List (Nat × Option (List Byte))} (h : BufferPosted s q slot d ds) (x : HostRx)
include h

theorem deliver_of_posted :
    ∃ body, (∀ b, (body b).length = 32) ∧ deliver q x s = (true, dmaComplete q body (fillBuffer q d ds x.bytes s)) := by
  obtain ⟨hup, hen, hrun, hbare, hdescs, hslots, haddr, hsize, hleast, hmost⟩ := h
  have htry : ∃ flags, deliverTry q x s = (true,
      dmaComplete q (hostRxCompletion slot .ok (x.bytes.take (leAt d 8 4)).length flags (some x)) (fillBuffer q d ds x.bytes s)) := by
    unfold deliverTry
    dsimp only
    rw [if_neg (by simp [hup, hen, hrun]), hdescs, deliverInto]
    dsimp only
    rw [if_neg hslots, if_neg (by simp; omega), hbare]
    exact ⟨_, rfl⟩
  obtain ⟨flags, htry⟩ := htry
  refine ⟨hostRxCompletion slot .ok (x.bytes.take (leAt d 8 4)).length flags (some x), length_hostRxCompletion _ _ _ _ _, ?_⟩
  rw [deliver, htry]
  rfl

theorem deliver_posted_taken : (deliver q x s).1 = true ∧ (dmaOf (deliver q x s).2 q).descs = ds ∧
    (dmaOf (deliver q x s).2 q).cplTail = ((dmaOf s q).cplTail + 1) % (dmaOf s q).size := by
  obtain ⟨body, -, hdel⟩ := deliver_of_posted h x
  obtain ⟨phase, hdone⟩ := dmaOf_dmaComplete q body (fillBuffer q d ds x.bytes s)
  rw [hdel]
  dsimp only
  rw [hdone, dmaOf_fillBuffer]
  exact ⟨rfl, rfl, rfl⟩

theorem hostByte_deliver_posted {a : Nat}
    (ha : a < pageAddr (dmaOf s q).cplHi (dmaOf s q).cplLo + 32 * (dmaOf s q).cplTail ∨
      pageAddr (dmaOf s q).cplHi (dmaOf s q).cplLo + 32 * (dmaOf s q).cplTail + 32 ≤ a) :
    hostByte (deliver q x s).2 a =
      if leAt d 0 8 ≤ a ∧ a < leAt d 0 8 + (x.bytes.take (leAt d 8 4)).length then (x.bytes.take (leAt d 8 4))[a - leAt d 0 8]?
      else hostByte s a := by
  obtain ⟨body, hlen, hdel⟩ := deliver_of_posted h x
  rw [hdel, hostByte_dmaComplete hlen _ (by rw [dmaOf_fillBuffer]; exact ha), hostByte_fillBuffer]

end

/-! Delivery of a host copy (R123, R303) -/

/-- The host copy leaves the PCIe island. -/
def handedOver (f : JnFrame) (s : Chip) : Chip :=
  modPkt (fun k => { k with hostCopies := k.hostCopies.filter (fun x => ¬ x.fid = f.fid || ¬ x.hostCopy = f.hostCopy) }) s

/-- A host copy is offered to its queue whole; its Waybill then says whether it was delivered. -/
theorem hostDelivery_of_first {q reason : Nat} {f : JnFrame} {rest : List JnFrame} {s : Chip} (hd : dead s = false)
    (hcopies : s.pkt.hostCopies = f :: rest) (hq : f.hostCopy = some (q, reason)) :
    ∃ x wb wb', x.bytes = f.bytes ∧ hostDelivery q s =
      if (deliver q x (handedOver f s)).1 then finishWaybill .pc wb (deliver q x (handedOver f s)).2
      else dropWaybill .pc dropHostQueue wb' (deliver q x (handedOver f s)).2 := by
  unfold hostDelivery
  rw [if_neg (by simp [hd]), hcopies, List.find?_cons_of_pos (by simp [hq])]
  exact ⟨_, _, _, rfl, rfl⟩

theorem dropWaybill_host (i : Isl) (reason : Nat) (w : Waybill) (s : Chip) : (dropWaybill i reason w s).host = s.host :=
  finishWaybill_host ..

theorem dropWaybill_hostMem (i : Isl) (reason : Nat) (w : Waybill) (s : Chip) : (dropWaybill i reason w s).hostMem = s.hostMem :=
  finishWaybill_hostMem ..

section
variable {q reason : Nat} {f : JnFrame} {rest : List JnFrame} {s : Chip} (hd : dead s = false) (hcopies : s.pkt.hostCopies = f :: rest)
  (hq : f.hostCopy = some (q, reason))
include hd hcopies hq

theorem hostDelivery_of_disabled (hen : (dmaOf s q).enable = false) : (hostDelivery q s).hostMem = s.hostMem ∧
    sget 0 (hostDelivery q s).host.dmaDrop q = min 0xFFFFFFFF (sget 0 s.host.dmaDrop q + 1) := by
  obtain ⟨x, wb, wb', -, hdel⟩ := hostDelivery_of_first hd hcopies hq
  rw [deliver_of_disabled (s := handedOver f s) hen] at hdel
  rw [hdel, if_neg Bool.false_ne_true, dropWaybill_host, dropWaybill_hostMem]
  exact ⟨rfl, dmaDrop_countHostDrop q (handedOver f s)⟩

theorem hostDelivery_of_posted {slot : Nat} {d : List Byte} {ds : List (Nat × Option (List Byte))} (h : BufferPosted s q slot d ds) :
    (dmaOf (hostDelivery q s) q).descs = ds ∧
    (dmaOf (hostDelivery q s) q).cplTail = ((dmaOf s q).cplTail + 1) % (dmaOf s q).size ∧
    ∀ a, a < pageAddr (dmaOf s q).cplHi (dmaOf s q).cplLo + 32 * (dmaOf s q).cplTail ∨
        pageAddr (dmaOf s q).cplHi (dmaOf s q).cplLo + 32 * (dmaOf s q).cplTail + 32 ≤ a →
      hostByte (hostDelivery q s) a =
        if leAt d 0 8 ≤ a ∧ a < leAt d 0 8 + (f.bytes.take (leAt d 8 4)).length then (f.bytes.take (leAt d 8 4))[a - leAt d 0 8]?
        else hostByte s a := by
  obtain ⟨x, wb, wb', hx, hdel⟩ := hostDelivery_of_first hd hcopies hq
  have hposted : BufferPosted (handedOver f s) q slot d ds := ⟨h.1, h.2, h.3, h.4, h.5, h.6, h.7, h.8, h.9, h.10⟩
  obtain ⟨htook, hdescs, htail⟩ := deliver_posted_taken hposted x
  rw [if_pos htook] at hdel
  rw [hdel]
  unfold dmaOf hostByte
  rw [finishWaybill_host, finishWaybill_hostMem]
  exact ⟨hdescs, htail, fun a ha => hx ▸ hostByte_deliver_posted hposted x ha⟩

end

/-- Settles O31: a copy of the mirror engine goes through the decision of one Yard, a frame of a Siding changes its list, and a host copy is
handed to its queue, whose delivery writes the buffer before the completion. -/
theorem sideCopies : Obligations.SideCopies := by
  unfold Obligations.SideCopies
  refine ⟨fun s half g hhalf ha hport hg => ?mirror, fun s n f hn ha hf => ?siding, fun s q reason f rest hq hd hcopies hcopy => ?host⟩
  case mirror =>
    exact ⟨_, becomes_of_onUnit rfl (decide_eq_true hhalf) rfl, mirrorWrite_does ha hport hg⟩
  case siding =>
    exact becomes_of_onUnit rfl (decide_eq_true hn) (congrArg settle (reenter_of_waiting ha hf))
  case host =>
    refine ⟨fun hen => ⟨_, becomes_of_onUnit rfl (decide_eq_true hq) rfl, hostDelivery_of_disabled hd hcopies hcopy hen⟩, ?_⟩
    intro slot d ds hup hen hrun hbare hdescs hslots haddr hsize hleast hmost
    exact ⟨_, becomes_of_onUnit rfl (decide_eq_true hq) rfl,
      hostDelivery_of_posted hd hcopies hcopy ⟨hup, hen, hrun, hbare, hdescs, hslots, haddr, hsize, hleast, hmost⟩⟩

end Sys2Proof.Machine
end

section
/-!
PROOFS. MIRROR_SET (R312): what a source map names after an attachment, a detachment and a deletion.
-/

namespace Sys2Proof.Machine

/-! Sessions and source maps -/

theorem sourcesOf_setSources (egress eg : Bool) (p k : Nat) (l : NatSet) (s : Chip) :
    sourcesOf (setSources egress p l s) eg k = if eg = egress ∧ k = p then l else sourcesOf s eg k := by
  cases egress <;> cases eg <;> simp [sourcesOf, setSources, modPkt, sget_sput]

theorem sourcesOf_setSources_other {egress eg : Bool} {p k : Nat} (h : eg ≠ egress ∨ k ≠ p) (l : NatSet) (s : Chip) :
    sourcesOf (setSources egress p l s) eg k = sourcesOf s eg k := by
  rw [sourcesOf_setSources, if_neg fun ⟨heg, hk⟩ => h.elim (absurd heg) (absurd hk)]

theorem contains_ndel_self (l : NatSet) (k : Nat) : (ndel l k).contains k = false := by simp [ndel]

theorem contains_detachAll (k : Nat) (m : Sparse NatSet) (p : Nat) : (sget [] (detachAll k m) p).contains k = false := by
  induction m with
  | nil => rfl
  | cons x m ih =>
    by_cases hl : ndel x.2 k = []
    · rw [show detachAll k (x :: m) = detachAll k m by simp [detachAll, hl]]
      exact ih
    · rw [show detachAll k (x :: m) = (x.1, ndel x.2 k) :: detachAll k m by simp [detachAll, hl], sget]
      split
      · exact contains_ndel_self ..
      · exact ih

/-! What each operation answers once its checks have passed -/

/-- The session takes the values of SET. -/
def sessionSet (o : MirrorSetOps) (s : Chip) : Chip :=
  modPkt (fun x => { x with sessions := sput none x.sessions o.session (some ⟨o.dest, o.tc, o.trunc⟩) }) s

theorem sessionOf_sessionSet (o : MirrorSetOps) (s : Chip) (k : Nat) :
    sessionOf (sessionSet o s) k = if k = o.session then some ⟨o.dest, o.tc, o.trunc⟩ else sessionOf s k := by
  rw [sessionOf, sessionSet, modPkt, sget_sput, sessionOf]

theorem mirrorSet_of_checked {o : MirrorSetOps} {s : Chip} (hk : o.session ≤ 63) (htc : o.tc ≤ 15) (hlo : o.trunc = 0 ∨ 64 ≤ o.trunc)
    (hhi : o.trunc ≤ 10240) (hp : (portOf s o.dest).isSome = true) : mirrorSet o s = (.ok, 0, sessionSet o s) := by
  rw [mirrorSet, if_neg (by simp; omega), if_neg (by simpa using Option.isSome_iff_ne_none.1 hp)]
  rfl

/-- The session is gone, and no port is attached to it. -/
def sessionDeleted (k : Nat) (s : Chip) : Chip :=
  modPkt (fun x => { x with sessions := sput none x.sessions k none, inSrc := detachAll k x.inSrc, egSrc := detachAll k x.egSrc }) s

theorem sessionOf_sessionDeleted (k : Nat) (s : Chip) (j : Nat) :
    sessionOf (sessionDeleted k s) j = if j = k then none else sessionOf s j := by
  rw [sessionOf, sessionDeleted, modPkt, sget_sput, sessionOf]

theorem sourcesOf_sessionDeleted (k : Nat) (s : Chip) (eg : Bool) (p : Nat) : (sourcesOf (sessionDeleted k s) eg p).contains k = false := by
  cases eg <;> exact contains_detachAll ..

theorem mirrorDelete_of_session {k : Nat} {s : Chip} (hk : k ≤ 63) (hs : (sessionOf s k).isSome = true) :
    mirrorDelete k s = (.ok, 0, sessionDeleted k s) := by
  rw [mirrorDelete, if_neg (by omega), if_neg (by simpa using Option.isSome_iff_ne_none.1 hs)]
  rfl

section
variable {o : MirrorAttachOps} {s : Chip} (hk : o.session ≤ 63) (hp : (portOf s o.port).isSome = true)
  (hs : (sessionOf s o.session).isSome = true)
include hk hp hs

theorem mirrorAttach_of_found : mirrorAttach o s =
    if (sourcesOf s o.egress o.port).contains o.session then (.existsAlready, 0, s)
    else if 2 ≤ (sourcesOf s o.egress o.port).length then (.noRoom, 0, s)
    else (.ok, 0, setSources o.egress o.port (nadd (sourcesOf s o.egress o.port) o.session) s) := by
  rw [mirrorAttach, if_neg (by omega), if_neg (by simp [Option.isSome_iff_ne_none.1 hp, Option.isSome_iff_ne_none.1 hs])]

theorem mirrorDetach_of_found : mirrorDetach o s =
    if (sourcesOf s o.egress o.port).contains o.session then
      (.ok, 0, setSources o.egress o.port (ndel (sourcesOf s o.egress o.port) o.session) s)
    else (.notFound, 0, s) := by
  rw [mirrorDetach, if_neg (by omega), if_neg (by simp [Option.isSome_iff_ne_none.1 hp, Option.isSome_iff_ne_none.1 hs])]

end

/-- Settles O32: each operation, its checks passed, is one write of the session map or of the source map of one direction, which leaves every
other session or source. -/
theorem mirrorOrders : Obligations.MirrorOrders := by
  unfold Obligations.MirrorOrders
  intro s ring
  refine ⟨fun o h hk htc hlo hhi hp => ?set, fun k h hk hs => ?delete, fun o h hk hp hs => ?attach, fun o h hk hp hs => ?detach⟩
  case set =>
    refine ⟨_, ends_of_effect rfl h rfl (mirrorSet_of_checked hk htc hlo hhi hp), ?_, fun k hne => ?_⟩
    · rw [sessionOf_sessionSet, if_pos rfl]
    · rw [sessionOf_sessionSet, if_neg hne]
  case delete =>
    refine ⟨_, ends_of_effect rfl h rfl (mirrorDelete_of_session hk hs), ?_, fun j hne => ?_, sourcesOf_sessionDeleted k s.chip⟩
    · rw [sessionOf_sessionDeleted, if_pos rfl]
    · rw [sessionOf_sessionDeleted, if_neg hne]
  case attach =>
    have heff := mirrorAttach_of_found hk hp hs
    dsimp only
    split
    · next hin => exact ends_of_effect rfl h rfl (heff.trans (if_pos hin))
    · next hout =>
      rw [if_neg hout] at heff
      split
      · next hfull => exact ends_of_effect rfl h rfl (heff.trans (if_pos hfull))
      · next hroom =>
        refine ⟨_, ends_of_effect rfl h rfl (heff.trans (if_neg hroom)), ?_, fun eg p hne => sourcesOf_setSources_other hne ..⟩
        rw [sourcesOf_setSources, if_pos ⟨rfl, rfl⟩]
  case detach =>
    have heff := mirrorDetach_of_found hk hp hs
    dsimp only
    split
    · next hin =>
      refine ⟨_, ends_of_effect rfl h rfl (heff.trans (if_pos hin)), ?_, fun eg p hne => sourcesOf_setSources_other hne ..⟩
      rw [sourcesOf_setSources, if_pos ⟨rfl, rfl⟩]
    · next hout => exact ends_of_effect rfl h rfl (heff.trans (if_neg hout))

end Sys2Proof.Machine
end

section
/-!
PROOFS. The words of a Signalman (R464 to R468): what one word leaves of its Signalman when no trap is due, and the statements about the
sequencer and the ALU made of it.
-/

namespace Sys2Proof.Machine

/-- Settles O1: `step` takes the front command by definition. -/
theorem stepRunsFront : Obligations.StepRunsFront := by
  intro s c rest h
  rw [step, h]

/-! Traps that are not due (R469, R470) -/

theorem trapNow_of_quiet {m : SmSt} (hdue : m.due = []) (hbps : m.bps = []) (hsteps : m.steps = none) (c : Nat) : trapNow m c = false := by
  have hnot : trapDue m c = false := by
    unfold trapDue bpHit
    rw [hdue, hbps, hsteps]
    simp
  rw [trapNow, hnot]
  rfl

theorem settleTraps_of_noDue {n : Nat} {s : Chip} (h : (smOf s n).due = []) : settleTraps n s = s := by
  have hnone : [1, 2, 6, 7].find? (trapNow (smOf s n)) = none := by
    simp [trapNow, trapDue, h]
  rw [settleTraps, hnone]

/-! A word that is fetched (R464, R465) -/

theorem runWord_of_ready {s : Chip} {n w : Nat} (h : SmReady s n) (hw : wIllegal w = false) (inp : MwIn) :
    runWord n w inp s = issueWord n w inp s := by
  obtain ⟨-, hruns, hwait, haddr, hdue, -, hbps, hsteps⟩ := h
  have htrap := trapNow_of_quiet hdue hbps hsteps
  unfold runWord
  have hlow : ¬ 0x4000 ≤ (smOf s n).m.addr := by omega
  simp only [htrap, hruns, hwait, hw, hlow, if_neg (show ¬ 0x4800 ≤ (smOf s n).m.addr by omega), if_false, reduceCtorEq, decide_false,
    Bool.not_true, Bool.or_false, Bool.false_and, Bool.false_eq_true]

theorem wIllegal_of_plain {w : Nat} (hhold : wHold w = false) (hcond : wCond w ≤ 0x0A) (hseq : wSeq w ≤ 8) (halu : wAlu w ≤ 0x0C)
    (hbus : wBus w ≤ 8) : wIllegal w = false := by
  simp [wIllegal, hhold]
  omega

/-- What a bus operation of a finished word leaves in DST (R468). -/
def busPut (b : BusWait) (m : SmSt) : SmSt :=
  if wBus b.word = 0 then m
  else match b.value with
    | some v => setScratch (wDst b.word) v m
    | none => setScratch (wDst b.word) (scratch m (wDst b.word) / 65536 * 65536 + b.status) m

/-- A word's ALU and bus results are in place, and a YIELD has ended its Order; the sequencer follows. -/
def beforeSeq (n : Nat) (b : BusWait) (s : Chip) : Chip := yieldCall n b.word (modSm n (busPut b) (runAlu n b.word s))

theorem finishWord_eq (n : Nat) (b : BusWait) (cond : Bool) (s : Chip) : finishWord n b cond s =
    settleTraps n (modSm n (fun m => afterWord (wHold b.word) (beginTurn (beforeSeq n b s) m (runSeq b.word cond m))) (beforeSeq n b s)) :=
  rfl

theorem beforeSeq_of_noYield {n : Nat} {b : BusWait} (h : wSeq b.word ≠ 7) (s : Chip) :
    beforeSeq n b s = modSm n (busPut b) (runAlu n b.word s) := by
  unfold beforeSeq yieldCall
  simp only [if_neg h]
  split <;> rfl

/-- A Signalman whose next word is that of address `x` (R473). -/
def SmSt.goTo (x : Nat) (m : SmSt) : SmSt := { m with m := { m.m with addr := redirect m x } }

theorem runSeq_of_sequence {w x : Nat} {cond : Bool} {m k : SmSt} (h : sequence w m.m.addr cond m = some (x, k)) :
    runSeq w cond m = k.goTo x := by
  rw [runSeq, h]
  rfl

theorem afterWord_m (hold : Bool) (m : SmSt) : (afterWord hold m).m = m.m := by
  simp only [afterWord, apply_ite SmSt.m, markDue, ite_self]

theorem beginTurn_cases (s : Chip) (m k : SmSt) : beginTurn s m k = k ∨ beginTurn s m k = { k with turnAt := runNs s } := by
  unfold beginTurn; split
  · exact .inr rfl
  · exact .inl rfl

theorem beginTurn_m (s : Chip) (m k : SmSt) : (beginTurn s m k).m = k.m := by
  rcases beginTurn_cases s m k with h | h <;> rw [h]

theorem afterWord_inTrap (hold : Bool) (m : SmSt) : (afterWord hold m).inTrap = m.inTrap := by
  simp only [afterWord, apply_ite SmSt.inTrap, markDue, ite_self]

theorem beginTurn_inTrap (s : Chip) (m k : SmSt) : (beginTurn s m k).inTrap = k.inTrap := by
  rcases beginTurn_cases s m k with h | h <;> rw [h]

theorem beginTurn_due (s : Chip) (m k : SmSt) : (beginTurn s m k).due = k.due := by
  rcases beginTurn_cases s m k with h | h <;> rw [h]

/-- A word outside a bracket whose sequencer part finds its address leaves the Signalman where that part sends it, with no trap due. -/
theorem finishWord_of_sequence {n : Nat} {b : BusWait} {cond : Bool} {s : Chip} {m k : SmSt} {x : Nat} (hhold : wHold b.word = false)
    (hm : smOf (beforeSeq n b s) n = m) (hseq : sequence b.word m.m.addr cond m = some (x, k)) (hdue : k.due = []) :
    finishWord n b cond s = modSm n (fun m => afterWord (wHold b.word) (beginTurn (beforeSeq n b s) m (runSeq b.word cond m))) (beforeSeq n b s) ∧
    smOf (finishWord n b cond s) n = afterWord false (beginTurn (beforeSeq n b s) m (k.goTo x)) := by
  have hafter : smOf (modSm n (fun m => afterWord (wHold b.word) (beginTurn (beforeSeq n b s) m (runSeq b.word cond m))) (beforeSeq n b s)) n
      = afterWord false (beginTurn (beforeSeq n b s) m (k.goTo x)) := by
    rw [smOf_modSm, if_pos rfl, hm, runSeq_of_sequence hseq, hhold]
  have hnone : finishWord n b cond s = _ := (finishWord_eq n b cond s).trans (settleTraps_of_noDue (by
    rw [hafter]
    simp [afterWord, beginTurn_due, SmSt.goTo, hdue]))
  exact ⟨hnone, by rw [hnone, hafter]⟩

/-- A word that waits for nothing ends in its own cycle (R465). -/
theorem cycleWord_of_noWait {n : Nat} {b : BusWait} {s t : Chip} {c : Bool} (hwait : wWait b.word = false) (hc : condRaw n b s = (c, t)) :
    cycleWord n b s = finishWord n b (c != wCneg b.word) t := by
  simp [cycleWord, condOf, hc, hwait]

theorem condRaw_true {n : Nat} {b : BusWait} {s : Chip} (h : wCond b.word = 0) : condRaw n b s = (true, s) := by
  simp [condRaw, h]

theorem condRaw_zero {n : Nat} {b : BusWait} {s : Chip} (h : wCond b.word = 1) : condRaw n b s = ((smOf s n).m.z, s) := by
  simp [condRaw, h]

/-- The word as it stands for the end of its cycle when it carries no bus operation. -/
def idleWait (w : Nat) : BusWait := { word := w, done := true, err := false, governed := false, value := none, status := 0 }

theorem issueWord_idle {n w : Nat} {inp : MwIn} {s : Chip} (h : wBus w = 0) : issueWord n w inp s = cycleWord n (idleWait w) s := by
  simp [issueWord, busNeeds, busOp, h, idleWait]

theorem becomes_runRow {c : Instr} {s : State} {lo wd code n : Nat} {inp : MwIn} {t : Chip} (hc : exec c s = runRow lo wd code n inp s)
    (hn : n < 16) (h : runWord n (putField inp.word.toNat lo wd code) inp s.chip = t) : Becomes c s t :=
  becomes_of_onUnit hc (decide_eq_true hn) h

/-! The sequencer (R466) -/

section
variable {w a : Nat} {cond : Bool} {m : SmSt}

theorem sequence_next (h : wSeq w = 0) : sequence w a cond m = some ((a + 1) % 2 ^ 15, m) := by simp only [sequence, h]

theorem sequence_jump (h : wSeq w = 1) : sequence w a cond m = some (wTarget w, m) := by simp only [sequence, h]

theorem sequence_branch (h : wSeq w = 2) : sequence w a cond m = some (if cond then wTarget w else (a + 1) % 2 ^ 15, m) := by
  simp only [sequence, h]

/-- CALL in a routine that has not begun begins it (R463). -/
theorem sequence_call (h : wSeq w = 3) (hroom : m.m.stack.length < 8) : ∃ k, sequence w a cond m = some (wTarget w, k) ∧
    k.m = { m.m with stack := m.m.stack ++ [(a + 1) % 2 ^ 15] } ∧ k.due = m.due ∧ k.patched = m.patched ∧ k.traps = m.traps := by
  refine ⟨_, by simp only [sequence, h]; rw [if_neg (by omega)], ?_⟩
  split <;> exact ⟨rfl, rfl, rfl, rfl⟩

theorem sequence_return (h : wSeq w = 4) {st : List Nat} {x : Nat} (hst : m.m.stack = st ++ [x]) :
    sequence w a cond m = some (x, { m with m := { m.m with stack := st } }) := by
  simp only [sequence, h]
  rw [hst, List.getLast?_concat, List.dropLast_concat]

theorem sequence_loop (h : wSeq w = 5) : ∃ k,
    sequence w a cond m = some (if (m.m.lc + 65535) % 65536 = 0 then (a + 1) % 2 ^ 15 else wTarget w, k) ∧
    k.m = { m.m with lc := (m.m.lc + 65535) % 65536 } ∧ k.due = m.due ∧ k.patched = m.patched ∧ k.traps = m.traps :=
  ⟨{ m with m := { m.m with lc := (m.m.lc + 65535) % 65536 } }, by simp only [sequence, h], rfl, rfl, rfl, rfl⟩

theorem sequence_ldloop (h : wSeq w = 6) : ∃ k, sequence w a cond m = some ((a + 1) % 2 ^ 15, k) ∧
    k.m = { m.m with lc := wImm w % 65536 } ∧ k.due = m.due ∧ k.patched = m.patched ∧ k.traps = m.traps :=
  ⟨{ m with m := { m.m with lc := wImm w % 65536 } }, by simp only [sequence, h], rfl, rfl, rfl, rfl⟩

theorem sequence_yield (h : wSeq w = 7) :
    sequence w a cond m = some (0x0100, { m with m := { m.m with stack := [] }, running := false, inTrap := false }) := by
  simp only [sequence, h]

theorem sequence_trapret (h : wSeq w = 8) : ∃ k, sequence w a cond m = some (m.save.addr, k) ∧ k.m = m.save ∧ k.inTrap = false ∧
    k.due = m.due ∧ k.patched = m.patched ∧ k.traps = m.traps :=
  ⟨{ m with m := m.save, inTrap := false, events := if m.inTrap && m.saveCause = 1 then m.events.tail else m.events },
    by simp only [sequence, h], rfl, rfl, rfl, rfl, rfl⟩

end

theorem redirect_congr {m k : SmSt} (hp : k.patched = m.patched) (ht : k.traps = m.traps) (a : Nat) : redirect k a = redirect m a := by
  rw [redirect, redirect, hp, ht]

theorem runAlu_idle {n w : Nat} {s : Chip} (h : wAlu w = 0) : runAlu n w s = s := by
  simp [runAlu, alu, h]

theorem busPut_idle {b : BusWait} (h : wBus b.word = 0) (m : SmSt) : busPut b m = m := by rw [busPut, if_pos h]

section
variable {s : Chip} {n w : Nat} {inp : MwIn} (h : SmReady s n) (halu : wAlu w = 0) (hbus : wBus w = 0) (hhold : wHold w = false)
  (hwait : wWait w = false)
include h halu hbus hhold hwait

/-- A ready Signalman that executes a word without ALU and bus operation stands where the sequencer part sends it. -/
theorem runWord_sequenced {c : Bool} {k : SmSt} {x : Nat} (hle : wSeq w ≤ 8) (hyield : wSeq w ≠ 7) (hcond : wCond w ≤ 0x0A)
    (hc : condRaw n (idleWait w) s = (c, s)) (hseq : sequence w (smOf s n).m.addr (c != wCneg w) (smOf s n) = some (x, k)) (hdue : k.due = []) :
    ∃ v, smOf (runWord n w inp s) n = afterWord false (beginTurn v (smOf s n) (k.goTo x)) := by
  have hb : smOf (beforeSeq n (idleWait w) s) n = smOf s n := by
    rw [beforeSeq_of_noYield (by exact hyield), runAlu_idle (by exact halu), smOf_modSm, if_pos rfl, busPut_idle hbus]
  rw [runWord_of_ready h (wIllegal_of_plain hhold hcond hle (by omega) (by omega)), issueWord_idle hbus, cycleWord_of_noWait hwait hc]
  exact ⟨_, (finishWord_of_sequence hhold hb hseq hdue).2⟩

theorem runWord_goes {c : Bool} {k : SmSt} {x : Nat} (hle : wSeq w ≤ 8) (hyield : wSeq w ≠ 7) (hcond : wCond w ≤ 0x0A)
    (hc : condRaw n (idleWait w) s = (c, s)) (hseq : sequence w (smOf s n).m.addr (c != wCneg w) (smOf s n) = some (x, k)) (hdue : k.due = []) :
    (smOf (runWord n w inp s) n).m = { k.m with addr := redirect k x } := by
  obtain ⟨v, hv⟩ := runWord_sequenced (inp := inp) h halu hbus hhold hwait hle hyield hcond hc hseq hdue
  rw [hv, afterWord_m, beginTurn_m]
  rfl

/-- YIELD: the dispatcher, with the micro-stack empty, no routine and no MICRO_CALL Order (R463, R478). -/
theorem runWord_yields (hseq : wSeq w = 7) (hcond : wCond w = 0) :
    (smOf (runWord n w inp s) n).m = { (smOf s n).m with stack := [], addr := redirect (smOf s n) 0x0100 } ∧
    (smOf (runWord n w inp s) n).running = false ∧ (smOf (runWord n w inp s) n).call = none := by
  obtain ⟨m, hm, hfields⟩ : ∃ m, smOf (beforeSeq n (idleWait w) s) n = m ∧ m.call = none ∧ m.m = (smOf s n).m ∧ m.due = [] ∧
      m.patched = (smOf s n).patched ∧ m.traps = (smOf s n).traps := by
    have hput : smOf (modSm n (busPut (idleWait w)) s) n = smOf s n := by rw [smOf_modSm, if_pos rfl, busPut_idle hbus]
    have hdue := h.2.2.2.2.1
    refine ⟨_, rfl, ?_⟩
    unfold beforeSeq yieldCall
    rw [show (idleWait w).word = w from rfl, runAlu_idle halu, hput]
    dsimp only
    split
    · next hcall => exact ⟨by rw [hput, hcall], by rw [hput], by rw [hput, hdue], by rw [hput], by rw [hput]⟩
    · rw [if_pos hseq, smOf_modSm, if_pos rfl, show smOf (finishOrder _ _ _ _) n = smOf (modSm n (busPut (idleWait w)) s) n from rfl, hput]
      exact ⟨rfl, rfl, hdue, rfl, rfl⟩
  obtain ⟨hcall, hmm, hdue, hpatched, htraps⟩ := hfields
  have hgo := (finishWord_of_sequence (b := idleWait w) (cond := true != wCneg w) (s := s) hhold hm
    (sequence_yield hseq) hdue).2
  rw [runWord_of_ready h (wIllegal_of_plain hhold (by omega) (by omega) (by omega) (by omega)), issueWord_idle hbus,
    cycleWord_of_noWait hwait (condRaw_true hcond), show (idleWait w).word = w from rfl, hgo]
  refine ⟨?_, ?_, ?_⟩
  · rw [afterWord_m, beginTurn_m]
    simp [SmSt.goTo, redirect, hmm, hpatched, htraps]
  · simp [afterWord, beginTurn, SmSt.goTo]
  · simp [afterWord, beginTurn, SmSt.goTo, hcall]

end

theorem seq_putField (x : Nat) {k : Nat} (h : k < 2 ^ 4) : wSeq (putField x 108 4 k) = k := by
  rw [wSeq, bits_putField, Nat.mod_eq_of_lt h]

/-- Settles O53: the sequencer part of each word, for a Signalman with no trap due. -/
theorem microSequencer : Obligations.MicroSequencer := by
  unfold Obligations.MicroSequencer
  intro s n inp h
  have hdue := h.2.2.2.2.1
  have goes {c : Instr} {k : Nat} {x : Nat} {m : SmSt} (hc : exec c s = runRow 108 4 k n inp s) (hle : k ≤ 8) (hne : k ≠ 7)
      (hp : PlainWord (putField inp.word.toNat 108 4 k)) (hi : wAlu (putField inp.word.toNat 108 4 k) = 0 ∧ wBus (putField inp.word.toNat 108 4 k) = 0)
      (hseq : wSeq (putField inp.word.toNat 108 4 k) = k →
        sequence (putField inp.word.toNat 108 4 k) (smOf s.chip n).m.addr true (smOf s.chip n) = some (x, m)) (hd : m.due = [])
      (hpat : m.patched = (smOf s.chip n).patched) (htr : m.traps = (smOf s.chip n).traps) :
      ∃ t, Becomes c s t ∧ (smOf t n).m = { m.m with addr := redirect (smOf s.chip n) x } := by
    obtain ⟨hhold, hwait, hcond, hcneg⟩ := hp
    have hk := seq_putField inp.word.toNat (k := k) (by omega)
    refine ⟨_, becomes_runRow hc h.1 rfl, (runWord_goes h hi.1 hi.2 hhold hwait (by omega) (by omega) (by omega) (condRaw_true hcond)
      (by rw [hcneg]; exact hseq hk) hd).trans ?_⟩
    rw [redirect_congr hpat htr]
  refine ⟨fun hp hi => ?next, fun hp hi => ?jump, fun hi hhold hwait hcond => ?branch, fun hp hi hroom => ?call, fun st x hp hi hst => ?ret,
    fun hp hi => ?loop, fun hp hi => ?ldloop, fun hp hi => ?yield, fun hp hi => ?trapret⟩
  case next => exact goes rfl (by decide) (by decide) hp hi (fun hk => sequence_next hk) hdue rfl rfl
  case jump => exact goes rfl (by decide) (by decide) hp hi (fun hk => sequence_jump hk) hdue rfl rfl
  case branch =>
    have hk : wSeq (putField inp.word.toNat 108 4 2) = 2 := seq_putField _ (by decide)
    exact ⟨_, becomes_runRow rfl h.1 rfl, runWord_goes h hi.1 hi.2 hhold hwait (hk.le.trans (by decide)) (by rw [hk]; decide) (hcond.le.trans (by decide))
      (condRaw_zero hcond) (sequence_branch hk) hdue⟩
  case call =>
    obtain ⟨k, hseq, hm, hd, hpat, htr⟩ :=
      sequence_call (a := (smOf s.chip n).m.addr) (cond := true) (seq_putField inp.word.toNat (k := 3) (by decide)) hroom
    obtain ⟨t, ht, hto⟩ := goes (c := .mwSeqCall n inp) (k := 3) rfl (by decide) (by decide) hp hi (fun _ => hseq) (hd.trans hdue) hpat htr
    exact ⟨t, ht, by rw [hto, hm]⟩
  case ret => exact goes rfl (by decide) (by decide) hp hi (fun hk => sequence_return hk hst) hdue rfl rfl
  case loop =>
    obtain ⟨k, hseq, hm, hd, hpat, htr⟩ := sequence_loop (a := (smOf s.chip n).m.addr) (cond := true) (m := smOf s.chip n)
      (seq_putField inp.word.toNat (k := 5) (by decide))
    obtain ⟨t, ht, hto⟩ := goes (c := .mwSeqLoop n inp) (k := 5) rfl (by decide) (by decide) hp hi (fun _ => hseq) (hd.trans hdue) hpat htr
    exact ⟨t, ht, by rw [hto, hm]⟩
  case ldloop =>
    obtain ⟨k, hseq, hm, hd, hpat, htr⟩ := sequence_ldloop (a := (smOf s.chip n).m.addr) (cond := true) (m := smOf s.chip n)
      (seq_putField inp.word.toNat (k := 6) (by decide))
    obtain ⟨t, ht, hto⟩ := goes (c := .mwSeqLdloop n inp) (k := 6) rfl (by decide) (by decide) hp hi (fun _ => hseq) (hd.trans hdue) hpat htr
    exact ⟨t, ht, by rw [hto, hm]⟩
  case yield =>
    exact ⟨_, becomes_runRow rfl h.1 rfl, runWord_yields h hi.1 hi.2 hp.1 hp.2.1 (seq_putField _ (by decide)) hp.2.2.1⟩
  case trapret =>
    obtain ⟨hhold, hwait, hcond, hcneg⟩ := hp
    have hk : wSeq (putField inp.word.toNat 108 4 8) = 8 := seq_putField _ (by decide)
    obtain ⟨k, hseq, hm, htrap, hd, hpat, htr⟩ := sequence_trapret (a := (smOf s.chip n).m.addr) (m := smOf s.chip n) hk
    obtain ⟨v, hv⟩ := runWord_sequenced (inp := inp) h hi.1 hi.2 hhold hwait (hk.le.trans (by decide)) (by rw [hk]; decide) (hcond.le.trans (by decide))
      (condRaw_true hcond) hseq (hd.trans hdue)
    refine ⟨_, becomes_runRow rfl h.1 rfl, ?_, ?_⟩
    · rw [hv, afterWord_m, beginTurn_m, SmSt.goTo, hm, redirect_congr hpat htr]
    · rw [hv, afterWord_inTrap, beginTurn_inTrap, SmSt.goTo, htrap]

end Sys2Proof.Machine
end

section
/-!
PROOFS. The ALU part of a microword (R468): what it leaves of the scratch registers and the flags, and the statement about its operations.
-/

namespace Sys2Proof.Machine

/-! The fields of a word beside its ALU code (R464) -/

theorem wImmB_putField_alu (x k : Nat) : wImmB (putField x 79 6 k) = wImmB x := by
  rw [wImmB, wImmB, bit_eq_bits, bit_eq_bits, bits_putField_other _ _ _ _ _ _ (by decide)]

theorem wImm_putField_alu (x k : Nat) : wImm (putField x 79 6 k) = wImm x := bits_putField_other _ _ _ _ _ _ (by decide)

theorem wDst_putField_alu (x k : Nat) : wDst (putField x 79 6 k) = wDst x := bits_putField_other _ _ _ _ _ _ (by decide)

theorem wA_putField_alu (m : SmSt) (x k : Nat) : wA m (putField x 79 6 k) = wA m x := by
  rw [wA, wA, wSrcA, wSrcA, bits_putField_other _ _ _ _ _ _ (by decide)]

theorem wB_putField_alu (m : SmSt) (x k : Nat) : wB m (putField x 79 6 k) = wB m x := by
  rw [wB, wB, wImmB_putField_alu, wImm_putField_alu, wSrcB, wSrcB, bits_putField_other _ _ _ _ _ _ (by decide)]

theorem wAlu_putField (x : Nat) {k : Nat} (h : k < 2 ^ 6) : wAlu (putField x 79 6 k) = k := by
  rw [wAlu, bits_putField, Nat.mod_eq_of_lt h]

/-! What the ALU part leaves -/

theorem runAlu_of_value {s : Chip} {n w x : Nat} {m : SmSt} (hm : smOf s n = m)
    (hx : (alu (wAlu w) (wA m w) (wB m w) (wImm w)).value = some x) :
    ∃ k : SmSt, smOf (runAlu n w s) n = k ∧ k.due = m.due ∧
      (∀ r, scratch k r = if wAlu w < 11 ∧ r = wDst w then x % 2 ^ 64 else scratch m r) ∧
      (11 ≤ wAlu w → k.m.z = decide (x = 0) ∧ k.m.n = bit x 63) := by
  refine ⟨_, rfl, ?_⟩
  have hscratch : ∀ r, scratch (if 11 ≤ wAlu w then m else setScratch (wDst w) x m) r =
      if wAlu w < 11 ∧ r = wDst w then x % 2 ^ 64 else scratch m r := by
    intro r
    by_cases hop : 11 ≤ wAlu w
    · rw [if_pos hop, if_neg (by omega)]
    · rw [if_neg hop, scratch_setScratch]
      simp only [show wAlu w < 11 by omega, true_and]
  have hdue : (if 11 ≤ wAlu w then m else setScratch (wDst w) x m).due = m.due := by split <;> rfl
  simp only [runAlu, hm, hx]
  split
  · rw [smOf_modSm, if_pos rfl]
    exact ⟨hdue, hscratch, fun _ => ⟨rfl, rfl⟩⟩
  · next hno =>
    rw [smOf_modSm, if_pos rfl]
    refine ⟨hdue, hscratch, fun hop => absurd ?_ hno⟩
    rw [decide_eq_true hop, Bool.or_true]

/-- A plain word with an ALU operation alone leaves the Signalman as its ALU part does, one address on. -/
theorem runWord_alu {s : Chip} {n w : Nat} {inp : MwIn} (h : SmReady s n) (hp : PlainWord w) (hseq : wSeq w = 0) (hbus : wBus w = 0)
    (halu : wAlu w ≤ 12) (hdue : (smOf (runAlu n w s) n).due = []) :
    ∃ a, (smOf (runWord n w inp s) n).m = { (smOf (runAlu n w s) n).m with addr := a } := by
  obtain ⟨hhold, hwait, hcond, -⟩ := hp
  have hb : smOf (beforeSeq n (idleWait w) s) n = smOf (runAlu n w s) n := by
    rw [beforeSeq_of_noYield (by rw [show (idleWait w).word = w from rfl, hseq]; decide), smOf_modSm, if_pos rfl,
      busPut_idle (show wBus (idleWait w).word = 0 from hbus)]
    rfl
  rw [runWord_of_ready h (wIllegal_of_plain hhold (by omega) (by omega) (by omega) (by omega)), issueWord_idle hbus,
    cycleWord_of_noWait hwait (condRaw_true hcond), (finishWord_of_sequence hhold hb (sequence_next hseq) hdue).2, afterWord_m, beginTurn_m]
  exact ⟨_, rfl⟩

/-- Settles O54: the value of each operation goes through `runAlu_of_value`, and the sequencer only moves the address. -/
theorem microAlu : Obligations.MicroAlu := by
  unfold Obligations.MicroAlu
  intro s n inp h
  have hdue := h.2.2.2.2.1
  have put {c : Instr} {k v : Nat} (hc : exec c s = runRow 79 6 k n inp s) (hk : k < 11)
      (hok : PlainWord (putField inp.word.toNat 79 6 k) ∧ wSeq (putField inp.word.toNat 79 6 k) = 0 ∧ wBus (putField inp.word.toNat 79 6 k) = 0)
      (hx : ∃ x, (alu k (wA (smOf s.chip n) inp.word.toNat) (wB (smOf s.chip n) inp.word.toNat) (wImm inp.word.toNat)).value = some x ∧
        x % 2 ^ 64 = v % 2 ^ 64) :
      ∃ t, Becomes c s t ∧ ∀ r, scratch (smOf t n) r = if r = wDst inp.word.toNat then v % 2 ^ 64 else scratch (smOf s.chip n) r := by
    obtain ⟨x, hx, hv⟩ := hx
    have hcode := wAlu_putField inp.word.toNat (show k < 2 ^ 6 by omega)
    obtain ⟨m, hm, hd, hs, -⟩ := runAlu_of_value (w := putField inp.word.toNat 79 6 k) (s := s.chip) (n := n) rfl
      (by rw [hcode, wA_putField_alu, wB_putField_alu, wImm_putField_alu]; exact hx)
    obtain ⟨a, ha⟩ := runWord_alu (inp := inp) h hok.1 hok.2.1 hok.2.2 (by omega) (by rw [hm, hd, hdue])
    refine ⟨_, becomes_runRow hc h.1 rfl, fun r => ?_⟩
    rw [scratch, ha, hm]
    refine (hs r).trans ?_
    rw [hcode, wDst_putField_alu, hv]
    simp only [hk, true_and]
  have flags {c : Instr} {k v : Nat} (hc : exec c s = runRow 79 6 k n inp s) (hk : 11 ≤ k ∧ k ≤ 12)
      (hok : PlainWord (putField inp.word.toNat 79 6 k) ∧ wSeq (putField inp.word.toNat 79 6 k) = 0 ∧ wBus (putField inp.word.toNat 79 6 k) = 0)
      (hx : (alu k (wA (smOf s.chip n) inp.word.toNat) (wB (smOf s.chip n) inp.word.toNat) (wImm inp.word.toNat)).value = some v) :
      ∃ t, Becomes c s t ∧ (∀ r, scratch (smOf t n) r = scratch (smOf s.chip n) r) ∧ (smOf t n).m.z = decide (v = 0) ∧
        (smOf t n).m.n = bit v 63 := by
    have hcode := wAlu_putField inp.word.toNat (show k < 2 ^ 6 by omega)
    obtain ⟨m, hm, hd, hs, hf⟩ := runAlu_of_value (w := putField inp.word.toNat 79 6 k) (s := s.chip) (n := n) rfl
      (by rw [hcode, wA_putField_alu, wB_putField_alu, wImm_putField_alu]; exact hx)
    obtain ⟨a, ha⟩ := runWord_alu (inp := inp) h hok.1 hok.2.1 hok.2.2 (by omega) (by rw [hm, hd, hdue])
    obtain ⟨hz, hn⟩ := hf (by omega)
    refine ⟨_, becomes_runRow hc h.1 rfl, fun r => ?_, by rw [ha, hm, ← hz], by rw [ha, hm, ← hn]⟩
    rw [scratch, ha, hm]
    exact (hs r).trans (if_neg (by omega))
  refine ⟨fun hok => ?nop, fun hok => put rfl (by decide) hok ⟨_, rfl, rfl⟩, fun hok => put rfl (by decide) hok ⟨_, rfl, rfl⟩,
    fun hok => put rfl (by decide) hok ⟨_, rfl, Nat.mod_mod ..⟩, fun hok => put rfl (by decide) hok ⟨_, rfl, Nat.mod_mod ..⟩,
    fun hok => put rfl (by decide) hok ⟨_, rfl, rfl⟩, fun hok => put rfl (by decide) hok ⟨_, rfl, rfl⟩,
    fun hok => put rfl (by decide) hok ⟨_, rfl, rfl⟩, fun hok => put rfl (by decide) hok ⟨_, rfl, rfl⟩,
    fun hok => put rfl (by decide) hok ⟨_, rfl, Nat.mod_mod ..⟩, fun hok => put rfl (by decide) hok ⟨_, rfl, rfl⟩,
    fun hok => flags rfl (by decide) hok rfl, fun hok => flags rfl (by decide) hok rfl⟩
  case nop =>
    obtain ⟨hp, hseq, hbus⟩ := hok
    have hidle := runAlu_idle (n := n) (s := s.chip) (wAlu_putField inp.word.toNat (k := 0) (by decide))
    obtain ⟨a, ha⟩ := runWord_alu (inp := inp) h hp hseq hbus (by rw [wAlu_putField _ (by decide)]; decide) (by rw [hidle, hdue])
    refine ⟨_, becomes_runRow rfl h.1 rfl, fun r => ?_⟩
    rw [scratch, ha, hidle]
    rfl

end Sys2Proof.Machine
end

section
/-!
PROOFS. The test access port and the debug port (R479 to R482): the vendor lock over its commands, what each command leaves of a Signalman, and
the statement made of them.
-/

namespace Sys2Proof.Machine

/-! Little-endian fields (R6) and the local data memory (R463) -/

theorem leNat_leBytes (n v : Nat) : leNat (leBytes n v) = v % 256 ^ n := by
  induction n generalizing v with
  | zero => simp [leBytes, leNat, Nat.mod_one]
  | succ n ih =>
    rw [leBytes, leNat, ih, BitVec.toNat_ofNat, pow_succ' 256 n]
    exact Nat.mod_mul.symm

theorem leAt_leBytes (n v : Nat) : leAt (leBytes n v) 0 n = v % 256 ^ n := by
  rw [leAt, slice, List.drop_zero, List.take_of_length_le (by rw [length_leBytes]), leNat_leBytes]

theorem length_repl {α : Type} (n : Nat) (v : α) : (repl n v).length = n := by
  induction n with
  | zero => rfl
  | succ n ih => rw [repl, List.length_cons, ih]

theorem length_span (a n : Nat) : (span a n).length = n := by
  induction n generalizing a with
  | zero => rfl
  | succ n ih => rw [span, List.length_cons, ih]

theorem length_locBytes (m : SmSt) (off n : Nat) : (locBytes m off n).length = n := by
  rw [locBytes, List.length_map, length_span]

theorem sget_foldl_sput_zip (d : Byte) (bs : List Byte) (a k : Nat) (l : Sparse Byte) :
    sget d (((span a bs.length).zip bs).foldl (fun l x => sput d l x.1 x.2) l) k =
      if a ≤ k ∧ k < a + bs.length then bs[k - a]?.getD d else sget d l k := by
  induction bs generalizing a l with
  | nil => rw [if_neg (by simp)]; rfl
  | cons b bs ih =>
    rw [List.length_cons, span, List.zip_cons_cons, List.foldl_cons, ih, sget_sput]
    by_cases hk : k = a
    · subst hk; rw [if_neg (by omega), if_pos rfl, if_pos (by omega), Nat.sub_self]; rfl
    · rw [if_neg hk]
      by_cases hin : a + 1 ≤ k ∧ k < a + 1 + bs.length
      · rw [if_pos hin, if_pos (by omega), show k - a = (k - (a + 1)) + 1 by omega, List.getElem?_cons_succ]
      · rw [if_neg hin, if_neg (by omega)]

theorem sget_loc_putLoc (off k : Nat) (bs : List Byte) (m : SmSt) : sget 0#8 (putLoc off bs m).loc k =
    if off ≤ k ∧ k < off + bs.length then bs[k - off]?.getD 0#8 else sget 0#8 m.loc k := sget_foldl_sput_zip ..

theorem locBytes_one (m : SmSt) (j : Nat) : locBytes m j 1 = [sget 0#8 m.loc j] := rfl

/-! The vendor lock (R481) -/

/-- The device runs and the instruction register holds DEBUG: a command of the debug port reaches it. -/
def DebugUp (s : Chip) : Prop := dead s = false ∧ s.power.tapIr = 0x20

theorem dbg_off {s : Chip} (h : s.power.tapIr ≠ 0x20) (f : Chip → Chip) : dbg f s = s := by
  rw [dbg, if_pos (by simp [h])]

theorem dbg_up {s : Chip} (h : DebugUp s) (f : Chip → Chip) : dbg f s = if Config.vendorLock then emit .debugLocked s else f s := by
  rw [dbg, if_neg (by simp [h.1, h.2])]

section
variable {c : Instr} {s : State} {f : Chip → Chip} (h : DebugUp s.chip)
include h

theorem becomes_dbg (hc : exec c s = onChip s (dbg f)) {u : Chip} (hu : f s.chip = u) :
    Becomes c s (if Config.vendorLock then emit .debugLocked s.chip else u) :=
  becomes_of_onChip hc (by rw [dbg_up h, hu])

theorem becomes_dbgSm {n : Nat} (hn : n < 16) (hc : exec c s = onChip s (dbgSm n f)) {u : Chip} (hu : f s.chip = u) :
    Becomes c s (if Config.vendorLock then emit .debugLocked s.chip else u) :=
  becomes_dbg h hc (by rw [if_neg (by omega), hu])

theorem becomes_dbgSm_range {n : Nat} (hn : 16 ≤ n) (hc : exec c s = onChip s (dbgSm n f)) :
    Becomes c s (if Config.vendorLock then emit .debugLocked s.chip else emit (.debug .range []) s.chip) :=
  becomes_dbg h hc (by rw [if_pos hn]; rfl)

end

/-! Halting and going on (R469, R480) -/

theorem smOf_takeTrap_debug {n c : Nat} {s : Chip} (hc : 3 ≤ c ∧ c ≤ 5) : takeTrap n c s =
    modSm n (fun m => let m := enterTrap c m; if m.halted then { m with haltedAt := runNs s } else m) s := by
  rw [takeTrap, if_neg (by simp; omega)]

/-- A trap of the debug port's halts the Signalman with its micro-state saved and kept (R470, R471). -/
theorem takeTrap_halts {n c : Nat} {s : Chip} (hc : 3 ≤ c ∧ c ≤ 5) : (smOf (takeTrap n c s) n).halted = true ∧
    (smOf (takeTrap n c s) n).lastCause = c ∧ (smOf (takeTrap n c s) n).save = (smOf s n).m ∧ (smOf (takeTrap n c s) n).m = (smOf s n).m := by
  have hm : smOf (takeTrap n c s) n = { enterTrap c (smOf s n) with haltedAt := runNs s } := by
    rw [smOf_takeTrap_debug hc, smOf_modSm, if_pos rfl]
    simp [enterTrap, hc]
  rw [hm]
  simp [enterTrap, hc]

/-- The trap of a duty event saves the micro-state and goes to its handler (R470, R471). -/
theorem takeTrap_event {n : Nat} {s : Chip} (hh : (smOf s n).halted = false) : (smOf (takeTrap n 1 s) n).inTrap = true ∧
    (smOf (takeTrap n 1 s) n).saveCause = 1 ∧ (smOf (takeTrap n 1 s) n).save = (smOf s n).m ∧
    (smOf (takeTrap n 1 s) n).m = { (smOf s n).m with addr := redirect (smOf s n) 0x10 } ∧
    (smOf (takeTrap n 1 s) n).events = (smOf s n).events := by
  have hm : smOf (takeTrap n 1 s) n = enterTrap 1 (smOf s n) := by
    rw [takeTrap, if_neg (by simp), smOf_modSm, if_pos rfl]
    simp [enterTrap, hh]
  rw [hm]
  simp [enterTrap, redirect]

theorem smRuns_of_parts {s : Chip} {n : Nat} (hd : dead s = false) (hb : s.boot.done = true) (hf : (smOf s n).fenced = false)
    (hh : (smOf s n).halted = false) : smRuns s n = true := by
  simp [smRuns, hd, hb, hf, hh]

theorem smRuns_modSm {s : Chip} {n : Nat} {f : SmSt → SmSt} (hf : (f (smOf s n)).fenced = (smOf s n).fenced)
    (hh : (f (smOf s n)).halted = (smOf s n).halted) : smRuns (modSm n f s) n = smRuns s n := by
  have hm : smOf (modSm n f s) n = f (smOf s n) := by rw [smOf_modSm, if_pos rfl]
  unfold smRuns
  rw [hm]
  dsimp only
  rw [hf, hh]
  rfl

theorem settleTraps_event {n : Nat} {s : Chip} (hdue : (smOf s n).due = [1]) (hwait : (smOf s n).wait = none)
    (hbr : (smOf s n).bracket = 0) (htrap : (smOf s n).inTrap = false) : settleTraps n s = takeTrap n 1 s := by
  have hnow : trapNow (smOf s n) 1 = true := by simp [trapNow, trapDue, hdue, hwait, hbr, htrap]
  rw [settleTraps, List.find?_cons, hnow]

/-- A halted Signalman as it stands when the debug port lets it go on. -/
def resumed (s : Chip) (m : SmSt) : SmSt :=
  { m with halted := false, turnAt := if m.halted then (m.turnAt + elapsed s m.haltedAt) % 2 ^ 48 else m.turnAt }

theorem resumeSm_eq (n : Nat) (s : Chip) : resumeSm n s =
    if smRuns (modSm n (resumed s) s) n then settleTraps n (modSm n (resumed s) s) else modSm n (resumed s) s := rfl

theorem resumeSm_of_noDue {n : Nat} {s : Chip} (h : (smOf s n).due = []) : resumeSm n s = modSm n (resumed s) s := by
  rw [resumeSm_eq, settleTraps_of_noDue, ite_self]
  rw [smOf_modSm, if_pos rfl]
  exact h

/-- An event trap that became due while the Signalman was halted is taken before its next word (R469). -/
theorem resumeSm_event {n : Nat} {s : Chip} (hd : dead s = false) (hb : s.boot.done = true) (hf : (smOf s n).fenced = false)
    (hdue : (smOf s n).due = [1]) (hwait : (smOf s n).wait = none) (hbr : (smOf s n).bracket = 0) (htrap : (smOf s n).inTrap = false) :
    (smOf (resumeSm n s) n).inTrap = true ∧ (smOf (resumeSm n s) n).saveCause = 1 ∧ (smOf (resumeSm n s) n).save = (smOf s n).m ∧
    (smOf (resumeSm n s) n).m = { (smOf s n).m with addr := redirect (smOf s n) 0x10 } := by
  have hm : smOf (modSm n (resumed s) s) n = resumed s (smOf s n) := by rw [smOf_modSm, if_pos rfl]
  have hruns : smRuns (modSm n (resumed s) s) n = true :=
    smRuns_of_parts hd hb (by rw [hm]; exact hf) (by rw [hm]; rfl)
  obtain ⟨hin, hcause, hsave, hto, -⟩ := takeTrap_event (n := n) (s := modSm n (resumed s) s) (by rw [hm]; rfl)
  rw [resumeSm_eq, if_pos hruns, settleTraps_event (by rw [hm]; exact hdue) (by rw [hm]; exact hwait) (by rw [hm]; exact hbr)
    (by rw [hm]; exact htrap)]
  refine ⟨hin, hcause, hsave.trans (by rw [hm]; rfl), hto.trans ?_⟩
  rw [hm, redirect_congr (m := smOf s n) rfl rfl]
  rfl

/-! What each command answers -/

theorem debugHalt_still {n : Nat} {s : Chip} (h : smRuns s n = false) : debugHalt n s = answer .ok [] s := by
  rw [debugHalt, if_neg (by simp [h])]

theorem debugHalt_ready {n : Nat} {s : Chip} (h : SmReady s n) : debugHalt n s = answer .ok [] (takeTrap n 4 (modSm n (markDue 4) s)) := by
  obtain ⟨-, hruns, hwait, -, hdue, hbr, -⟩ := h
  have hm : smOf (modSm n (markDue 4) s) n = markDue 4 (smOf s n) := by rw [smOf_modSm, if_pos rfl]
  have hnow : trapNow (smOf (modSm n (markDue 4) s) n) 4 = true := by
    rw [hm]; simp [trapNow, trapDue, markDue, hdue, nadd, hwait, hbr]
  rw [debugHalt, if_pos hruns, takeIfNow, hnow, smRuns_modSm rfl rfl, hruns]
  rfl

/-- A Signalman that RUN lets go on: no steps counted, no halt asked for (R480). -/
def runOn (m : SmSt) : SmSt := { m with steps := none, due := m.due.filter (fun k => ¬ k = 4), passBp := m.passBp || m.halted }

/-- A Signalman with `k` words to step. -/
def stepOn (k : Nat) (m : SmSt) : SmSt := { m with steps := some k, passBp := true }

theorem debugRun_eq (n : Nat) (s : Chip) : debugRun n s = answer .ok [] (resumeSm n (modSm n runOn s)) := rfl

theorem debugStep_eq {n k : Nat} {s : Chip} (hk : 1 ≤ k) (hk' : k ≤ 65535) (h : (smOf s n).halted = true) :
    debugStep n k s = answer .ok [] (resumeSm n (modSm n (stepOn k) s)) := by
  rw [debugStep, if_neg (by simp; omega), if_neg (by simp [h])]
  rfl

theorem debugStep_running {n k : Nat} {s : Chip} (h : (smOf s n).halted = false) : debugStep n k s = answer .badOperand [] s := by
  rw [debugStep, h]; simp

theorem debugBp_eq {n k : Nat} (h : k < 8) (a : Option Nat) (s : Chip) : debugBp n k a s =
    answer .ok [] (modSm n (fun m => { m with bps := sput none m.bps k (a.map (fun x => x % 2 ^ 15)) }) s) := by
  rw [debugBp, if_neg (by omega)]

theorem length_flatten_map_leBytes {α : Type} (w : Nat) (f : α → Nat) (l : List α) :
    ((l.map (fun k => leBytes w (f k))).flatten).length = w * l.length := by
  induction l with
  | nil => rfl
  | cons x l ih => rw [List.map_cons, List.flatten_cons, List.length_append, ih, length_leBytes, List.length_cons, Nat.mul_succ, Nat.add_comm]

theorem length_frameBytes (m : MicroSt) (cause : Nat) : (frameBytes m cause).length = 160 := by
  simp only [frameBytes, List.length_append, length_leBytes, length_flatten_map_leBytes, length_repl, length_span]

theorem take_frameBytes (m : MicroSt) (cause : Nat) : (frameBytes m cause).take 2 = leBytes 2 m.addr := by
  simp only [frameBytes, List.append_assoc]
  rw [List.take_append_of_le_length (by rw [length_leBytes]), List.take_of_length_le (by rw [length_leBytes])]

theorem bits_idcode : bits idcode 28 4 = 0 ∧ bits idcode 12 16 = 0x5120 ∧ bits idcode 1 11 = Config.idcodeMaker.toNat ∧
    bits idcode 0 1 = 1 := by
  have hapart : [((28 : Nat), (4 : Nat), (0 : Nat)), (12, 16, 0x5120), (1, 11, Config.idcodeMaker.toNat), (0, 1, 1)].Pairwise FieldsApart := by
    simp [FieldsApart]
  refine ⟨?_, ?_, ?_, ?_⟩
  · exact (bits_pack_of_mem hapart (v := 0) (by simp)).trans rfl
  · exact (bits_pack_of_mem hapart (v := 0x5120) (by simp)).trans rfl
  · exact (bits_pack_of_mem hapart (v := Config.idcodeMaker.toNat) (by simp)).trans (Nat.mod_eq_of_lt Config.idcodeMaker.isLt)
  · exact (bits_pack_of_mem hapart (v := 1) (by simp)).trans rfl

/-! Traces (R482) -/

theorem debugTrace_fenced {o : TraceOps} {s : Chip} (hl : o.line < 36) (hs : o.sm < 16) (hlen : o.len ≤ 10240) (hoff : o.off + o.len ≤ 65536)
    (hb : o.bank ≤ 2) : debugTrace o s =
      if isFenced s (lineIsl o.egress o.line) then answer .ok [] (traceRun o s) else answer .fenced [] s := by
  rw [debugTrace, if_neg (by simp; omega), if_neg (by omega)]
  cases isFenced s (lineIsl o.egress o.line) <;> rfl

theorem traceRun_changes (o : TraceOps) (s : Chip) : ∃ rnd, (traceRun o s).pkt = (modLine o.egress o.line (fun l => { l with rnd := rnd }) s).pkt ∧
    (traceRun o s).live = s.live ∧ (traceRun o s).host = s.host :=
  ⟨_, rfl, modLine_live .., modLine_host ..⟩

/-! The statement -/

/-- The instruction register and the commands that do not reach the debug port (R479, R480). -/
theorem tap_selects (s : State) :
    let ir (k : Nat) : Chip := { s.chip with power := { s.chip.power with tapIr := k } }
    Becomes .tapExtest s (ir 0x00) ∧ Becomes .tapSamplePreload s (ir 0x02) ∧ Becomes .tapDebug s (ir 0x20) ∧
    (∃ w, Becomes .tapIdcode s (emit (.tdo w) (ir 0x01)) ∧ bits w 28 4 = 0 ∧ bits w 12 16 = 0x5120 ∧
      bits w 1 11 = Config.idcodeMaker.toNat ∧ bits w 0 1 = 1) ∧
    (∀ code, code < 256 → ¬ code ∈ [0x00, 0x01, 0x02, 0x20] → Becomes (.tapBypass code) s (ir code)) := by
  refine ⟨rfl, rfl, rfl, ⟨idcode, rfl, bits_idcode⟩, fun code hcode hno => ?_⟩
  have hsel : tapSelect (if [0x00, 0x01, 0x02, 0x20].contains (code % 256) then 0xFF else code % 256) s.chip = tapSelect code s.chip := by
    rw [Nat.mod_eq_of_lt hcode, if_neg (by simpa using hno)]
  exact becomes_of_onChip (f := fun s => tapSelect _ s) rfl hsel

theorem debugStatus_off {s : Chip} (h : s.power.tapIr ≠ 0x20) (n : Nat) : debugStatus n s = s := by
  rw [debugStatus, if_pos (by simp [h])]

theorem debugStatus_up {s : Chip} (h : DebugUp s) (n : Nat) :
    debugStatus n s = if 16 ≤ n then answer .range [] s else answer .ok (leBytes 4 (smState s n)) s := by
  rw [debugStatus, if_neg (by simp [h.1, h.2])]

section
variable {s : State} (h : DebugUp s.chip)
include h

/-- What a command of the debug port answers where it is not locked: the status and the bytes on the chip `u` (R481). -/
theorem says_of_answer {c : Instr} {f : Chip → Chip} (hc : exec c s = onChip s (dbg f)) {st : Status} {bs : List Byte} {u : Chip}
    (hu : f s.chip = answer st bs u) : Becomes c s (if Config.vendorLock then emit .debugLocked s.chip else emit (.debug st bs) u) :=
  becomes_dbg h hc hu

theorem says_of_smAnswer {c : Instr} {f : Chip → Chip} {n : Nat} (hn : n < 16) (hc : exec c s = onChip s (dbgSm n f)) {st : Status}
    {bs : List Byte} {u : Chip} (hu : f s.chip = answer st bs u) :
    Becomes c s (if Config.vendorLock then emit .debugLocked s.chip else emit (.debug st bs) u) :=
  becomes_dbgSm h hn hc hu

end

theorem debugRead_scratch {n k : Nat} (hn : n < 16) (hk : k < 16) (s : Chip) :
    debugRead (.scratch n k) s = answer .ok (leBytes 8 (scratch (smOf s n) k)) s := by
  rw [debugRead, if_neg (by simp [spaceOk, hn, hk])]

theorem debugRead_control {n a : Nat} (hn : n < 16) (ha : a < 0x4000) (s : Chip) :
    debugRead (.control n a) s = answer .ok (leBytes 14 (Config.romWord (16384 * n + a)).toNat) s := by
  rw [debugRead, if_neg (by simp [spaceOk, hn, ha])]

section
variable {n a k v m : Nat} {bs : List Byte} {s : Chip}

theorem debugWrite_scratch (hn : n < 16) (hk : k < 16) :
    debugWrite (.scratch n k) v m bs s = answer .ok [] (modSm n (setScratch k (leAt bs 0 8)) s) := by
  rw [debugWrite, if_neg (by simp [spaceOk, hn, hk])]

theorem debugWrite_control (hn : n < 16) (ha : a < 0x4000) : debugWrite (.control n a) v m bs s = answer .badOperand [] s := by
  rw [debugWrite, if_neg (by simp [spaceOk, hn, ha])]

theorem debugWrite_patch (hn : n < 16) (ha : a < 2048) : debugWrite (.patch n a) v m bs s =
    answer .ok [] (modSm n (fun x => { x with patch := sins x.patch a (leAt bs 0 14), patched := true }) s) := by
  rw [debugWrite, if_neg (by simp [spaceOk, hn, ha])]

theorem debugWrite_trap (hn : n < 16) (ha : a < 64) : debugWrite (.trap n a) v m bs s = answer .ok [] (modSm n (fun x =>
    { x with traps := sins x.traps a (some ⟨leAt bs 0 2, leAt bs 2 2, bit (leAt bs 4 1) 0⟩), patched := true }) s) := by
  rw [debugWrite, if_neg (by simp [spaceOk, hn, ha])]

theorem debugWrite_localMem (hn : n < 16) (ha : a + bs.length ≤ 65536) :
    debugWrite (.localMem n a bs.length) v m bs s = answer .ok [] (modSm n (putLoc a bs) s) := by
  rw [debugWrite, if_neg (by simp [spaceOk, hn, ha]), List.take_of_length_le le_rfl]

theorem debugWrite_field {ca : Nat} {value mask : Word} (hd : writeDomains s ca value mask = []) :
    debugWrite (.field ca) value.toNat mask.toNat bs s =
      answer (writeWord ca value mask s).1 (leBytes 4 (writeWord ca value mask s).2.1.toNat) (writeWord ca value mask s).2.2 := by
  rw [debugWrite, if_neg (by simp [spaceOk])]
  simp only [BitVec.ofNat_toNat, BitVec.setWidth_eq, hd]

end

theorem sget_sins {α : Type} (d : α) (m : Sparse α) (k j : Nat) (v : α) : sget d (sins m k v) j = if j = k then v else sget d m j := by
  rw [sget_eq, sget_eq, sfind_sins]
  split <;> rfl

/-- The commands to a Signalman that exists (R480). -/
theorem debug_of_signalman {s : State} (h : DebugUp s.chip) {n : Nat} (hn : n < 16) (a k : Nat) :
    let m := smOf s.chip n
    let Says (c : Instr) (st : Status) (bs : List Byte) (u : Chip) : Prop :=
      Becomes c s (if Config.vendorLock then emit .debugLocked s.chip else emit (.debug st bs) u)
    (smRuns s.chip n = false → Says (.dbgHalt n) .ok [] s.chip) ∧
    (SmReady s.chip n → ∃ u, Says (.dbgHalt n) .ok [] u ∧ (smOf u n).halted = true ∧ (smOf u n).save = m.m ∧ (smOf u n).m = m.m) ∧
    (m.due = [] → ∃ u, Says (.dbgRun n) .ok [] u ∧ (smOf u n).halted = false ∧ (smOf u n).steps = none ∧ (smOf u n).m = m.m) ∧
    (m.halted = true → m.fenced = false → s.chip.boot.done = true → m.due = [1] → m.wait = none → m.bracket = 0 → m.inTrap = false →
      ∃ u w, Says (.dbgRun n) .ok [] u ∧ Says (.dbgStep n 1) .ok [] w ∧ ∀ y, y = u ∨ y = w →
        (smOf y n).inTrap = true ∧ (smOf y n).saveCause = 1 ∧ (smOf y n).save = m.m ∧
        (smOf y n).m = { m.m with addr := redirect m 0x10 }) ∧
    (m.halted = false → Says (.dbgStep n k) .badOperand [] s.chip) ∧
    (m.halted = true → m.due = [] → 1 ≤ k → k ≤ 65535 → ∃ u, Says (.dbgStep n k) .ok [] u ∧ (smOf u n).halted = false ∧
      (smOf u n).steps = some k ∧ (smOf u n).m = m.m) ∧
    (8 ≤ k → Says (.dbgBpSet n k a) .badOperand [] s.chip ∧ Says (.dbgBpClr n k) .badOperand [] s.chip) ∧
    (k < 8 → ∃ u w, Says (.dbgBpSet n k a) .ok [] u ∧ Says (.dbgBpClr n k) .ok [] w ∧
      (∀ j, sget none (smOf u n).bps j = if j = k then some (a % 2 ^ 15) else sget none m.bps j) ∧
      (∀ j, sget none (smOf w n).bps j = if j = k then none else sget none m.bps j)) := by
  intro m Says
  have replies {c : Instr} {f : Chip → Chip} (hc : exec c s = onChip s (dbgSm n f)) {st : Status} {bs : List Byte} {u : Chip}
      (hu : f s.chip = answer st bs u) : Says c st bs u := says_of_smAnswer h hn hc hu
  have at' (f : SmSt → SmSt) : smOf (modSm n f s.chip) n = f m := by rw [smOf_modSm, if_pos rfl]
  refine ⟨fun hr => replies rfl (debugHalt_still hr), fun hr => ⟨_, replies rfl (debugHalt_ready hr), ?halt⟩, fun hdue => ?run,
    fun hh hf hb hdue hwait hbr htrap => ?event, fun hh => replies rfl (debugStep_running hh), fun hh hdue hk hk' => ?step,
    fun hk => ⟨replies rfl ?_, replies rfl ?_⟩, fun hk => ⟨_, _, replies rfl (debugBp_eq hk (some a) s.chip), replies rfl (debugBp_eq hk none s.chip), ?set, ?clr⟩⟩
  case halt =>
    obtain ⟨hhalt, -, hsave, hm⟩ := takeTrap_halts (n := n) (c := 4) (s := modSm n (markDue 4) s.chip) (by decide)
    exact ⟨hhalt, hsave.trans (by rw [at']; rfl), hm.trans (by rw [at']; rfl)⟩
  case run =>
    have hnone : (smOf (modSm n runOn s.chip) n).due = [] := by rw [at']; simp [runOn, hdue]
    refine ⟨_, replies rfl (debugRun_eq n s.chip), ?_⟩
    rw [resumeSm_of_noDue hnone, smOf_modSm, if_pos rfl, at']
    exact ⟨rfl, rfl, rfl⟩
  case event =>
    obtain ⟨hin, hcause, hsave, hto⟩ := resumeSm_event (n := n) (s := modSm n runOn s.chip) h.1 hb (by rw [at']; exact hf)
      (by rw [at']; simp [runOn, hdue]) (by rw [at']; exact hwait) (by rw [at']; exact hbr) (by rw [at']; exact htrap)
    obtain ⟨hin', hcause', hsave', hto'⟩ := resumeSm_event (n := n) (s := modSm n (stepOn 1) s.chip) h.1 hb (by rw [at']; exact hf)
      (by rw [at']; exact hdue) (by rw [at']; exact hwait) (by rw [at']; exact hbr) (by rw [at']; exact htrap)
    refine ⟨_, _, replies rfl (debugRun_eq n s.chip), replies rfl (debugStep_eq (by decide) (by decide) hh), ?_⟩
    rintro y (rfl | rfl)
    · exact ⟨hin, hcause, hsave.trans (by rw [at']; rfl), hto.trans (by rw [at', redirect_congr (m := m) rfl rfl]; rfl)⟩
    · exact ⟨hin', hcause', hsave'.trans (by rw [at']; rfl), hto'.trans (by rw [at', redirect_congr (m := m) rfl rfl]; rfl)⟩
  case step =>
    refine ⟨_, replies rfl (debugStep_eq hk hk' hh), ?_⟩
    rw [resumeSm_of_noDue (by rw [at']; exact hdue), smOf_modSm, if_pos rfl, at']
    exact ⟨rfl, rfl, rfl⟩
  case set => intro j; rw [at']; exact sget_sput none m.bps k j (some (a % 2 ^ 15))
  case clr => intro j; rw [at']; exact sget_sput none m.bps k j none
  · rw [debugBp, if_pos hk]
  · rw [debugBp, if_pos hk]

/-- The memories of a Signalman that exists (R480). -/
theorem debug_of_memories {s : State} (h : DebugUp s.chip) {n : Nat} (hn : n < 16) (a k v : Nat) :
    let m := smOf s.chip n
    let Says (c : Instr) (st : Status) (bs : List Byte) (u : Chip) : Prop :=
      Becomes c s (if Config.vendorLock then emit .debugLocked s.chip else emit (.debug st bs) u)
    (∃ bs, bs.length = 160 ∧ bs.take 2 = leBytes 2 m.save.addr ∧ Says (.dbgSaveRead n) .ok bs s.chip) ∧
    (k < 16 → Says (.dbgMemRead (.scratch n k)) .ok (leBytes 8 (scratch m k)) s.chip ∧
      ∃ u, Says (.dbgMemWrite (.scratch n k) 0 0 (leBytes 8 v)) .ok [] u ∧
        ∀ r, scratch (smOf u n) r = if r = k then v % 2 ^ 64 else scratch m r) ∧
    (a < 0x4000 → Says (.dbgMemRead (.control n a)) .ok (leBytes 14 (Config.romWord (16384 * n + a)).toNat) s.chip ∧
      Says (.dbgMemWrite (.control n a) v 0 []) .badOperand [] s.chip) ∧
    (∀ bs, a < 2048 → ∃ u, Says (.dbgMemWrite (.patch n a) v 0 bs) .ok [] u ∧ (smOf u n).patched = true ∧
      ∀ j, sget 0 (smOf u n).patch j = if j = a then leAt bs 0 14 else sget 0 m.patch j) ∧
    (∀ bs, a < 64 → ∃ u, Says (.dbgMemWrite (.trap n a) v 0 bs) .ok [] u ∧ (smOf u n).patched = true ∧
      ∀ j, sget none (smOf u n).traps j = if j = a then some ⟨leAt bs 0 2, leAt bs 2 2, bit (leAt bs 4 1) 0⟩ else sget none m.traps j) ∧
    (∀ bs : List Byte, a + bs.length ≤ 65536 → ∃ u, Says (.dbgMemWrite (.localMem n a bs.length) v 0 bs) .ok [] u ∧
      ∀ j, locBytes (smOf u n) j 1 = if a ≤ j ∧ j < a + bs.length then bs[j - a]?.toList else locBytes m j 1) := by
  intro m Says
  have replies {c : Instr} {f : Chip → Chip} (hc : exec c s = onChip s (dbg f)) {st : Status} {bs : List Byte} {u : Chip}
      (hu : f s.chip = answer st bs u) : Says c st bs u := says_of_answer h hc hu
  have at' (f : SmSt → SmSt) : smOf (modSm n f s.chip) n = f m := by rw [smOf_modSm, if_pos rfl]
  refine ⟨⟨_, length_frameBytes m.save m.saveCause, take_frameBytes .., says_of_smAnswer h hn rfl rfl⟩,
    fun hk => ⟨replies rfl (debugRead_scratch hn hk s.chip), _, replies rfl (debugWrite_scratch hn hk), fun r => ?scratch⟩,
    fun ha => ⟨replies rfl (debugRead_control hn ha s.chip), replies rfl (debugWrite_control hn ha)⟩,
    fun bs ha => ⟨_, replies rfl (debugWrite_patch hn ha), by rw [at'], fun j => by rw [at']; exact sget_sins ..⟩,
    fun bs ha => ⟨_, replies rfl (debugWrite_trap hn ha), by rw [at'], fun j => by rw [at']; exact sget_sins ..⟩,
    fun bs ha => ⟨_, replies rfl (debugWrite_localMem hn ha), fun j => ?bytes⟩⟩
  case scratch =>
    rw [at', scratch_setScratch, leAt_leBytes, show 256 ^ 8 = 2 ^ 64 by norm_num, Nat.mod_mod]
  case bytes =>
    rw [at', locBytes_one, sget_loc_putLoc, locBytes_one]
    by_cases hj : a ≤ j ∧ j < a + bs.length
    · rw [if_pos hj, if_pos hj, List.getElem?_eq_getElem (by omega)]
      rfl
    · rw [if_neg hj, if_neg hj]

/-- Settles O57: every command of the port goes through `dbg`, which the vendor lock answers alone. -/
theorem debugAccess : Obligations.DebugAccess := by
  unfold Obligations.DebugAccess
  refine ⟨fun s => ?tap, fun s hd hir => ?port⟩
  case tap =>
    obtain ⟨h0, h2, h20, hid, hby⟩ := tap_selects s
    exact ⟨h0, h2, h20, hid, hby, fun n p o hir => ⟨becomes_of_onChip rfl (debugStatus_off hir n), becomes_of_onChip (f := dbg _) rfl (dbg_off hir _),
      becomes_of_onChip (f := dbg _) rfl (dbg_off hir _), becomes_of_onChip (f := dbg _) rfl (dbg_off hir _)⟩⟩
  case port =>
    have h : DebugUp s.chip := ⟨hd, hir⟩
    have gated {c : Instr} {f : Chip → Chip} (hc : exec c s = onChip s (dbg f)) :
        ∃ u, Becomes c s (if Config.vendorLock then emit .debugLocked s.chip else u) := ⟨_, becomes_dbg h hc rfl⟩
    refine ⟨fun n k a v m p bs o e => ⟨?status, gated rfl, gated rfl, gated rfl, gated rfl, gated rfl, gated rfl, gated rfl, gated rfl, gated rfl,
      gated rfl⟩, fun n a k hn => ⟨?range, becomes_dbgSm_range h hn rfl, becomes_dbgSm_range h hn rfl, becomes_dbgSm_range h hn rfl,
      becomes_dbgSm_range h hn rfl, becomes_dbgSm_range h hn rfl, becomes_dbgSm_range h hn rfl, ?noRegister⟩, fun n a k v hn => ⟨?answers, ?_⟩,
      fun ca v k hdom => says_of_answer h rfl (debugWrite_field hdom), fun o hl hs hlen hoff hb => ⟨fun hf => ?unfenced, fun hf => ?fenced⟩,
      fun e n hn => ?trace⟩
    case status =>
      have hst := debugStatus_up h n
      by_cases hn : 16 ≤ n
      · exact ⟨_, _, becomes_of_onChip rfl (hst.trans (if_pos hn))⟩
      · exact ⟨_, _, becomes_of_onChip rfl (hst.trans (if_neg hn))⟩
    case range => exact becomes_of_onChip rfl ((debugStatus_up h n).trans (if_pos hn))
    case noRegister => exact says_of_answer h rfl (by rw [debugRead, if_pos (by simp [spaceOk]; omega)])
    case answers => exact becomes_of_onChip rfl ((debugStatus_up h n).trans (if_neg (by omega)))
    case unfenced => exact says_of_answer h rfl ((debugTrace_fenced hl hs hlen hoff hb).trans (by simp [hf]))
    case fenced =>
      obtain ⟨rnd, hpkt, hlive, hhost⟩ := traceRun_changes o s.chip
      exact ⟨_, rnd, says_of_answer h rfl ((debugTrace_fenced hl hs hlen hoff hb).trans (if_pos hf)), hpkt, hlive, hhost⟩
    case trace => exact says_of_answer h rfl (by rw [debugTraceRead, if_neg (by omega)])
    · obtain ⟨h1, h2, h3, h4, h5, h6, h7, h8⟩ := debug_of_signalman h hn a k
      exact ⟨h1, h2, h3, h4, h5, h6, h7, h8, debug_of_memories h hn a k v⟩

end Sys2Proof.Machine
end

section
/-!
PROOFS. Micro-traps and `MICRO_CALL` (R463, R469 to R472, R476, R478): when a trap that is due is the one taken, what an abandoned routine
leaves of its Signalman, and the statement made of them.
-/

namespace Sys2Proof.Machine

/-! Events and the watchdog (R470) -/

theorem dutyEvent_waits {n event : Nat} {s : Chip} (hd : dead s = false) (hb : s.boot.done = true) (hf : (smOf s n).fenced = false)
    (h : (smOf s n).events ≠ [] ∨ (smOf s n).running = false ∨ (smOf s n).mask = true) :
    dutyEvent n event s = modSm n (fun m => { m with events := m.events ++ [event] }) s := by
  rw [dutyEvent, if_neg (by simp [hd, hb, hf])]
  dsimp only
  rw [if_neg]
  rcases h with h | h | h <;> simp [h]

/-- The first event of a routine that runs traps it. -/
theorem dutyEvent_traps {n event : Nat} {s : Chip} (h : SmReady s n) (hd : dead s = false) (hb : s.boot.done = true)
    (hf : (smOf s n).fenced = false) (hev : (smOf s n).events = []) (hrun : (smOf s n).running = true) (hmask : (smOf s n).mask = false)
    (htrap : (smOf s n).inTrap = false) : dutyEvent n event s =
      takeTrap n 1 (modSm n (markDue 1) (modSm n (fun m => { m with events := m.events ++ [event] }) s)) := by
  obtain ⟨-, hruns, hwait, -, hdue, hbr, -⟩ := h
  have hm : smOf (modSm n (markDue 1) (modSm n (fun m => { m with events := m.events ++ [event] }) s)) n =
      markDue 1 { smOf s n with events := (smOf s n).events ++ [event] } := by
    rw [smOf_modSm, if_pos rfl, smOf_modSm, if_pos rfl]
  rw [dutyEvent, if_neg (by simp [hd, hb, hf])]
  dsimp only
  rw [if_pos (by simp [hev, hrun, hmask]), smRuns_modSm rfl rfl, smRuns_modSm rfl rfl, if_pos hruns]
  exact settleTraps_event (by rw [hm]; simp [markDue, hdue, nadd]) (by rw [hm]; exact hwait) (by rw [hm]; exact hbr) (by rw [hm]; exact htrap)

theorem watchdogTrap_takes {n : Nat} {s : Chip} (hruns : smRuns s n = true) (hwait : (smOf s n).wait = none)
    (hrun : (smOf s n).running = true) (hlong : 10000000 ≤ elapsed s (smOf s n).turnAt) (hdue : (smOf s n).due = [])
    (hbr : (smOf s n).bracket = 0) (htrap : (smOf s n).inTrap = false) :
    watchdogTrap n s = takeTrap n 2 (modSm n (markDue 2) s) := by
  have hm : smOf (modSm n (markDue 2) s) n = markDue 2 (smOf s n) := by rw [smOf_modSm, if_pos rfl]
  have hno : trapNow (smOf (modSm n (markDue 2) s) n) 1 = false := by rw [hm]; simp [trapNow, trapDue, markDue, hdue, nadd]
  have hnow : trapNow (smOf (modSm n (markDue 2) s) n) 2 = true := by
    rw [hm]; simp [trapNow, trapDue, markDue, hdue, nadd, hwait, hbr, htrap]
  rw [watchdogTrap, if_pos (by simp [hruns, hrun, hlong]), settleTraps, List.find?_cons, hno, List.find?_cons, hnow]

theorem watchdogTrap_early {n : Nat} {s : Chip} (h : elapsed s (smOf s n).turnAt < 10000000) : watchdogTrap n s = s := by
  rw [watchdogTrap, if_neg (by simp; omega)]

theorem takeIfNow_taken {n c : Nat} {s : Chip} (hruns : smRuns s n = true) (h : trapNow (smOf s n) c = true) :
    takeIfNow n c s = takeTrap n c s := by
  rw [takeIfNow, hruns, h]
  rfl

/-- BREAK, HALT and STEP are taken at every boundary outside a bracket, also inside a handler (R470). -/
theorem trapNow_debug {m : SmSt} {c : Nat} (hc : 3 ≤ c ∧ c ≤ 5) (hdue : trapDue m c = true) (hwait : m.wait = none) (hbr : m.bracket = 0) :
    trapNow m c = true := by
  simp [trapNow, hdue, hwait, hbr, hc]

theorem trapNow_bracket {m : SmSt} (hdue : m.due.contains 8 = true) (hwait : m.wait = none) (htrap : m.inTrap = false) :
    trapNow m 8 = true := by
  simp only [List.contains_iff_mem] at hdue
  simp [trapNow, trapDue, hdue, hwait, htrap]

/-! MICRO_CALL (R478) -/

theorem giveUp_sb (ring : Nat) (c : Instr) (s : Chip) : (giveUp ring c s).sb = s.sb := by
  unfold giveUp
  split
  · exact foldl_keeps (φ := Chip.sb) (fun s i => modCab_sb i _ s) _ _
  · rfl

theorem modSm_sb_congr {s t : Chip} (h : s.sb = t.sb) (n : Nat) (f : SmSt → SmSt) : (modSm n f s).sb = (modSm n f t).sb := by
  rw [modSm, modSm, h]

/-- The staged words of an abandoned routine as they were before it (R472). -/
def unstageAll (l : Sparse (Word × Word)) (s : Chip) : Chip :=
  l.foldl (fun s x => setStaged x.1 (mergeW (stagedW s x.1) x.2.1 x.2.2) s) s

theorem unstageAll_sb (l : Sparse (Word × Word)) (s : Chip) : (unstageAll l s).sb = s.sb := by
  unfold unstageAll
  exact foldl_keeps (φ := Chip.sb) (fun _ _ => setStaged_sb ..) l s

/-- A Signalman that no `MICRO_CALL` Order waits for. -/
def uncalled (m : SmSt) : SmSt := { m with call := none, undo := [] }

theorem abandonCall_called {n ring : Nat} {s : Chip} (h : (smOf s n).call = some ring) (st : Status) :
    abandonCall n st s = modSm n uncalled (finishOrder ring st 0 (unstageAll (smOf s n).undo s)) := by
  rw [abandonCall]
  simp only [h]
  rfl

theorem abandonCall_uncalled {n : Nat} {s : Chip} (h : (smOf s n).call = none) (st : Status) : (abandonCall n st s).sb = s.sb := by
  rw [abandonCall]
  simp only [h]
  split
  · rfl
  · next r c _ => exact giveUp_sb r c s

/-- An abandoned routine gives its Signalman's call up; the rest of the Signal Box stays (R472). -/
theorem abandonCall_sb (n : Nat) (st : Status) (s : Chip) : (abandonCall n st s).sb = s.sb ∨
    (abandonCall n st s).sb = (modSm n uncalled s).sb := by
  cases h : (smOf s n).call with
  | none => exact .inl (abandonCall_uncalled h st)
  | some ring =>
    right
    rw [abandonCall_called h]
    exact modSm_sb_congr (unstageAll_sb _ s) n uncalled

theorem smOf_congr {s t : Chip} (h : t.sb = s.sb) : smOf t = smOf s := by
  funext n; unfold smOf; rw [h]

theorem smOf_abandonCall (n : Nat) (st : Status) (s : Chip) : smOf (abandonCall n st s) n = smOf s n ∨
    smOf (abandonCall n st s) n = uncalled (smOf s n) := by
  rcases abandonCall_sb n st s with h | h
  · exact .inl (by rw [smOf_congr h])
  · exact .inr (by rw [smOf_congr h, smOf_modSm, if_pos rfl])

/-- RESTART leaves a Signalman at its dispatcher, neither halted nor fenced, with its duty (R476, R478). -/
theorem restartSm_does (n : Nat) (s : Chip) : (smOf (restartSm n s) n).halted = false ∧ (smOf (restartSm n s) n).fenced = false ∧
    (smOf (restartSm n s) n).running = false ∧ (smOf (restartSm n s) n).m = { addr := redirect (smOf s n) 0x0100 } ∧
    (restartSm n s).sb.lapsed.contains n = false := by
  have hm : smOf (restartSm n s) n = { clearSm (smOf (abandonCall n .governed s) n) with fenced := false, halted := false } :=
    (smOf_modSm n n (fun m => { clearSm m with fenced := false, halted := false }) (abandonCall n .governed s)).trans (if_pos rfl)
  have hto : redirect (smOf (abandonCall n .governed s) n) 0x0100 = redirect (smOf s n) 0x0100 := by
    rcases smOf_abandonCall n .governed s with h | h <;> rw [h]
    exact redirect_congr rfl rfl _
  refine ⟨by rw [hm], by rw [hm], by rw [hm]; rfl, by rw [hm, ← hto]; rfl, ?_⟩
  simp [restartSm]

/-- The Signalman as a routine of `MICRO_CALL` begins on it (R478). -/
def called (ring now : Nat) (o : MicroCallOps) (m : SmSt) : SmSt :=
  let m := setScratch 1 o.arg1.toNat (setScratch 0 o.arg0.toNat m)
  { m with m := { m.m with addr := redirect m (0x3F00 + o.entry % 256) }, running := true, turnAt := now, call := some ring, undo := [] }

theorem microCall_begins {ring : Nat} {o : MicroCallOps} {s : Chip} (hn : o.sm < 16) (hf : (smOf s o.sm).fenced = false) :
    microCall ring o s = .going (modSm o.sm (called ring (runNs s) o) s) := by
  rw [microCall, if_neg (by omega), if_neg (by simp [hf])]
  rfl

theorem called_does (ring now : Nat) (o : MicroCallOps) (m : SmSt) : scratch (called ring now o m) 0 = o.arg0.toNat ∧
    scratch (called ring now o m) 1 = o.arg1.toNat ∧ (called ring now o m).m.addr = redirect m (0x3F00 + o.entry % 256) := by
  have hs (r : Nat) : scratch (called ring now o m) r = scratch (setScratch 1 o.arg1.toNat (setScratch 0 o.arg0.toNat m)) r := rfl
  refine ⟨?_, ?_, ?_⟩
  · rw [hs, scratch_setScratch, if_neg (by decide), scratch_setScratch, if_pos rfl, Nat.mod_eq_of_lt o.arg0.isLt]
  · rw [hs, scratch_setScratch, if_pos rfl, Nat.mod_eq_of_lt o.arg1.isLt]
  · rw [← redirect_congr (m := m) (k := setScratch 1 o.arg1.toNat (setScratch 0 o.arg0.toNat m)) rfl rfl]
    rfl

/-- An Order at work whose effect goes on has begun: the chip is what the effect leaves, but for that mark. -/
theorem begun_of_going {c : Instr} {s : State} {ring : Nat} {needs : Chip → List Nat} {eff : Chip → Ran}
    (hc : exec c s = onUnit (decide (ring < 64)) s fun u => runOrder ring c needs eff u) (h : AtWork s ring c) (hn : needs s.chip = [])
    {t : Chip} (he : eff s.chip = .going t) (ht : ringOf t = ringOf s.chip) :
    ∃ u run, u = modRing ring (fun v => { v with running := v.running.map fun o => { o with begun := true } }) t ∧ Becomes c s u ∧
      (ringOf u ring).running = some run ∧ run.outcome = none ∧ run.begun = true := by
  obtain ⟨run, hrun, -, hout, -⟩ := h.2.2.2
  refine ⟨_, { run with begun := true }, rfl, ?_, ?_, hout, rfl⟩
  · rw [Becomes, hc, onUnit_next (decide_eq_true h.1), runOrder_atWork h needs eff hn, he]
  · rw [ringOf_modRing, if_pos rfl, ht]
    exact congrArg (Option.map fun o => { o with begun := true }) hrun

/-! The statement -/

/-- Settles O56: the traps by which one of them is due, and `MICRO_CALL` by what each operation leaves of its Signalman. -/
theorem microTraps : Obligations.MicroTraps := by
  unfold Obligations.MicroTraps
  refine ⟨fun s n event hn hev hd hb hf => ⟨fun h => ?waits, fun hev0 hrun hmask htrap h => ?event⟩, fun s n hn hruns hwait => ?traps,
    fun s ring n => ⟨fun h => ?status, fun h hn => ?restart, fun o ho hn h hf hidle => ?call⟩⟩
  case waits =>
    refine ⟨_, becomes_of_onUnit rfl (by simp [hn, hev]) (dutyEvent_waits hd hb hf h), ?_⟩
    rw [smOf_modSm, if_pos rfl]
  case event =>
    refine ⟨_, becomes_of_onUnit rfl (by simp [hn, hev]) (dutyEvent_traps h hd hb hf hev0 hrun hmask htrap), ?_⟩
    have hm : smOf (modSm n (markDue 1) (modSm n (fun m => { m with events := m.events ++ [event] }) s.chip)) n =
        markDue 1 { smOf s.chip n with events := (smOf s.chip n).events ++ [event] } := by
      rw [smOf_modSm, if_pos rfl, smOf_modSm, if_pos rfl]
    have hhalt : (smOf s.chip n).halted = false := by
      have hruns := h.2.1
      simp only [smRuns, Bool.and_eq_true, Bool.not_eq_true'] at hruns
      exact hruns.2
    obtain ⟨hin, hcause, hsave, hto, hevs⟩ := takeTrap_event (n := n)
      (s := modSm n (markDue 1) (modSm n (fun m => { m with events := m.events ++ [event] }) s.chip)) (by rw [hm]; exact hhalt)
    refine ⟨hevs.trans ?_, hin, hcause, hsave.trans ?_, hto.trans ?_⟩
    · rw [hm]; simp [markDue, hev0]
    · rw [hm]; rfl
    · rw [hm, redirect_congr (m := smOf s.chip n) rfl rfl]; rfl
  case traps =>
    have halts {c : Instr} {k : Nat} (hk : 3 ≤ k ∧ k ≤ 5) (hc : exec c s = onUnit (decide (n < 16)) s fun s => takeIfNow n k s)
        (hbr : (smOf s.chip n).bracket = 0) (hdue : trapDue (smOf s.chip n) k = true) :
        ∃ t, Becomes c s t ∧ (smOf t n).halted = true ∧ (smOf t n).lastCause = k ∧ (smOf t n).save = (smOf s.chip n).m ∧
          (smOf t n).m = (smOf s.chip n).m :=
      ⟨_, becomes_of_onUnit hc (decide_eq_true hn) (takeIfNow_taken hruns (trapNow_debug hk hdue hwait hbr)), takeTrap_halts hk⟩
    refine ⟨fun hrun hlong hdue hbr htrap => ?_, fun hearly => ?_, fun hbr hbp => halts (by decide) rfl hbr hbp,
      fun hbr hdue => halts (by decide) rfl hbr hdue, fun hbr hsteps => halts (by decide) rfl hbr (by simp [trapDue, hsteps]), fun hdue htrap => ?_⟩
    · exact becomes_of_onUnit rfl (decide_eq_true hn) (watchdogTrap_takes hruns hwait hrun hlong hdue hbr htrap)
    · exact becomes_of_onUnit rfl (decide_eq_true hn) (watchdogTrap_early hearly)
    · exact becomes_of_onUnit rfl (decide_eq_true hn) (takeIfNow_taken hruns (trapNow_bracket hdue hwait htrap))
  case status =>
    refine ends_of_effect rfl h rfl ?_
    by_cases hn : n < 16
    · rw [microStatus, if_neg (by omega), if_pos hn, if_pos hn]
    · rw [microStatus, if_pos (by omega), if_neg hn, if_neg hn]
  case restart =>
    split
    · next hbusy => exact ends_of_effect rfl h rfl (by rw [microRestart, if_neg (by omega), if_pos (by simpa using hbusy)])
    · next hfree =>
      exact ⟨_, ends_of_effect rfl h rfl (by rw [microRestart, if_neg (by omega), if_neg (by simpa using hfree)]), restartSm_does n s.chip⟩
  case call =>
    subst ho
    have hnow : callWaits o s.chip = false := by simp [callWaits, hidle]
    have hc : exec (.microCallCall ring o) s =
        onUnit (decide (ring < 64)) s fun u => if callWaits o u then u else runOrder ring (.microCallCall ring o) noNeeds (microCall ring o) u := rfl
    have hrun : exec (.microCallCall ring o) s =
        onUnit (decide (ring < 64)) s fun u => runOrder ring (.microCallCall ring o) noNeeds (microCall ring o) u := by
      rw [hc, onUnit_next (decide_eq_true h.1), onUnit_next (decide_eq_true h.1), if_neg (by simp [hnow])]
    obtain ⟨u, run, rfl, hu, hr⟩ := begun_of_going hrun h rfl (microCall_begins hn hf) rfl
    have hm : smOf (modRing ring (fun v => { v with running := v.running.map fun o => { o with begun := true } })
        (modSm o.sm (called ring (runNs s.chip) o) s.chip)) o.sm = called ring (runNs s.chip) o (smOf s.chip o.sm) := by
      rw [smOf_congr (modRing_sb ..), smOf_modSm, if_pos rfl]
    obtain ⟨h0, h1, haddr⟩ := called_does ring (runNs s.chip) o (smOf s.chip o.sm)
    refine ⟨_, run, hu, ?_, ?_, ?_, ?_, ?_, hr⟩
    · rw [hm, h0]
    · rw [hm, h1]
    · rw [hm]; rfl
    · rw [hm]; rfl
    · rw [hm, haddr]

end Sys2Proof.Machine
end

section
/-!
PROOFS. What leaves every Signalman alone: words, Waybills, cells and copies, the accounts, and the faults of every island but the Signal Box
(R450, R463).
-/

namespace Sys2Proof.Machine

theorem sb_foldl {α : Type} {f : Chip → α → Chip} (l : List α) (s : Chip) (h : ∀ s a, (f s a).sb = s.sb) : (l.foldl f s).sb = s.sb :=
  foldl_keeps h l s

@[simp] theorem pmcCount_sb (i : Isl) (event sub : Nat) (s : Chip) : (pmcCount i event sub s).sb = s.sb := by
  obtain ⟨l, p, n, h⟩ := pmcCount_changes i event sub s; rw [h]

theorem withStaged_sb (m : Sparse Word) (s : Chip) : ({ s with staged := m } : Chip).sb = s.sb := rfl

/-! Words, Waybills and telemetry -/

@[simp] theorem setField'_sb (i : Isl) (off lo w v : Nat) (s : Chip) : (setField' i off lo w v s).sb = s.sb :=
  setLive_sb ..
@[simp] theorem bumpField_sb (i : Isl) (off lo w n : Nat) (s : Chip) : (bumpField i off lo w n s).sb = s.sb :=
  setLive_sb ..
@[simp] theorem bump_sb (i : Isl) (off n : Nat) (s : Chip) : (bump i off n s).sb = s.sb := bumpField_sb ..
@[simp] theorem errUpdate_sb (s : Chip) : (errUpdate s).sb = s.sb := rfl
@[simp] theorem setFence_sb (i : Isl) (cause : Nat) (s : Chip) : (setFence i cause s).sb = s.sb := rfl
@[simp] theorem modExport_sb (e : Nat) (f : ExportSt → ExportSt) (s : Chip) : (modExport e f s).sb = s.sb := rfl
@[simp] theorem deriveWord_sb (i : Isl) (off : Nat) (w : Word) (s : Chip) : (deriveWord i off w s).sb = s.sb :=
  (withStaged_sb ..).trans ((setShadow_sb ..).trans (setLive_sb ..))

@[simp] theorem msix_sb (v : Nat) (s : Chip) : (msix v s).sb = s.sb := by
  simp [msix, apply_ite Chip.sb]

@[simp] theorem countPosts_sb (e n : Nat) (sent : Bool) (s : Chip) : (countPosts e n sent s).sb = s.sb := by
  simp [countPosts, sb_foldl, apply_ite Chip.sb]

@[simp] theorem postOutcome_sb (post : Option (Nat × Nat)) (sent : Bool) (s : Chip) : (postOutcome post sent s).sb = s.sb := by
  cases post with
  | none => rfl
  | some _ => exact countPosts_sb ..

@[simp] theorem postcardSelect_sb (i : Isl) (w : Waybill) (s : Chip) : (postcardSelect i w s).sb = s.sb := by
  simp [postcardSelect, apply_ite Chip.sb]

@[simp] theorem finishWaybill_sb (i : Isl) (w : Waybill) (s : Chip) : (finishWaybill i w s).sb = s.sb := by
  simp [finishWaybill]

@[simp] theorem dropWaybill_sb (i : Isl) (reason : Nat) (w : Waybill) (s : Chip) : (dropWaybill i reason w s).sb = s.sb :=
  finishWaybill_sb ..

@[simp] theorem hostOutcome_sb (h : Option (Nat × Nat × Bool)) (st : Status) (ts : Nat) (s : Chip) :
    (hostOutcome h st ts s).sb = s.sb := by cases h <;> rfl

/-! Cells, copies and segments -/

@[simp] theorem setQueue_sb (q : Nat) (l : List Copy) (s : Chip) : (setQueue q l s).sb = s.sb := rfl
@[simp] theorem modQueueSt_sb (q : Nat) (f : QueueSt → QueueSt) (s : Chip) : (modQueueSt q f s).sb = s.sb := rfl
@[simp] theorem setShare_sb (y fid : Nat) (v : Share) (s : Chip) : (setShare y fid v s).sb = s.sb := rfl
@[simp] theorem pruneSegs_sb (s : Chip) : (pruneSegs s).sb = s.sb := rfl
@[simp] theorem keepDiscard_sb (c : Copy) (s : Chip) : (keepDiscard c s).sb = s.sb := rfl
@[simp] theorem noteStale_sb (s : Chip) : (noteStale s).sb = s.sb := rfl

@[simp] theorem modYard_sb (y : Nat) (f : YardSt → YardSt) (s : Chip) : (modYard y f s).sb = s.sb := by
  simp [modYard, apply_ite Chip.sb]

@[simp] theorem returnUnused_sb (y r u : Nat) (headroom : Bool) (s : Chip) : (returnUnused y r u headroom s).sb = s.sb :=
  modYard_sb ..

@[simp] theorem freeCells_sb (y r n : Nat) (ret : List Nat) (s : Chip) : (freeCells y r n ret s).sb = s.sb := by
  simp [freeCells, sb_foldl, apply_ite Chip.sb]

@[simp] theorem decShare_sb (y fid : Nat) (idxs : List Nat) (s : Chip) : (decShare y fid idxs s).sb = s.sb := by
  unfold decShare
  split
  · rfl
  · simp [apply_ite Chip.sb]

@[simp] theorem releaseCopy_sb (c : Copy) (s : Chip) : (releaseCopy c s).sb = s.sb := by simp [releaseCopy]

@[simp] theorem recordDrop_sb (i : Isl) (reason : Nat) (c : Copy) (s : Chip) : (recordDrop i reason c s).sb = s.sb := by
  simp [recordDrop]

@[simp] theorem startDiscard_sb (i : Isl) (reason : Nat) (c : Copy) (s : Chip) : (startDiscard i reason c s).sb = s.sb := by
  simp [startDiscard]

@[simp] theorem dropCopy_sb (i : Isl) (reason : Nat) (c : Copy) (s : Chip) : (dropCopy i reason c s).sb = s.sb := by
  simp [dropCopy, apply_ite Chip.sb]

@[simp] theorem dropQueued_sb (i : Copy → Isl) (reason : Nat) (f : Copy → Bool) (s : Chip) :
    (dropQueued i reason f s).sb = s.sb := by
  simp [dropQueued, sb_foldl]

@[simp] theorem cutTx_sb (p : Nat) (s : Chip) : (cutTx p s).sb = s.sb := by simp [cutTx, sb_foldl]
@[simp] theorem cutRx_sb (p : Nat) (s : Chip) : (cutRx p s).sb = s.sb := rfl

/-! The accounts -/

@[simp] theorem sendPfc_sb (p g : Nat) (on : Bool) (s : Chip) : (sendPfc p g on s).sb = s.sb := by
  unfold sendPfc
  split
  · rfl
  · dsimp only
    split
    · exact sb_foldl _ _ fun _ _ => by simp [apply_ite Chip.sb]
    · rfl

@[simp] theorem xoffUpdate_sb (s : Chip) : (xoffUpdate s).sb = s.sb := by
  simp [xoffUpdate, sb_foldl, apply_ite Chip.sb]

@[simp] theorem spillModes_sb (s : Chip) : (spillModes s).sb = s.sb := by
  simp [spillModes, sb_foldl, apply_ite Chip.sb]

@[simp] theorem rebuildMap_sb (q : Nat) (s : Chip) : (rebuildMap q s).sb = s.sb := by
  simp [rebuildMap, apply_ite Chip.sb]

@[simp] theorem spillKeyDrain_sb (s : Chip) : (spillKeyDrain s).sb = s.sb := by
  unfold spillKeyDrain
  (repeat' split) <;> rfl

/-- Bringing the accounts up to date changes no lane, port or group. -/
@[simp] theorem account_sb (s : Chip) : (account s).sb = s.sb := by simp [account, sb_foldl]

/-! What a fence and a hold drop -/

@[simp] theorem dropRx_sb (i : Isl) (reason : Nat) (f : RxFrame) (s : Chip) : (dropRx i reason f s).sb = s.sb := by
  simp [dropRx]

@[simp] theorem dropJn_sb (i : Isl) (reason : Nat) (f : JnFrame) (s : Chip) : (dropJn i reason f s).sb = s.sb := by
  simp [dropJn]

@[simp] theorem clearIline_sb (reason n : Nat) (s : Chip) : (clearIline reason n s).sb = s.sb := by
  simp [clearIline, sb_foldl]

@[simp] theorem clearEline_sb (reason n : Nat) (s : Chip) : (clearEline reason n s).sb = s.sb := by
  simp [clearEline, sb_foldl]

@[simp] theorem clearJn_sb (h : Nat) (s : Chip) : (clearJn h s).sb = s.sb := by simp [clearJn, sb_foldl]

@[simp] theorem stompTx_sb (t : TxCopy) (s : Chip) : (stompTx t s).sb = s.sb := by simp [stompTx]

@[simp] theorem emptyChannels_sb (q : Nat) (s : Chip) : (emptyChannels q s).sb = s.sb := by
  exact sb_foldl _ _ fun _ _ => modChan_sb ..

@[simp] theorem clearYard_sb (y : Nat) (s : Chip) : (clearYard y s).sb = s.sb := by
  simp [clearYard, sb_foldl, apply_ite Chip.sb]

@[simp] theorem dropAllFrames_sb (s : Chip) : (dropAllFrames s).sb = s.sb := by
  simp [dropAllFrames, sb_foldl, apply_ite Chip.sb]

@[simp] theorem startHold_sb (src own : Nat) (s : Chip) : (startHold src own s).sb = s.sb := by
  simp [startHold, apply_ite Chip.sb]

/-! Ports and Platforms -/

@[simp] theorem recclkHold_sb (f : Nat → Bool) (s : Chip) : (recclkHold f s).sb = s.sb := rfl
@[simp] theorem recclkResume_sb (f : Nat → Bool) (s : Chip) : (recclkResume f s).sb = s.sb := rfl
@[simp] theorem regroupPort_sb (p : Nat) (s : Chip) : (regroupPort p s).sb = s.sb := rfl
@[simp] theorem setPort_sb (p : Nat) (v : Option Port) (s : Chip) : (setPort p v s).sb = s.sb := rfl

@[simp] theorem portTo_sb (p : Nat) (st : PortState) (s : Chip) : (portTo p st s).sb = s.sb := by
  unfold portTo
  split
  · rfl
  · simp [apply_ite Chip.sb]

theorem downPort_sb (p : Nat) (s : Chip) :
    (match portOf s p with | none => s | some v => if v.st = PortState.adminDown then s else portTo p .fault s : Chip).sb = s.sb := by
  split
  · rfl
  · simp [apply_ite Chip.sb]

@[simp] theorem holdPorts_sb (k : Nat) (s : Chip) : (holdPorts k s).sb = s.sb := sb_foldl _ _ fun s p => downPort_sb p s

@[simp] theorem portsDown_sb (k : Nat) (s : Chip) : (portsDown k s).sb = s.sb := sb_foldl _ _ fun s p => downPort_sb p s

@[simp] theorem lanesDown_sb (k : Nat) (s : Chip) : (lanesDown k s).sb = s.sb := sb_foldl _ _ fun _ _ => modLane_sb ..

@[simp] theorem unholdPorts_sb (k : Nat) (s : Chip) : (unholdPorts k s).sb = s.sb := by
  unfold unholdPorts
  split
  · rfl
  · refine sb_foldl _ _ fun s p => ?_
    split
    · rfl
    · simp [apply_ite Chip.sb]

@[simp] theorem rehold_sb (s0 s : Chip) : (rehold s0 s).sb = s.sb := by
  simp [rehold, sb_foldl, apply_ite Chip.sb]

/-! What a fault fences, the Signal Box aside -/

@[simp] theorem fencePlatform_sb (k cause : Nat) (s : Chip) : (fencePlatform k cause s).sb = s.sb := by
  simp [fencePlatform, apply_ite Chip.sb]

@[simp] theorem fenceLine_sb (eg : Bool) (n cause : Nat) (s : Chip) : (fenceLine eg n cause s).sb = s.sb := by
  simp [fenceLine, apply_ite Chip.sb]

@[simp] theorem relimit_sb (y : Nat) (s : Chip) : (relimit y s).sb = s.sb := by
  unfold relimit
  refine sb_foldl _ _ fun s q => ?_
  rw [setShadow_sb, apply_ite Chip.sb, setLive_sb, ite_self]

@[simp] theorem finishAll_sb {α : Type} (ring : α → Nat) (st : Status) (res : DWord) (l : List α) (s : Chip) :
    (l.foldl (fun s x => finishOrder (ring x) st res s) s).sb = s.sb :=
  sb_foldl _ _ fun _ _ => finishOrder_sb ..

@[simp] theorem endRetrain_sb (st st' : Status) (c : Nat) (s : Chip) : (endRetrain st st' c s).sb = s.sb := by
  simp only [endRetrain, finishAll_sb, modChan_sb]

@[simp] theorem clearQuarry_sb (q : Nat) (s : Chip) : (clearQuarry q s).sb = s.sb := by simp [clearQuarry]

@[simp] theorem cancelCommit_sb (n : Nat) (s : Chip) : (cancelCommit n s).sb = s.sb := by
  unfold cancelCommit
  (repeat' split) <;> simp

@[simp] theorem reliefFence_sb (n : Nat) (s : Chip) : (reliefFence n s).sb = s.sb := by
  unfold reliefFence
  dsimp only
  (repeat' split) <;> rfl

/-- The jobs of an engine that goes out of use complete, or move on (R379). -/
theorem endJobs_sb (jobs : List JobSt) (s : Chip) :
    (jobs.foldl (fun s j => match j.ring with | some r => finishOrder r .fenced 0 s | none => s) s).sb = s.sb :=
  sb_foldl _ _ fun _ j => by cases j.ring <;> rfl

@[simp] theorem clearEngines_sb (s : Chip) : (clearEngines s).sb = s.sb := endJobs_sb ..

@[simp] theorem engineOutOfUse_sb (e : Nat) (s : Chip) : (engineOutOfUse e s).sb = s.sb := by
  unfold engineOutOfUse
  dsimp only
  split
  · exact endJobs_sb ..
  · exact sb_foldl _ _ fun _ _ => rfl

@[simp] theorem fenceIsland_sb (i : Isl) (cause : Nat) (s : Chip) : (fenceIsland i cause s).sb = s.sb := by
  unfold fenceIsland
  split
  · rfl
  · cases i <;> simp [sb_foldl, cancelPrepared]

@[simp] theorem fenceTile_sb (t cause : Nat) (s : Chip) : (fenceTile t cause s).sb = s.sb := by
  simp [fenceTile, sb_foldl]

@[simp] theorem fenceChannel_sb (q k cause : Nat) (s : Chip) : (fenceChannel q k cause s).sb = s.sb := by
  simp [fenceChannel, apply_ite Chip.sb]

theorem fenceFor_sb {i : Isl} (h : i ≠ .sb) (loc : Nat) (s : Chip) : (fenceFor i loc s).sb = s.sb := by
  unfold fenceFor
  split <;> simp_all [apply_ite Chip.sb]

/-- The fault of an island other than the Signal Box touches no Signalman. -/
theorem raiseIn_sb {i : Isl} (h : i ≠ .sb) (cabin : Bool) (loc cls sev : Nat) (s : Chip) : (raiseIn cabin i loc cls sev s).sb = s.sb := by
  simp [raiseIn, apply_ite Chip.sb, fenceFor_sb h]

theorem raise_sb {i : Isl} (h : i ≠ .sb) (loc cls sev : Nat) (s : Chip) : (raise i loc cls sev s).sb = s.sb := raiseIn_sb h ..

@[simp] theorem retireLimit_sb (s : Chip) : (retireLimit s).sb = s.sb :=
  sb_foldl _ _ fun s y => by
    rw [apply_ite Chip.sb, raise_sb (i := .yard y) nofun, ite_self]

@[simp] theorem settle_sb (s : Chip) : (settle s).sb = s.sb := by rw [settle, account_sb, retireLimit_sb]

end Sys2Proof.Machine
end

section
/-!
PROOFS. What the write of a word leaves of the Signalmen and of host memory (R118): all of it, but for the Signal Box of a device that a thermal
trip switches off (R60).
-/

namespace Sys2Proof.Machine

theorem hostMem_of_kept {s t : Chip} (h : kept t = kept s) : t.hostMem = s.hostMem := congrArg (fun k => k.2.2.2.1) h

@[simp] theorem fillBuckets_sb (q : Nat) (s : Chip) : (fillBuckets q s).sb = s.sb := by
  unfold fillBuckets
  simp [apply_ite Chip.sb]

@[simp] theorem fillBefore_sb (i : Isl) (off : Nat) (s : Chip) : (fillBefore i off s).sb = s.sb := by
  unfold fillBefore
  (repeat' split) <;> simp

@[simp] theorem classUpdate_sb (s : Chip) : (classUpdate s).sb = s.sb := rfl
@[simp] theorem resetWords_sb (i : Isl) (s : Chip) : (resetWords i s).sb = s.sb := rfl
@[simp] theorem clearMons_sb (i : Isl) (s : Chip) : (clearMons i s).sb = s.sb := rfl
@[simp] theorem clearSecys_sb (k : Nat) (s : Chip) : (clearSecys k s).sb = s.sb := rfl

@[simp] theorem resetLine_sb (eg : Bool) (n : Nat) (s : Chip) : (resetLine eg n s).sb = s.sb := by
  simp [resetLine, apply_ite Chip.sb]

@[simp] theorem resetIsland_sb (i : Isl) (s : Chip) : (resetIsland i s).sb = s.sb := by
  unfold resetIsland
  have hbase : (clearMons i (resetWords i s)).sb = s.sb := rfl
  generalize clearMons i (resetWords i s) = t at hbase ⊢
  rw [← hbase]
  cases i
  case platform => exact (sb_foldl _ _ fun _ _ => modLane_sb ..).trans ((clearSecys_sb ..).trans (lanesDown_sb ..))
  case quarry => exact (sb_foldl _ _ fun _ _ => modChan_sb ..).trans ((modPkt_sb ..).trans (sb_foldl _ _ fun _ _ => endRetrain_sb ..))
  case iline n => exact resetLine_sb false n t
  case eline n => exact resetLine_sb true n t
  all_goals rfl

/-- The device after a write of a word: host memory as it was, and the Signalmen too, or the Signal Box at its reset values. -/
def WordWritten (s t : Chip) : Prop := t.hostMem = s.hostMem ∧ (t.sb = s.sb ∨ t.sb = {})

namespace WordWritten

theorem refl (s : Chip) : WordWritten s s := ⟨rfl, .inl rfl⟩

theorem trans {s t u : Chip} (h : WordWritten s t) (h' : WordWritten t u) : WordWritten s u :=
  ⟨h'.1.trans h.1, h'.2.elim (fun e => e ▸ h.2) .inr⟩

theorem of_kept {s t : Chip} (hk : kept t = kept s) (hsb : t.sb = s.sb) : WordWritten s t := ⟨hostMem_of_kept hk, .inl hsb⟩

end WordWritten

theorem countFencedReq_wordWritten (i : Isl) (s : Chip) : WordWritten s (countFencedReq i s) :=
  .of_kept (countFencedReq_kept i s) (bump_sb ..)

theorem wordWritten_foldl {α : Type} {f : Chip → α → Chip} (h : ∀ s a, WordWritten s (f s a)) (l : List α) (s : Chip) :
    WordWritten s (l.foldl f s) := by
  induction l generalizing s with
  | nil => exact .refl s
  | cons a l ih => exact (h s a).trans (ih _)

theorem wordWritten_of_rfl {s t : Chip} (hm : t.hostMem = s.hostMem := by rfl) (hs : t.sb = s.sb := by rfl) : WordWritten s t :=
  ⟨hm, .inl hs⟩

/-- A domain goes off with its islands at their reset values. -/
theorem domainOff_wordWritten (n : Nat) (s : Chip) : WordWritten s (domainOff n s) := by
  have hreset (l : List Isl) (t : Chip) : WordWritten t
      (l.foldl (fun s i => modCab i (fun c => { fenced := c.fenced, gen := c.gen, cause := c.cause }) (resetIsland i s)) t) :=
    wordWritten_foldl (fun s i => WordWritten.trans (.of_kept (resetIsland_kept i s) (resetIsland_sb i s)) wordWritten_of_rfl) l t
  unfold domainOff
  dsimp only
  generalize hu : List.foldl _ _ (islandsOf n) = u
  have hw : WordWritten s u := hu ▸ WordWritten.trans wordWritten_of_rfl (hreset _ _)
  split
  · exact hw.trans wordWritten_of_rfl
  · exact hw.trans wordWritten_of_rfl

theorem writeMode_wordWritten (n mode : Nat) (s : Chip) : WordWritten s (writeMode n mode s).2 := by
  unfold writeMode
  (repeat' split)
  case isFalse => exact (domainOff_wordWritten n s).trans wordWritten_of_rfl
  all_goals exact wordWritten_of_rfl

theorem raise_wordWritten {i : Isl} (h : i ≠ .sb) (loc cls sev : Nat) (s : Chip) : WordWritten s (raise i loc cls sev s) :=
  .of_kept (raise_kept ..) (raise_sb h ..)

theorem wordWritten_ite {c : Prop} [Decidable c] {s t u : Chip} (ht : WordWritten s t) (hu : WordWritten s u) :
    WordWritten s (if c then t else u) := by split <;> assumption

theorem tripOff_wordWritten (s : Chip) : WordWritten s (tripOff s) := ⟨rfl, .inr rfl⟩

/-- The thresholds of R59 raise faults of the Keystone, and a trip resets the Signal Box (R60). -/
theorem thermal_wordWritten (s : Chip) : WordWritten s (thermal s) := by
  have hraise {t : Chip} (h : WordWritten s t) (c : Prop) [Decidable c] (loc sev : Nat) :
      WordWritten s (if c then raise .ks loc clsPower sev t else t) :=
    wordWritten_ite (h.trans (raise_wordWritten (i := .ks) nofun ..)) h
  unfold thermal
  dsimp only
  split
  · exact wordWritten_ite (tripOff_wordWritten s) (.refl s)
  · generalize hs : ({ s with power := _ } : Chip) = t
    have ht : WordWritten s t := hs ▸ wordWritten_of_rfl
    refine wordWritten_ite (WordWritten.trans ?_ (tripOff_wordWritten _)) ?_ <;>
      exact hraise (hraise (hraise ht _ 0x22 4) _ 0x21 2) _ 0x20 0

@[simp] theorem ppsHold_sb (s : Chip) : (ppsHold s).sb = s.sb := sb_foldl _ _ fun _ _ => rfl

@[simp] theorem ttEvent_sb (k : Nat) (s : Chip) : (ttEvent k s).sb = s.sb := by
  simp [ttEvent, apply_ite Chip.sb]

theorem wdogEnter_wordWritten (s : Chip) : WordWritten s (wdogEnter s) := by
  refine .of_kept (wdogEnter_kept s) ?_
  unfold wdogEnter
  split
  · rfl
  · exact (raise_sb (i := .tt) nofun ..).trans ((ttEvent_sb ..).trans (ppsHold_sb _))

theorem fillBefore_wordWritten (i : Isl) (off : Nat) (s : Chip) : WordWritten s (fillBefore i off s) := by
  unfold fillBefore
  (repeat' split)
  · exact .refl s
  · exact .of_kept (fillBuckets_kept ..) (fillBuckets_sb ..)
  · exact .refl s

theorem afterWrite_wordWritten (i : Isl) (off : Nat) (s : Chip) : WordWritten s (afterWrite i off s) := by
  unfold afterWrite
  split
  · exact wordWritten_ite (thermal_wordWritten s) (wordWritten_ite wordWritten_of_rfl (.refl s))
  · exact wordWritten_ite (wdogEnter_wordWritten s) (.refl s)
  · exact wordWritten_ite wordWritten_of_rfl (.refl s)
  · exact wordWritten_ite wordWritten_of_rfl (fillBefore_wordWritten ..)
  · exact .refl s

theorem clearW1c_wordWritten (i : Isl) (off ones : Nat) (s : Chip) : WordWritten s (clearW1c i off ones s) := by
  unfold clearW1c
  (repeat' split) <;> exact wordWritten_of_rfl

theorem wordWritten_answer {c : Prop} [Decidable c] {s : Chip} {a b : Status × Word × Chip} (ha : WordWritten s a.2.2)
    (hb : WordWritten s b.2.2) : WordWritten s (if c then a else b).2.2 := by split <;> assumption

theorem writeWord_wordWritten (ca : Nat) (value mask : Word) (s : Chip) : WordWritten s (writeWord ca value mask s).2.2 := by
  unfold writeWord
  split
  · exact .refl s
  · next i off _ =>
    dsimp only
    refine wordWritten_answer (countFencedReq_wordWritten i s)
      (WordWritten.trans (.of_kept (pmcCount_kept i 0x02 0 s) (pmcCount_sb i 0x02 0 s)) ?_)
    generalize pmcCount i 0x02 0 s = u
    have hmode (n mode : Nat) {r : Status × Chip} (hr : writeMode n mode u = r) (x : Word) : WordWritten u (r.1, x, r.2).2.2 :=
      hr ▸ writeMode_wordWritten n mode u
    split
    · exact .refl u
    · next w _ =>
      refine wordWritten_answer (.refl u) <| wordWritten_answer (.refl u) <| wordWritten_answer (.refl u) <|
        wordWritten_answer (wordWritten_answer wordWritten_of_rfl (wordWritten_answer (.refl u) (.refl u))) <|
        wordWritten_answer (wordWritten_answer (.refl u) (hmode _ _ rfl _)) <| wordWritten_answer (.refl u) ?_
      refine WordWritten.trans (clearW1c_wordWritten i off (value &&& mask &&& BitVec.ofNat 32 w.w1c).toNat u) ?_
      generalize clearW1c i off _ u = v
      refine wordWritten_answer (.refl v) (wordWritten_answer (.refl v) ?_)
      refine WordWritten.trans ?_ (afterWrite_wordWritten ..)
      have hput : WordWritten v (fillBefore i off v) := fillBefore_wordWritten i off v
      refine WordWritten.trans (wordWritten_ite wordWritten_of_rfl (hput.trans ?_)) (wordWritten_ite wordWritten_of_rfl (.refl _))
      exact wordWritten_ite wordWritten_of_rfl (wordWritten_ite wordWritten_of_rfl wordWritten_of_rfl)

/-- A Signalman with no trap due has none after the write of a word. -/
theorem due_writeWord {s : Chip} {n : Nat} (h : (smOf s n).due = []) (ca : Nat) (value mask : Word) :
    (smOf (writeWord ca value mask s).2.2 n).due = [] := by
  obtain ⟨-, hsb | hsb⟩ := writeWord_wordWritten ca value mask s
  · rw [smOf_congr hsb, h]
  · rw [smOf, hsb]; rfl

end Sys2Proof.Machine
end

section
/-!
PROOFS. The bus part of a microword (R468, R474): what a word leaves beside its bus operation, and the statement about the operations.
-/

namespace Sys2Proof.Machine

/-! The fields of a word beside its bus code (R464) -/

theorem wImmB_putField_bus (x k : Nat) : wImmB (putField x 61 4 k) = wImmB x := by
  rw [wImmB, wImmB, bit_eq_bits, bit_eq_bits, bits_putField_other _ _ _ _ _ _ (by decide)]

theorem wImm_putField_bus (x k : Nat) : wImm (putField x 61 4 k) = wImm x := bits_putField_other _ _ _ _ _ _ (by decide)

theorem wDst_putField_bus (x k : Nat) : wDst (putField x 61 4 k) = wDst x := bits_putField_other _ _ _ _ _ _ (by decide)

theorem wBreg_putField_bus (x k : Nat) : wBreg (putField x 61 4 k) = wBreg x := bits_putField_other _ _ _ _ _ _ (by decide)

theorem wA_putField_bus (m : SmSt) (x k : Nat) : wA m (putField x 61 4 k) = scratch m (wSrcA x) := by
  rw [wA, wSrcA, wSrcA, bits_putField_other _ _ _ _ _ _ (by decide)]

theorem wB_putField_bus (m : SmSt) (x k : Nat) : wB m (putField x 61 4 k) = if wImmB x then wImm x else scratch m (wSrcB x) := by
  rw [wB, wImmB_putField_bus, wImm_putField_bus, wSrcB, wSrcB, bits_putField_other _ _ _ _ _ _ (by decide)]

theorem wBus_putField (x : Nat) {k : Nat} (h : k < 2 ^ 4) : wBus (putField x 61 4 k) = k := by
  rw [wBus, bits_putField, Nat.mod_eq_of_lt h]

/-! What a word leaves beside its bus operation -/

theorem afterWord_loc (hold : Bool) (m : SmSt) : (afterWord hold m).loc = m.loc := by
  simp only [afterWord, apply_ite SmSt.loc, markDue, ite_self]

theorem afterWord_wait (hold : Bool) (m : SmSt) : (afterWord hold m).wait = none := by
  simp only [afterWord, apply_ite SmSt.wait, markDue, ite_self]

theorem beginTurn_loc (s : Chip) (m k : SmSt) : (beginTurn s m k).loc = k.loc := by
  rcases beginTurn_cases s m k with h | h <;> rw [h]

theorem busPut_due (b : BusWait) (m : SmSt) : (busPut b m).due = m.due := by
  unfold busPut; (repeat' split) <;> rfl

theorem busPut_loc (b : BusWait) (m : SmSt) : (busPut b m).loc = m.loc := by
  unfold busPut; (repeat' split) <;> rfl

/-- The word as it stands for the end of its cycle after its bus operation. -/
def busWait (w : Nat) (inp : MwIn) (r : BusRes) : BusWait :=
  { word := w, done := inp.answered || wBus w = 0, err := r.err, governed := r.governed, value := r.value, status := r.status }

/-- A plain word with a bus operation alone leaves the device as the operation does, its own Signalman aside, which has the answer in DST. -/
theorem runWord_bus {s u : Chip} {n w : Nat} {inp : MwIn} {r : BusRes} (h : SmReady s n) (hp : PlainWord w) (hseq : wSeq w = 0)
    (halu : wAlu w = 0) (hbus : wBus w ≤ 8) (hneeds : busNeeds n w s = []) (hr : busOp n w inp.dma s = (r, u))
    (hdue : (smOf u n).due = []) :
    (∃ f g, runWord n w inp s = modSm n g (modSm n f u)) ∧
    (∀ k, scratch (smOf (runWord n w inp s) n) k = scratch (busPut (busWait w inp r) (smOf u n)) k) ∧
    (smOf (runWord n w inp s) n).loc = (smOf u n).loc := by
  obtain ⟨hhold, hwait, hcond, -⟩ := hp
  have hword : (busWait w inp r).word = w := rfl
  have hb : beforeSeq n (busWait w inp r) u = modSm n (busPut (busWait w inp r)) u := by
    rw [beforeSeq_of_noYield (by rw [hword, hseq]; decide), hword, runAlu_idle halu]
  have hrun : runWord n w inp s = finishWord n (busWait w inp r) (true != wCneg w) u := by
    rw [runWord_of_ready h (wIllegal_of_plain hhold (by omega) (by omega) (by omega) hbus), issueWord, hneeds]
    dsimp only
    rw [hr]
    exact cycleWord_of_noWait hwait (condRaw_true hcond)
  have hm : smOf (beforeSeq n (busWait w inp r) u) n = busPut (busWait w inp r) (smOf u n) := by rw [hb, smOf_modSm, if_pos rfl]
  obtain ⟨hfin, hsm⟩ := finishWord_of_sequence (cond := true != wCneg w) hhold hm (sequence_next hseq) (by rw [busPut_due, hdue])
  rw [hrun]
  refine ⟨⟨_, _, by rw [hfin, hb]⟩, fun k => ?_, ?_⟩
  · rw [hsm, scratch, afterWord_m, beginTurn_m]; rfl
  · rw [hsm, afterWord_loc, beginTurn_loc]; exact busPut_loc ..

/-- The answer of a bus operation stands in DST. -/
theorem scratch_busPut {w v : Nat} {inp : MwIn} {r : BusRes} (hbus : wBus w ≠ 0) (hv : r.value = some v) (m : SmSt) :
    scratch (busPut (busWait w inp r) m) (wDst w) = v % 2 ^ 64 := by
  unfold busPut busWait
  simp only [if_neg hbus, hv, scratch_setScratch, if_true]

/-! What the operations leave of the Signalmen -/

@[simp] theorem clearRc_sb (i : Isl) (off : Nat) (s : Chip) : (clearRc i off s).sb = s.sb := by
  unfold clearRc
  split
  · rfl
  · split
    · rfl
    · exact setLive_sb ..

@[simp] theorem ringEvent_sb (s : Chip) : (ringEvent s).sb = s.sb := by
  unfold ringEvent
  split
  · rfl
  · exact msix_sb ..

@[simp] theorem stopDma_sb (q : Nat) (s : Chip) : (stopDma q s).sb = s.sb := ringEvent_sb _

@[simp] theorem dmaComplete_sb (q : Nat) (body : Bool → List Byte) (s : Chip) : (dmaComplete q body s).sb = s.sb := by
  simp [dmaComplete]

@[simp] theorem writeCompletion_sb (ring : Nat) (o : Running) (st : Status) (res : DWord) (s : Chip) :
    (writeCompletion ring o st res s).sb = s.sb := by
  simp [writeCompletion, apply_ite Chip.sb]

theorem deliverInto_sb (q : Nat) (x : HostRx) (ds : List (Nat × Option (List Byte))) (s : Chip) : (deliverInto q x ds s).2.sb = s.sb := by
  induction ds generalizing s with
  | nil => rfl
  | cons d ds ih =>
    obtain ⟨slot, _ | bs⟩ := d
    · rw [deliverInto]
      split
      · rfl
      · exact stopDma_sb ..
    · rw [deliverInto]
      dsimp only
      split
      · rfl
      · split
        · rw [ih, dmaComplete_sb]; rfl
        · rw [dmaComplete_sb, hostWrite_sb]; rfl

@[simp] theorem deliverTry_sb (q : Nat) (x : HostRx) (s : Chip) : (deliverTry q x s).2.sb = s.sb := by
  unfold deliverTry
  dsimp only
  split
  · rfl
  · exact deliverInto_sb ..

@[simp] theorem directFrame_sb (tag : Option (Nat × Nat × Bool)) (post : Option (Nat × Nat)) (q : Nat) (bytes : List Byte) (s : Chip) :
    (directFrame tag post q bytes s).sb = s.sb := by
  unfold directFrame
  dsimp only
  split
  · rw [dropJn_sb, bump_sb, countFencedReq, bump_sb]; rfl
  · split
    · rw [dropJn_sb]; rfl
    · rfl

/-- A DIRECT frame waits as the last one of a Junction half that takes it (R121). -/
theorem directFrame_enters {tag : Option (Nat × Nat × Bool)} {post : Option (Nat × Nat)} {q h : Nat} {bytes : List Byte} {s : Chip}
    (hhalf : usableHalf s 0 = some h) (hhold : chipHold s = false) :
    ∃ f, (directFrame tag post q bytes s).pkt.jn = s.pkt.jn ++ [f] ∧ f.bytes = bytes ∧ f.direct = some q ∧ f.post = post := by
  have hhold' (k : PacketSt → PacketSt) : chipHold (modPkt k (freeTake s)) = false := hhold
  simp only [directFrame, hhalf, hhold', Bool.false_eq_true, if_false]
  exact ⟨_, rfl, rfl, rfl, rfl⟩

/-! The wait of a Signalman ends for good (R465) -/

theorem wait_modSm {n k : Nat} {f : SmSt → SmSt} {s : Chip} (hf : ∀ m : SmSt, m.wait = none → (f m).wait = none)
    (h : (smOf s n).wait = none) : (smOf (modSm k f s) n).wait = none := by
  rw [smOf_modSm]
  split
  · next e => exact hf _ (e ▸ h)
  · exact h

theorem wait_abandonCall {n k : Nat} (st : Status) {s : Chip} (h : (smOf s n).wait = none) : (smOf (abandonCall k st s) n).wait = none := by
  rcases abandonCall_sb k st s with e | e
  · rw [smOf_congr e]; exact h
  · rw [smOf_congr e]; exact wait_modSm (fun _ h => h) h

theorem lapseOrders_sb (s : Chip) : (lapseOrders s).sb = s.sb := by
  unfold lapseOrders
  refine sb_foldl _ _ fun s x => ?_
  split
  · rfl
  · dsimp only
    split
    · rfl
    · rw [apply_ite Chip.sb, finishOrder_sb, giveUp_sb, ite_self]

theorem wait_of_sms {s t : Chip} {n : Nat} (hs : t.sb.sms = s.sb.sms) (h : (smOf s n).wait = none) : (smOf t n).wait = none := by
  rw [smOf, hs]; exact h

theorem wait_fenceSm {n : Nat} (k : Nat) {s : Chip} (h : (smOf s n).wait = none) : (smOf (fenceSm k s) n).wait = none := by
  have hlet (st : Status) (c : Prop) [Decidable c] : (smOf (if c then abandonCall k st s else s) n).wait = none := by
    split
    · exact wait_abandonCall st h
    · exact h
  unfold fenceSm
  dsimp only
  generalize hu : modSm k clearSm _ = u
  have hclear : (smOf u n).wait = none := by
    subst hu
    refine wait_modSm (fun _ _ => rfl) ?_
    split
    · exact hlet ..
    · exact hlet ..
  split
  · exact hclear
  · rw [smOf_congr (lapseOrders_sb _)]
    refine wait_of_sms ?_ (wait_modSm (k := k) (f := fun m => { m with fenced := true }) (fun _ h => h) hclear)
    (repeat' split) <;> rfl

/-- A fault has been recorded in its Cabin and in the Keystone, and signalled (R437, R438); the reaction of its severity follows. -/
def faultRecorded (cabin : Bool) (i : Isl) (loc cls own : Nat) (s : Chip) : Chip :=
  let sev := escalated s cls own
  let s' := if cabin then modCab i (fun c => c.record (faultSub i loc) loc cls own sev (nowTs s)) s else s
  let s' := bumpField .ks (0x0200 + 8 * cls) 0 16 1 { s' with faults := ksRecord (srcId i loc) cls sev (nowTs s) s'.faults }
  let ctl := (liveW s' (caddr .ks 0x0110)).toNat
  if bit ctl 31 && decide (bits ctl 8 3 ≤ sev) then msix (bits ctl 16 8) s' else s'

theorem raiseIn_of_recording {s : Chip} (h : (inReset s || s.boot.pending) = false) (cabin : Bool) (i : Isl) (loc cls own : Nat) :
    raiseIn cabin i loc cls own s = errUpdate (
      if escalated s cls own = 3 then account (fenceFor i loc (faultRecorded cabin i loc cls own s))
      else if 4 ≤ escalated s cls own then account (startHold (srcId i loc) own (faultRecorded cabin i loc cls own s))
      else faultRecorded cabin i loc cls own s) := by
  rw [raiseIn, h, if_neg (by decide)]
  rfl

@[simp] theorem faultRecorded_sb (cabin : Bool) (i : Isl) (loc cls own : Nat) (s : Chip) : (faultRecorded cabin i loc cls own s).sb = s.sb := by
  simp [faultRecorded, apply_ite Chip.sb]

theorem wait_raise_sb {n : Nat} (loc cls sev : Nat) {s : Chip} (h : (smOf s n).wait = none) :
    (smOf (raise .sb loc cls sev s) n).wait = none := by
  cases hin : inReset s || s.boot.pending with
  | true => rw [raise, raiseIn, if_pos hin]; exact h
  | false =>
    have hw : (smOf (faultRecorded true .sb loc cls sev s) n).wait = none := by rw [smOf_congr (faultRecorded_sb ..)]; exact h
    rw [raise, raiseIn_of_recording hin, smOf_congr (errUpdate_sb _)]
    split
    · rw [smOf_congr (account_sb _), fenceFor]
      split
      · exact wait_fenceSm _ hw
      · exact hw
    · split
      · rw [smOf_congr (account_sb _), smOf_congr (startHold_sb ..)]; exact hw
      · exact hw

theorem wait_takeTrap {n : Nat} (k c : Nat) {s : Chip} (h : (smOf s n).wait = none) : (smOf (takeTrap k c s) n).wait = none := by
  have henter (m : SmSt) (hm : m.wait = none) : (enterTrap c m).wait = none := by
    unfold enterTrap
    dsimp only
    split <;> exact hm
  unfold takeTrap
  dsimp only
  have hin := wait_modSm (k := k) (f := fun m => if (enterTrap c m).halted then { enterTrap c m with haltedAt := runNs s } else enterTrap c m)
    (fun m hm => by split <;> exact henter m hm) h
  split
  · exact wait_raise_sb _ _ _ (wait_modSm (fun _ hm => hm) (wait_abandonCall _ hin))
  · exact hin

theorem wait_settleTraps {n : Nat} (k : Nat) {s : Chip} (h : (smOf s n).wait = none) : (smOf (settleTraps k s) n).wait = none := by
  unfold settleTraps
  split
  · exact h
  · exact wait_takeTrap _ _ h

theorem wait_finishWord (n : Nat) (b : BusWait) (cond : Bool) (s : Chip) : (smOf (finishWord n b cond s) n).wait = none := by
  rw [finishWord_eq]
  refine wait_settleTraps n ?_
  rw [smOf_modSm, if_pos rfl]
  exact afterWord_wait ..

/-! The operations (R468, R474) -/

/-- The hypotheses of a row of the bus: a plain word with that code and no other operation. -/
def BusRow (k : Nat) (inp : MwIn) : Prop :=
  PlainWord (putField inp.word.toNat 61 4 k) ∧ wSeq inp.word.toNat = 0 ∧ wAlu inp.word.toNat = 0

theorem becomes_bus {c : Instr} {s : State} {u : Chip} {n k : Nat} {inp : MwIn} {r : BusRes} (hc : exec c s = runRow 61 4 k n inp s)
    (h : SmReady s.chip n) (hk : 1 ≤ k ∧ k ≤ 8) (hrow : BusRow k inp) (hneeds : busNeeds n (putField inp.word.toNat 61 4 k) s.chip = [])
    (hr : busOp n (putField inp.word.toNat 61 4 k) inp.dma s.chip = (r, u)) (hdue : (smOf u n).due = []) :
    ∃ t, Becomes c s t ∧ (∃ f g, t = modSm n g (modSm n f u)) ∧
      (∀ v, r.value = some v → scratch (smOf t n) (wDst inp.word.toNat) = v % 2 ^ 64) ∧ (smOf t n).loc = (smOf u n).loc := by
  obtain ⟨hp, hseq, halu⟩ := hrow
  have hbus := wBus_putField inp.word.toNat (k := k) (by omega)
  have hseq' : wSeq (putField inp.word.toNat 61 4 k) = 0 := by rw [← hseq]; exact bits_putField_other _ _ _ _ _ _ (by decide)
  have halu' : wAlu (putField inp.word.toNat 61 4 k) = 0 := by rw [← halu]; exact bits_putField_other _ _ _ _ _ _ (by decide)
  obtain ⟨hform, hscratch, hloc⟩ := runWord_bus h hp hseq' halu' (by omega) hneeds hr hdue
  refine ⟨_, becomes_runRow hc h.1 rfl, hform, fun v hv => ?_, hloc⟩
  rw [hscratch, ← wDst_putField_bus _ k, scratch_busPut (by omega) hv]

/-- Rows that name no word need no domain. -/
theorem busNeeds_nil {n k : Nat} {x : Nat} {s : Chip} (hk : 3 ≤ k ∧ k ≤ 8) : busNeeds n (putField x 61 4 k) s = [] := by
  rw [busNeeds, wBus_putField _ (by omega)]
  simp only [if_neg (show ¬ k = 1 by omega), show decide (k = 2) = false by simp; omega, Bool.false_and, Bool.false_eq_true, if_false]

/-- A word lies in the first 2^20 bytes of its Cabin, on a multiple of 4 (R33). -/
theorem wordAt_span {ca off : Nat} {i : Isl} (h : wordAt ca = .inr (i, off)) : off + 4 ≤ 0x00100000 := by
  unfold wordAt at h
  split at h
  · cases h
  · split at h
    · cases h
    · dsimp only at h
      split at h
      · cases h
      · split at h
        · cases h
        · cases h; omega

theorem getElem?_span {a n k : Nat} (h : k < n) : (span a n)[k]? = some (a + k) := by
  induction n generalizing a k with
  | zero => omega
  | succ n ih =>
    cases k with
    | zero => rfl
    | succ k => rw [span, List.getElem?_cons_succ, ih (by omega)]; congr 1; omega

theorem locBytes_congr {m k : SmSt} (h : m.loc = k.loc) (off n : Nat) : locBytes m off n = locBytes k off n := by rw [locBytes, h]; rfl

/-- Bytes just written to the local memory stand there. -/
theorem locBytes_putLoc (m : SmSt) (off : Nat) (bs : List Byte) : locBytes (putLoc off bs m) off bs.length = bs := by
  refine List.ext_getElem? fun k => ?_
  rw [locBytes, List.getElem?_map]
  by_cases hk : k < bs.length
  · rw [getElem?_span hk, Option.map_some, sget_loc_putLoc, if_pos (by omega), Nat.add_sub_cancel_left, List.getElem?_eq_getElem hk]
    rfl
  · rw [List.getElem?_eq_none (by rw [length_span]; omega), List.getElem?_eq_none (by omega)]
    rfl

theorem engineOf_queueJob (e k : Nat) (j : JobSt) (s : Chip) :
    engineOf (queueJob e j s) k = if k = e then { engineOf s e with jobs := (engineOf s e).jobs ++ [j] } else engineOf s k := by
  rw [engineOf, engineOf, engineOf, queueJob, modCipher]
  dsimp only
  rw [sget_smod]

/-- The device once a FRAME of port `p` is counted (R474). -/
def frameCounted (p : Nat) (s : Chip) : Chip :=
  { s with sb := { s.sb with frames := sput [] s.sb.frames p (framesLately s p ++ [runNs s]) } }

theorem usableHalf_frameCounted (p want : Nat) (s : Chip) : usableHalf (frameCounted p s) want = usableHalf s want := rfl

theorem smOf_frameCounted (p : Nat) (s : Chip) : smOf (frameCounted p s) = smOf s := rfl

section
variable {s : State} {n : Nat} {inp : MwIn} (h : SmReady s.chip n)
include h

theorem fread_reads (hrow : BusRow 1 inp) {i : Isl} {off : Nat}
    (hat : wordAt (scratch (smOf s.chip n) (wBreg inp.word.toNat) % 2 ^ 44) = .inr (i, off)) (ha : Answers s.chip i) :
    ∃ t, Becomes (.mwBusFread n inp) s t ∧
      scratch (smOf t n) (wDst inp.word.toNat) = (readWord (pmcCount i 0x02 0 s.chip) false i off).toNat := by
  have hbus := wBus_putField inp.word.toNat (k := 1) (by decide)
  have hread := readRange_ok (live := false) (count := 1) hat ha.2.1 (wordAt_span hat)
  have hop : busOp n (putField inp.word.toNat 61 4 1) inp.dma s.chip =
      ({ value := some (readWord (pmcCount i 0x02 0 s.chip) false i off).toNat }, clearRc i off (pmcCount i 0x02 0 s.chip)) := by
    simp only [busOp, hbus, busFread, wBreg_putField_bus, hread]
    rfl
  obtain ⟨t, ht, -, hv, -⟩ := becomes_bus (c := .mwBusFread n inp) rfl h (by decide) hrow
    (by rw [busNeeds, hbus, wBreg_putField_bus]; exact addrDomains_nil hat ha.2.2) hop
    (by rw [smOf_congr (clearRc_sb ..), smOf_congr (pmcCount_sb ..)]; exact h.2.2.2.2.1)
  refine ⟨t, ht, (hv _ rfl).trans (Nat.mod_eq_of_lt ?_)⟩
  have := (readWord (pmcCount i 0x02 0 s.chip) false i off).isLt
  omega

theorem fwrite_writes (hrow : BusRow 2 inp) (hcall : (smOf s.chip n).call = none) {ca : Nat} {value mask : Word}
    (hca : scratch (smOf s.chip n) (wBreg inp.word.toNat) % 2 ^ 44 = ca) (hval : BitVec.ofNat 32 (scratch (smOf s.chip n) (wSrcA inp.word.toNat)) = value)
    (hmask : BitVec.ofNat 32 (wImm inp.word.toNat) = mask) (href : fwriteRefused ca mask = none) (hneeds : writeDomains s.chip ca value mask = [])
    (hok : (writeWord ca value mask s.chip).1 = .ok) :
    ∃ t, Becomes (.mwBusFwrite n inp) s t ∧ t.staged = (writeWord ca value mask s.chip).2.2.staged ∧
      t.live = (writeWord ca value mask s.chip).2.2.live ∧ t.hostMem = s.chip.hostMem := by
  have hbus := wBus_putField inp.word.toNat (k := 2) (by decide)
  have hop : busOp n (putField inp.word.toNat 61 4 2) inp.dma s.chip =
      ({ value := some (writeWord ca value mask s.chip).2.1.toNat }, (writeWord ca value mask s.chip).2.2) := by
    simp only [busOp, hbus, busFwrite, wBreg_putField_bus, wA_putField_bus, wImm_putField_bus, hca, hval, hmask, href, hok, hcall]
    simp
  obtain ⟨t, ht, ⟨f, g, rfl⟩, -, -⟩ := becomes_bus (c := .mwBusFwrite n inp) rfl h (by decide) hrow
    (by simp only [busNeeds, hbus, wBreg_putField_bus, wA_putField_bus, wImm_putField_bus, hca, hval, hmask, href, hneeds]; rfl) hop
    (due_writeWord h.2.2.2.2.1 ..)
  exact ⟨_, ht, rfl, rfl, (writeWord_wordWritten ca value mask s.chip).1⟩

theorem dmaRd_reads (hrow : BusRow 3 inp) {addr off len : Nat} (haddr : scratch (smOf s.chip n) (wBreg inp.word.toNat) = addr)
    (hoff : scratch (smOf s.chip n) (wSrcA inp.word.toNat) = off) (hlen : wImm inp.word.toNat % 65536 = len) (h1 : 1 ≤ len)
    (h2 : len ≤ 4096) (hspan : off + len ≤ 65536) (hreg : inRegion s.chip addr len (fun _ attr => bit attr 2) = true)
    (hup : hostUp s.chip = true) (hdma : len ≤ inp.dma.length) :
    ∃ t, Becomes (.mwBusDmaRd n inp) s t ∧ locBytes (smOf t n) off len = inp.dma.take len ∧ t.hostMem = s.chip.hostMem := by
  have hbus := wBus_putField inp.word.toNat (k := 3) (by decide)
  have hop : busOp n (putField inp.word.toNat 61 4 3) inp.dma s.chip = ({}, modSm n (putLoc off (inp.dma.take len)) s.chip) := by
    simp only [busOp, hbus, busDma, wBreg_putField_bus, wA_putField_bus, wImm_putField_bus, haddr, hoff, hlen]
    simp [hreg, hup, show ¬ len = 0 by omega, show ¬ 4096 < len by omega, show ¬ 65536 < off + len by omega,
      show ¬ inp.dma.length < len by omega]
  have hm : smOf (modSm n (putLoc off (inp.dma.take len)) s.chip) n = putLoc off (inp.dma.take len) (smOf s.chip n) := by
    rw [smOf_modSm, if_pos rfl]
  obtain ⟨t, ht, ⟨f, g, rfl⟩, -, hloc⟩ := becomes_bus (c := .mwBusDmaRd n inp) rfl h (by decide) hrow (busNeeds_nil (by decide)) hop
    (by rw [hm]; exact h.2.2.2.2.1)
  refine ⟨_, ht, ?_, rfl⟩
  rw [locBytes_congr hloc, hm]
  have hput := locBytes_putLoc (smOf s.chip n) off (inp.dma.take len)
  rwa [List.length_take, Nat.min_eq_left hdma] at hput

theorem dmaWr_writes (hrow : BusRow 4 inp) {addr off len : Nat} (haddr : scratch (smOf s.chip n) (wBreg inp.word.toNat) = addr)
    (hoff : scratch (smOf s.chip n) (wSrcA inp.word.toNat) = off) (hlen : wImm inp.word.toNat % 65536 = len) (h1 : 1 ≤ len)
    (h2 : len ≤ 4096) (hspan : off + len ≤ 65536) (hreg : inRegion s.chip addr len (fun _ attr => bit attr 2 && bit attr 1) = true)
    (hup : hostUp s.chip = true) :
    ∃ t, Becomes (.mwBusDmaWr n inp) s t ∧ ∀ k, hostByte t k =
      if addr ≤ k ∧ k < addr + len then (locBytes (smOf s.chip n) off len)[k - addr]? else hostByte s.chip k := by
  have hbus := wBus_putField inp.word.toNat (k := 4) (by decide)
  have hop : busOp n (putField inp.word.toNat 61 4 4) inp.dma s.chip = ({}, hostWrite addr (locBytes (smOf s.chip n) off len) s.chip) := by
    simp only [busOp, hbus, busDma, wBreg_putField_bus, wA_putField_bus, wImm_putField_bus, haddr, hoff, hlen]
    simp [hreg, hup, show ¬ len = 0 by omega, show ¬ 4096 < len by omega, show ¬ 65536 < off + len by omega]
  obtain ⟨t, ht, ⟨f, g, rfl⟩, -, -⟩ := becomes_bus (c := .mwBusDmaWr n inp) rfl h (by decide) hrow (busNeeds_nil (by decide)) hop
    (by rw [smOf_congr (hostWrite_sb ..)]; exact h.2.2.2.2.1)
  refine ⟨_, ht, fun k => ?_⟩
  have hbyte := hostByte_hostWrite addr k (locBytes (smOf s.chip n) off len) s.chip
  rwa [length_locBytes] at hbyte

theorem post_completes (hrow : BusRow 5 inp) {ring : Nat} {st : Status} (hring : orderNamed s.chip (wImm inp.word.toNat % 65536) = some ring)
    (hst : statusOf (scratch (smOf s.chip n) 8 / 2 ^ 16 % 2 ^ 16) = some st) (hnot : st ≠ .pending) :
    ∃ t, Becomes (.mwBusPost n inp) s t ∧
      t.host = (finishOrder ring st (BitVec.ofNat 64 (scratch (smOf s.chip n) 9)) s.chip).host := by
  have hbus := wBus_putField inp.word.toNat (k := 5) (by decide)
  have hop : busOp n (putField inp.word.toNat 61 4 5) inp.dma s.chip =
      ({}, finishOrder ring st (BitVec.ofNat 64 (scratch (smOf s.chip n) 9)) s.chip) := by
    simp only [busOp, hbus, busPost, wImm_putField_bus, hring, hst]
  obtain ⟨t, ht, ⟨f, g, rfl⟩, -, -⟩ := becomes_bus (c := .mwBusPost n inp) rfl h (by decide) hrow (busNeeds_nil (by decide)) hop
    (by rw [smOf_congr (finishOrder_sb ..)]; exact h.2.2.2.2.1)
  exact ⟨_, ht, rfl⟩

theorem post_pends (hrow : BusRow 5 inp) {ring : Nat} {o : Running} (hring : orderNamed s.chip (wImm inp.word.toNat % 65536) = some ring)
    (hst : statusOf (scratch (smOf s.chip n) 8 / 2 ^ 16 % 2 ^ 16) = some .pending) (hrun : (ringOf s.chip ring).running = some o)
    (hup : hostUp s.chip = true) (horph : o.orphan = false) (hprog : o.progress = true) (hwritten : o.pendingWritten = false) :
    ∃ t, Becomes (.mwBusPost n inp) s t ∧ t.host = (modRing ring (fun v => { v with running := some { o with pendingWritten := true } })
      (writeCompletion ring o .pending (BitVec.ofNat 64 (scratch (smOf s.chip n) 9)) s.chip)).host := by
  have hbus := wBus_putField inp.word.toNat (k := 5) (by decide)
  have hop : busOp n (putField inp.word.toNat 61 4 5) inp.dma s.chip =
      ({}, modRing ring (fun v => { v with running := some { o with pendingWritten := true } })
        (writeCompletion ring o .pending (BitVec.ofNat 64 (scratch (smOf s.chip n) 9)) s.chip)) := by
    simp only [busOp, hbus, busPost, wImm_putField_bus, hring, hst, busPostPending, hrun]
    simp [hup, horph, hprog, hwritten]
  obtain ⟨t, ht, ⟨f, g, rfl⟩, -, -⟩ := becomes_bus (c := .mwBusPost n inp) rfl h (by decide) hrow (busNeeds_nil (by decide)) hop
    (by rw [smOf_congr ((modRing_sb ..).trans (writeCompletion_sb ..))]; exact h.2.2.2.2.1)
  exact ⟨_, ht, rfl⟩

/-- The event record that a POST sends (log 77). -/
def eventRecord (m : SmSt) : HostRx :=
  { record := true, inPort := 0xFFFF, reason := 0, ts := 0, bytes := leBytes 8 (scratch m 8) ++ leBytes 8 (scratch m 9), waybill := [] }

theorem post_records (hrow : BusRow 5 inp) (hring : orderNamed s.chip (wImm inp.word.toNat % 65536) = none) {q : Nat}
    (hq : bits (wImm inp.word.toNat) 16 8 = q) (hlt : q < 16) {u : Chip} (htry : deliverTry q (eventRecord (smOf s.chip n)) s.chip = (true, u)) :
    ∃ t, Becomes (.mwBusPost n inp) s t ∧ t.host = u.host ∧ t.hostMem = u.hostMem := by
  have hbus := wBus_putField inp.word.toNat (k := 5) (by decide)
  have hop : busOp n (putField inp.word.toNat 61 4 5) inp.dma s.chip = ({}, u) := by
    have htry' := htry
    unfold eventRecord at htry'
    simp only [busOp, hbus, busPost, wImm_putField_bus, hring, hq, if_neg (show ¬ 16 ≤ q by omega), htry', if_true]
  have hsb : u.sb = s.chip.sb := by have := deliverTry_sb q (eventRecord (smOf s.chip n)) s.chip; rwa [htry] at this
  obtain ⟨t, ht, ⟨f, g, rfl⟩, -, -⟩ := becomes_bus (c := .mwBusPost n inp) rfl h (by decide) hrow (busNeeds_nil (by decide)) hop
    (by rw [smOf_congr hsb]; exact h.2.2.2.2.1)
  exact ⟨_, ht, rfl, rfl⟩

theorem frame_enters (hrow : BusRow 6 inp) {p off len : Nat} (hp : p = wImm inp.word.toNat % 512) (hport : (portOf s.chip p).isSome = true)
    (hoff : scratch (smOf s.chip n) (wSrcA inp.word.toNat) = off)
    (hlen : (if wImmB inp.word.toNat then wImm inp.word.toNat else scratch (smOf s.chip n) (wSrcB inp.word.toNat)) % 2 ^ 14 = len)
    (h1 : 60 ≤ len) (h2 : len ≤ 10240) (hspan : off + len ≤ 65536) (hlate : (framesLately s.chip p).length < 1000)
    (hhalf : usableHalf s.chip 0 ≠ none) (hhold : chipHold s.chip = false) :
    ∃ u f t, Becomes (.mwBusFrame n inp) s t ∧ t.pkt = (settle u).pkt ∧ u.pkt.jn = s.chip.pkt.jn ++ [f] ∧
      f.bytes = locBytes (smOf s.chip n) off len ∧ f.direct = some (queueId p 15) := by
  have hbus := wBus_putField inp.word.toNat (k := 6) (by decide)
  have hop : busOp n (putField inp.word.toNat 61 4 6) inp.dma s.chip =
      ({}, settle (directFrame none none (queueId p 15) (locBytes (smOf s.chip n) off len) (frameCounted p s.chip))) := by
    simp only [busOp, hbus, busFrame, wA_putField_bus, wB_putField_bus, wImm_putField_bus, hoff, hlen, ← hp]
    rw [if_neg (by simp [Option.isSome_iff_ne_none.1 hport]), if_neg (by simp; omega), if_neg (by omega), if_neg (by omega)]
    rfl
  have hm : smOf (settle (directFrame none none (queueId p 15) (locBytes (smOf s.chip n) off len) (frameCounted p s.chip))) n =
      smOf s.chip n := by
    rw [smOf_congr ((settle_sb _).trans (directFrame_sb ..))]; rfl
  obtain ⟨t, ht, ⟨f, g, rfl⟩, -, -⟩ := becomes_bus (c := .mwBusFrame n inp) rfl h (by decide) hrow (busNeeds_nil (by decide)) hop
    (by rw [hm]; exact h.2.2.2.2.1)
  obtain ⟨k, hk⟩ := Option.ne_none_iff_exists'.1 hhalf
  obtain ⟨j, hjn, hbytes, hdirect, -⟩ := directFrame_enters (s := frameCounted p s.chip) (tag := none) (post := none) (q := queueId p 15)
    (bytes := locBytes (smOf s.chip n) off len) (h := k) hk hhold
  exact ⟨directFrame none none (queueId p 15) (locBytes (smOf s.chip n) off len) (frameCounted p s.chip), j, _, ht, rfl, hjn, hbytes, hdirect⟩

theorem cjob_queues (hrow : BusRow 7 inp) {off e : Nat} (hoff : scratch (smOf s.chip n) (wSrcA inp.word.toNat) = off) (hspan : off + 64 ≤ 65536)
    {d : List Byte} (hd : locBytes (smOf s.chip n) off 64 = d) (hbad : descBad d = false) (hover : descOverlap (jobDesc d) = false)
    (hslot : (jobDesc d).slot ≤ 255) (hreg : descFirmware s.chip (jobDesc d) = true) (hfence : isFenced s.chip .ci = false)
    (he : engineFor s.chip = some e) :
    ∃ t, Becomes (.mwBusCjob n inp) s t ∧ (engineOf t e).jobs = (engineOf s.chip e).jobs ++ [{ ring := none, desc := d }] := by
  have hbus := wBus_putField inp.word.toNat (k := 7) (by decide)
  have hop : busOp n (putField inp.word.toNat 61 4 7) inp.dma s.chip = ({}, queueJob e { ring := none, desc := d } s.chip) := by
    simp only [busOp, hbus, busCjob, wA_putField_bus, hoff, hd, hbad, hover, hreg, hfence, he]
    rw [if_neg (by omega), if_neg (by decide), if_neg (by omega), if_neg (by decide), if_neg (by decide)]
  obtain ⟨t, ht, ⟨f, g, rfl⟩, -, -⟩ := becomes_bus (c := .mwBusCjob n inp) rfl h (by decide) hrow (busNeeds_nil (by decide)) hop
    h.2.2.2.2.1
  refine ⟨_, ht, ?_⟩
  exact congrArg EngineSt.jobs (engineOf_queueJob e e { ring := none, desc := d } s.chip |>.trans (if_pos rfl))

theorem tread_reads (hrow : BusRow 8 inp) :
    ∃ t, Becomes (.mwBusTread n inp) s t ∧ scratch (smOf t n) (wDst inp.word.toNat) = nowTs s.chip % 2 ^ 64 := by
  have hbus := wBus_putField inp.word.toNat (k := 8) (by decide)
  have hop : busOp n (putField inp.word.toNat 61 4 8) inp.dma s.chip = ({ value := some (nowTs s.chip) }, s.chip) := by
    simp only [busOp, hbus]
  obtain ⟨t, ht, -, hv, -⟩ := becomes_bus (c := .mwBusTread n inp) rfl h (by decide) hrow (busNeeds_nil (by decide)) hop h.2.2.2.2.1
  exact ⟨t, ht, hv _ rfl⟩

end

/-- The end of a bus operation ends the word that waits for it (R465). -/
theorem busDone_ends {n : Nat} {b : BusWait} (hn : n < 16) (hdone : b.done = false) (hcond : wCond b.word = 5) (hneg : wCneg b.word = false)
    {s : State} (hruns : smRuns s.chip n = true) (hwait : (smOf s.chip n).wait = some b) :
    ∃ t, Becomes (.mwBusDone n) s t ∧ (smOf t n).wait = none := by
  refine ⟨_, becomes_of_onUnit (f := busDone n) rfl (decide_eq_true hn) rfl, ?_⟩
  have hraw : condOf n { b with done := true } s.chip = (true, s.chip) := by
    simp only [condOf, condRaw, hcond, hneg]
    rfl
  have hcycle : busDone n s.chip = finishWord n { b with done := true } true s.chip := by
    simp [busDone, hwait, hruns, hdone, cycleWord, hraw]
  rw [hcycle]
  exact wait_finishWord ..

/-- Settles O55: each operation's own lemma says what it does, and `runWord_bus` that the word adds nothing outside its Signalman. -/
theorem microBus : Obligations.MicroBus := by
  unfold Obligations.MicroBus
  intro s n inp h
  refine ⟨fun i off hrow hat ha _ => fread_reads h hrow hat ha, fun hrow hcall href hneeds hok => fwrite_writes h hrow hcall rfl rfl rfl href hneeds hok,
    fun hrow h1 h2 hspan hreg hup hdma => dmaRd_reads h hrow rfl rfl rfl h1 h2 hspan hreg hup hdma,
    fun hrow h1 h2 hspan hreg hup => dmaWr_writes h hrow rfl rfl rfl h1 h2 hspan hreg hup,
    fun ring st hrow hring hst => ⟨fun hnot => post_completes h hrow hring hst hnot, fun o hp hrun hup horph hprog hw => ?_⟩,
    fun hrow hring hq hok => ?_,
    fun p hrow hp hport h1 h2 hspan hlate hhalf hhold => frame_enters h hrow hp hport rfl rfl h1 h2 hspan hlate hhalf hhold,
    fun e hrow hspan hbad hover hslot hreg hfence he => cjob_queues h hrow rfl hspan rfl hbad hover hslot hreg hfence he,
    fun hrow => tread_reads h hrow, fun b hdone hcond hneg s' hruns hwait => busDone_ends h.1 hdone hcond hneg hruns hwait⟩
  · exact post_pends h hrow hring (hp ▸ hst) hrun hup horph hprog hw
  · exact post_records h hrow hring rfl hq (Prod.ext hok rfl)

end Sys2Proof.Machine
end

section
/-!
PROOFS. The way of a segment to a Quarry and back (R330 to R335): what each of its steps leaves of the Quarries, the queues and the counter of
returns.
-/

namespace Sys2Proof.Machine

/-! Sparse maps and Yards -/

theorem sfind_mapValues {α β : Type} (f : α → β) (m : Sparse α) (k : Nat) : sfind (m.map (fun x => (x.1, f x.2))) k = (sfind m k).map f := by
  induction m with
  | nil => rfl
  | cons x m ih =>
    simp only [List.map_cons, sfind]
    split
    · rfl
    · exact ih

/-! What leaves every Quarry alone -/

theorem modYard_quarries (y : Nat) (f : YardSt → YardSt) (s : Chip) : (modYard y f s).pkt.quarries = s.pkt.quarries := by
  simp only [modYard, apply_ite Chip.pkt, setField', setLive_pkt, ite_self]
  rfl

theorem freeCells_quarries (y r n : Nat) (ret : List Nat) (s : Chip) : (freeCells y r n ret s).pkt.quarries = s.pkt.quarries := by
  unfold freeCells
  split
  · rfl
  · dsimp only
    rw [modYard_quarries]
    exact foldl_keeps (φ := fun s => s.pkt.quarries) (fun _ _ => by rw [pmcCount_pkt]) _ _

theorem decShare_quarries (y fid : Nat) (idxs : List Nat) (s : Chip) : (decShare y fid idxs s).pkt.quarries = s.pkt.quarries := by
  unfold decShare
  split
  · rfl
  · dsimp only
    rw [freeCells_quarries]
    split
    · exact modYard_quarries ..
    · rfl

theorem handOver_quarries (g : Seg) (c : Copy) (s : Chip) : (handOver g c s).pkt.quarries = s.pkt.quarries := by
  unfold handOver
  dsimp only
  split
  · rfl
  · exact decShare_quarries ..

theorem quarryOf_congr {s t : Chip} (h : t.pkt.quarries = s.pkt.quarries) (y : Nat) : quarryOf t y = quarryOf s y := by
  rw [quarryOf, h]; rfl

/-! Transactions of a segment (R336) -/

theorem modChan_queues (c : Nat) (f : ChanSt → ChanSt) (s : Chip) : (modChan c f s).pkt.queues = s.pkt.queues := rfl

theorem modChan_quarries (c : Nat) (f : ChanSt → ChanSt) (s : Chip) : (modChan c f s).pkt.quarries = s.pkt.quarries := rfl

theorem enqueueTx_queues (y id : Nat) (write : Bool) (l : List (Nat × Nat)) (s : Chip) :
    (enqueueTx y id write l s).pkt.queues = s.pkt.queues :=
  foldl_keeps (φ := fun s => s.pkt.queues) (fun _ _ => modChan_queues ..) _ _

theorem enqueueTx_quarries (y id : Nat) (write : Bool) (l : List (Nat × Nat)) (s : Chip) : (enqueueTx y id write l s).pkt.quarries =
    (modQuarry y (fun v => { v with busyAt := runNs s }) s).pkt.quarries :=
  foldl_keeps (φ := fun s => s.pkt.quarries) (fun _ _ => modChan_quarries ..) _ _

theorem segs_enqueueTx (y id : Nat) (write : Bool) (l : List (Nat × Nat)) (s : Chip) :
    (quarryOf (enqueueTx y id write l s) y).segs = (quarryOf s y).segs := by
  rw [quarryOf_congr (enqueueTx_quarries ..), quarryOf_modQuarry, if_pos rfl]

/-! Segments that are changed or dropped -/

theorem segs_modSeg (y id : Nat) (f : Seg → Seg) (s : Chip) :
    (quarryOf (modSeg y id f s) y).segs = (quarryOf s y).segs.map (fun g => if g.id = id then f g else g) := by
  rw [modSeg, quarryOf_modQuarry, if_pos rfl]

theorem mem_segs_modSeg {y id : Nat} {f : Seg → Seg} {s : Chip} {x : Seg}
    (h : x ∈ (quarryOf (modSeg y id f s) y).segs) (hid : x.id = id) : ∃ g, x = f g := by
  rw [segs_modSeg] at h
  obtain ⟨g, -, rfl⟩ := List.mem_map.1 h
  split at hid
  · next e => exact ⟨g, if_pos e⟩
  · next e => exact absurd hid e

/-- A Quarry without the segments that no copy waits for. -/
def keepHeld (live : List Copy) (v : QuarrySt) : QuarrySt := { v with segs := v.segs.filter (fun g => live.any g.holds) }

theorem mem_segs_pruneSegs {y : Nat} {s : Chip} {x : Seg} (h : x ∈ (quarryOf (pruneSegs s) y).segs) : x ∈ (quarryOf s y).segs := by
  have hquarries : (pruneSegs s).pkt.quarries = s.pkt.quarries.map (fun v => (v.1, keepHeld (allCopies s) v.2)) := rfl
  rw [quarryOf, sget_eq, hquarries, sfind_mapValues] at h
  rw [quarryOf, sget_eq]
  cases hv : sfind s.pkt.quarries y with
  | none => rw [hv] at h; exact h
  | some v => rw [hv] at h; exact (List.mem_filter.1 h).1

/-! The steps of a segment -/

/-- A segment that finds a key, an allowance, a slot and room is written (R331). -/
theorem writeSegment_puts {q slot k : Nat} {cells : List (Nat × Nat)} {key : List Byte} {s : Chip} (hd : dead s = false)
    (hopen : spillOpen s q = true) (hcells : nextCells s q = some cells) (hact : s.cipher.spillActive = some k)
    (hkey : sget none s.cipher.spill k = some key) (hallow : 32 * (segsOf s q).length + 32 ≤ spillWord s (queueYard s q) q 8)
    (hslot : freeSlot (quarryOf s (queueYard s q)) = some slot)
    (hroom : txRoom s (queueYard s q) (writeTx (quarryOf s (queueYard s q)) (quarryOf s (queueYard s q)).mapActs slot) = true) :
    writeSegment q none s = putSegment q (queueYard s q) slot k key cells s := by
  unfold writeSegment
  rw [if_neg (by simp [hd, hopen]), hcells, hact]
  dsimp only
  rw [if_neg (by omega), hslot]
  dsimp only
  rw [hroom, if_neg (by decide), hkey]
  rfl

/-- The data units of a segment, encrypted (R328, R331). -/
def segUnits (q y slot : Nat) (key : List Byte) (cells : List (Nat × Nat)) (s : Chip) : List (List Byte) :=
  ((cells.map (cellData s q)).zip (span 0 32)).map (fun x =>
    unitCrypt true key (dramAddr y (cellAddr (quarryOf s y).mapActs (quarryOf s y).grain slot x.2)) x.1.2)

/-- The segment that stands in a slot once it is put there. -/
def segPut (q y slot k : Nat) (key : List Byte) (cells : List (Nat × Nat)) (s : Chip) : Seg :=
  { id := s.pkt.nextId, slot := slot, queue := q, cells := cells, stage := 0, acts := (quarryOf s y).mapActs, key := k
    chans := ((span 0 32).map (fun i => (cellAddr (quarryOf s y).mapActs (quarryOf s y).grain slot i).1)).foldl nadd []
    hdrs := (cells.map (cellData s q)).map (fun d => d.1), units := segUnits q y slot key cells s }

/-- The device once a segment is sent and counted, before its Quarry lists it. -/
def segSent (q y slot : Nat) (key : List Byte) (cells : List (Nat × Nat)) (s : Chip) : Chip :=
  let head := segHeaderBytes ((cells.map (cellData s q)).map (fun d => d.1)) ((freeNext s).toNat % 2 ^ 20)
  let heads := (headerCopies (quarryOf s y) (quarryOf s y).mapActs slot).map (fun a => unitCrypt true key (dramAddr y a) head)
  modQueueSt q (fun v => { v with spilledOnce := true }) (bump (.quarry y) 0x0120 1
    (emit (.segment y slot ((segUnits q y slot key cells s).flatten ++ heads.flatten))
      (modPkt (fun p => { p with nextId := p.nextId + 1 }) (freeTake s))))

theorem putSegment_eq (q y slot k : Nat) (key : List Byte) (cells : List (Nat × Nat)) (s : Chip) :
    putSegment q y slot k key cells s = enqueueTx y s.pkt.nextId true (writeTx (quarryOf s y) (quarryOf s y).mapActs slot)
      (modQuarry y (fun v => { v with segs := linkNext q slot v.segs ++ [segPut q y slot k key cells s], lastSlot := slot })
        (segSent q y slot key cells s)) := rfl

theorem segSent_quarries (q y slot : Nat) (key : List Byte) (cells : List (Nat × Nat)) (s : Chip) :
    (segSent q y slot key cells s).pkt.quarries = s.pkt.quarries := by
  unfold segSent
  simp only [modQueueSt, modPkt, bump_pkt, emit_pkt, freeTake_pkt]

theorem segSent_queues (q y slot : Nat) (key : List Byte) (cells : List (Nat × Nat)) (s : Chip) :
    (segSent q y slot key cells s).pkt.queues = s.pkt.queues := by
  unfold segSent
  simp only [modQueueSt, modPkt, bump_pkt, emit_pkt, freeTake_pkt]

/-- A segment put into a slot is the newest of its Quarry, and holds the cells encrypted. -/
theorem putSegment_adds (q y slot k : Nat) (key : List Byte) (cells : List (Nat × Nat)) (s : Chip) :
    ∃ g, (quarryOf (putSegment q y slot k key cells s) y).segs = linkNext q slot (quarryOf s y).segs ++ [g] ∧
      g.slot = slot ∧ g.queue = q ∧ g.cells = cells ∧ g.stage = 0 ∧ g.key = k ∧
      (putSegment q y slot k key cells s).pkt.queues = s.pkt.queues ∧
      g.units = (cells.zip (span 0 32)).map (fun x =>
        unitCrypt true key (dramAddr y (cellAddr (quarryOf s y).mapActs (quarryOf s y).grain slot x.2)) (cellData s q x.1).2) := by
  rw [putSegment_eq]
  refine ⟨segPut q y slot k key cells s, ?_, rfl, rfl, rfl, rfl, rfl, ?_, ?_⟩
  · rw [segs_enqueueTx, quarryOf_modQuarry, if_pos rfl, quarryOf_congr (segSent_quarries ..)]
  · rw [enqueueTx_queues]; exact segSent_queues q y slot key cells s
  · show segUnits q y slot key cells s = _
    rw [segUnits, List.zip_map_left, List.map_map]
    rfl

/-- An accepted segment is held in its Quarry (R331). -/
theorem acceptSegment_holds {id y : Nat} {g : Seg} {s : Chip} (hd : dead s = false) (hat : segWhere s id = some (y, g)) (hstage : g.stage = 0)
    {x : Seg} (hx : x ∈ (quarryOf (acceptSegment id s) y).segs) (hid : x.id = id) : x.stage = 1 := by
  unfold acceptSegment at hx
  rw [hat] at hx
  dsimp only at hx
  rw [if_neg (by simp [hstage, hd])] at hx
  have hmem := mem_segs_pruneSegs hx
  rw [quarryOf_congr (foldl_keeps (φ := fun s => s.pkt.quarries) (fun _ _ => handOver_quarries ..) _ _)] at hmem
  obtain ⟨g', rfl⟩ := mem_segs_modSeg hmem hid
  rfl

/-- A request marks its segment and leaves every queue (R333). -/
theorem prefetch_requests {q : Nat} {g : Seg} {s : Chip} (hd : dead s = false) (hf : isFenced s (.quarry (queueYard s q)) = false)
    (hopen : readOpen (quarryOf s (queueYard s q)) = true) (hfind : (segsOf s q).find? (fun g => g.stage < 2) = some g) (hstage : g.stage = 1)
    (hhead : ∀ x rest, segsOf s q = x :: rest → x.stage ≠ 3) (hfly : ((segsOf s q).filter (fun g => 2 ≤ g.stage)).length < 4)
    (hshort : headCells s q + 32 * ((segsOf s q).filter (fun g => 2 ≤ g.stage)).length ≤ spillWord s (queueYard s q) q 4)
    (hroom : txRoom s (queueYard s q) (unheldReads s (queueYard s q) (readTx (quarryOf s (queueYard s q)) g.acts g.slot)) = true) :
    prefetch q s = enqueueTx (queueYard s q) g.id false (unheldReads s (queueYard s q) (readTx (quarryOf s (queueYard s q)) g.acts g.slot))
      (modSeg (queueYard s q) g.id (fun g => { g with stage := 2 }) s) := by
  have hnot : (segsOf s q).head?.any (fun g => g.stage = 3) = false := by
    cases hl : segsOf s q with
    | nil => rfl
    | cons x rest => simpa using hhead x rest hl
  unfold prefetch
  dsimp only
  rw [hfind]
  dsimp only
  rw [if_neg]
  simp [hd, hf, hopen, hstage, hnot, hroom]
  omega

/-! Words of a Quarry (R346) -/

/-- The value of an unwritten word of an island that is no Yard rests on no plan (R292). -/
theorem defWord_of_notYard {ca : Nat} {i : Isl} (h : islOf (ca / 2 ^ 32) = some i) (hi : ∀ y, i ≠ .yard y) (s : Chip) :
    defWord s ca = resetWord ca := by
  unfold defWord
  split
  · next y hy => exact absurd (Option.some.inj (h.symm.trans hy)) (hi y)
  · rfl

section
variable {y off : Nat} (hy : y < 8) (ho : off < 2 ^ 32)
include hy ho

theorem islOf_caddr_quarry : islOf (caddr (.quarry y) off / 2 ^ 32) = some (.quarry y) := by
  rw [caddr, Nat.mul_comm, Nat.mul_add_div (by decide), Nat.div_eq_of_lt ho]
  have hall : ∀ y < 8, islOf ((Isl.quarry y).code + 0) = some (.quarry y) := by decide
  exact hall y hy

/-- The reset value of a word of a Quarry rests on nothing else. -/
theorem defWord_quarry (s t : Chip) : defWord t (caddr (.quarry y) off) = defWord s (caddr (.quarry y) off) := by
  rw [defWord_of_notYard (islOf_caddr_quarry hy ho) nofun, defWord_of_notYard (islOf_caddr_quarry hy ho) nofun]

theorem liveW_quarry_congr {s t : Chip} (h : t.live = s.live) : liveW t (caddr (.quarry y) off) = liveW s (caddr (.quarry y) off) := by
  unfold liveW
  rw [h, defWord_quarry hy ho s t]

omit hy in
theorem caddr_quarry_ne_yard {k o : Nat} (hlt : o < 2 ^ 32) : caddr (.quarry y) off ≠ caddr (.yard k) o := by
  simp only [caddr, Isl.code]
  omega

theorem liveW_modYard (k : Nat) (f : YardSt → YardSt) (s : Chip) :
    liveW (modYard k f s) (caddr (.quarry y) off) = liveW s (caddr (.quarry y) off) := by
  unfold modYard
  dsimp only
  split
  · rw [setField', liveW_setLive, if_neg (caddr_quarry_ne_yard ho (by decide))]
    exact liveW_quarry_congr hy ho rfl
  · exact liveW_quarry_congr hy ho rfl

omit hy in
theorem liveW_pmcCount_yard (k event sub : Nat) (s : Chip) :
    liveW (pmcCount (.yard k) event sub s) (caddr (.quarry y) off) = liveW s (caddr (.quarry y) off) :=
  (Prod.mk.inj (wordView_pmcCount (fun n hn => ⟨caddr_quarry_ne_yard ho (by omega), caddr_quarry_ne_yard ho (by omega)⟩)
    event sub s)).2

end

theorem liveW_pmcCount_quarry {y off : Nat} (hoff : 0xC0 ≤ off) (event sub : Nat) (s : Chip) :
    liveW (pmcCount (.quarry y) event sub s) (caddr (.quarry y) off) = liveW s (caddr (.quarry y) off) :=
  (Prod.mk.inj (wordView_pmcCount (fun n hn => ⟨by unfold caddr; omega, by unfold caddr; omega⟩) event sub s)).2

/-! Reads that are issued (R336, R337) -/

/-- The channels of Quarry `y` have issued transactions: the Quarry differs in the time of its last one, its counters of returns do not. -/
def Issued (y : Nat) (s t : Chip) : Prop :=
  (∃ b, quarryOf t y = { quarryOf s y with busyAt := b }) ∧ liveW t (caddr (.quarry y) 0x0124) = liveW s (caddr (.quarry y) 0x0124)

namespace Issued

theorem refl (y : Nat) (s : Chip) : Issued y s s := ⟨⟨_, rfl⟩, rfl⟩

theorem trans {y : Nat} {s t u : Chip} (h : Issued y s t) (h' : Issued y t u) : Issued y s u := by
  obtain ⟨⟨b, hb⟩, hl⟩ := h
  obtain ⟨⟨c, hc⟩, hl'⟩ := h'
  exact ⟨⟨c, by rw [hc, hb]⟩, hl'.trans hl⟩

end Issued

theorem pmcCount_issued (y event sub : Nat) (s : Chip) : Issued y s (pmcCount (.quarry y) event sub s) :=
  ⟨⟨_, quarryOf_congr (congrArg PacketSt.quarries (pmcCount_pkt ..)) y⟩, liveW_pmcCount_quarry (by decide) ..⟩

theorem access_issued {c y : Nat} (hc : c / 4 = y) (hy : y < 8) (t : DramTx) (s : Chip) : Issued y s (access c t s) := by
  subst hc
  have hbusy (v : Nat) (u : Chip) : Issued (c / 4) u (modQuarry (c / 4) (fun x => { x with busyAt := v }) u) :=
    ⟨⟨v, (quarryOf_modQuarry ..).trans (if_pos rfl)⟩, liveW_quarry_congr hy (by decide) rfl⟩
  have hchan (f : ChanSt → ChanSt) (u : Chip) : Issued (c / 4) u (modChan c f u) :=
    ⟨⟨_, quarryOf_congr (modChan_quarries ..) _⟩, liveW_quarry_congr hy (by decide) rfl⟩
  unfold access
  dsimp only
  refine Issued.trans ((pmcCount_issued _ 0x50 (c % 4) s).trans ?_) ((hbusy ..).trans (hchan ..))
  split
  · exact pmcCount_issued ..
  · exact .refl ..

theorem issueTx_issued {c y : Nat} (hc : c / 4 = y) (hy : y < 8) (s : Chip) : Issued y s (issueTx c s) := by
  unfold issueTx
  split
  · exact .refl ..
  · split
    · exact .refl ..
    · exact access_issued hc hy _ s

theorem issueReads_issued {c y : Nat} (hc : c / 4 = y) (hy : y < 8) (id n : Nat) (s : Chip) : Issued y s (issueReads c id n s) := by
  induction n generalizing s with
  | zero => exact .refl ..
  | succ n ih =>
    rw [issueReads]
    split
    · exact (issueTx_issued hc hy s).trans (ih _)
    · exact .refl ..

theorem readAll_issued {y : Nat} (hy : y < 8) (id : Nat) (s : Chip) : Issued y s (readAll y id s) := by
  unfold readAll
  refine List.foldlRecOn (motive := fun t : Chip => Issued y s t) _ _ (.refl ..) fun t ht c hc => ht.trans ?_
  have := (mem_span _ _ c).1 hc
  exact issueReads_issued (by omega) hy id _ t

/-! Returned segments that a Yard admits (R333) -/

/-- A Quarry without a segment that has been admitted. -/
def withoutSeg (id : Nat) (v : QuarrySt) : QuarrySt := { v with segs := v.segs.filter (fun h => ¬ h.id = id) }

/-- One returned segment has been admitted. -/
def admitted (q : Nat) (g : Seg) (s : Chip) : Chip :=
  pruneTx (modQuarry (queueYard s q) (withoutSeg g.id) (joinHead g (grant (queueYard s q) 4099 (liveCells s g) false s)))

theorem admitReturns_none {n q : Nat} {s : Chip} (h : ∀ g rest, segsOf s q = g :: rest → g.stage = 3 →
    ∃ e, admission s (queueYard s q) 4099 32 0 1 = .inl e) : admitReturns n q s = s := by
  cases n with
  | zero => rfl
  | succ n =>
    rw [admitReturns]
    split
    · rfl
    · next g rest hl =>
      dsimp only
      split
      · rfl
      · next hst =>
        obtain ⟨e, he⟩ := h g rest hl (by omega)
        rw [he]

theorem admitReturns_some {n q : Nat} {s : Chip} {g : Seg} {rest : List Seg} {b : Bool} (hl : segsOf s q = g :: rest) (hst : g.stage = 3)
    (ha : admission s (queueYard s q) 4099 32 0 1 = .inr b) : admitReturns (n + 1) q s = admitReturns n q (admitted q g s) := by
  rw [admitReturns, hl]
  dsimp only
  rw [if_neg (by omega), ha]
  rfl

/-- Either nothing is admitted, or the first segment of the queue is and the others follow. -/
theorem admitReturns_cases (n q : Nat) (s : Chip) : admitReturns (n + 1) q s = s ∨
    ∃ g rest, segsOf s q = g :: rest ∧ admitReturns (n + 1) q s = admitReturns n q (admitted q g s) := by
  cases hl : segsOf s q with
  | nil => exact .inl (admitReturns_none fun g rest h => by rw [hl] at h; cases h)
  | cons g rest =>
    by_cases hst : g.stage = 3
    · cases ha : admission s (queueYard s q) 4099 32 0 1 with
      | inl e => exact .inl (admitReturns_none fun _ _ _ _ => ⟨e, ha⟩)
      | inr b => exact .inr ⟨g, rest, rfl, admitReturns_some hl hst ha⟩
    · refine .inl (admitReturns_none fun g' rest' h h3 => ?_)
      rw [hl] at h
      cases h
      exact absurd h3 hst

theorem grant_quarries (y r c : Nat) (b : Bool) (s : Chip) : (grant y r c b s).pkt.quarries = s.pkt.quarries := by
  rw [grant, pmcCount_pkt, modYard_quarries]

theorem joinHead_quarries (g : Seg) (s : Chip) : (joinHead g s).pkt.quarries = s.pkt.quarries := rfl

theorem pruneTx_live (s : Chip) : (pruneTx s).live = s.live := rfl

theorem joinHead_live (g : Seg) (s : Chip) : (joinHead g s).live = s.live := rfl

/-- The segments that are left when one has been admitted. -/
theorem segs_admitted (q k : Nat) (g : Seg) (s : Chip) : (quarryOf (admitted q g s) k).segs =
    if k = queueYard s q then (quarryOf s k).segs.filter (fun h => ¬ h.id = g.id) else (quarryOf s k).segs := by
  have hbefore (k : Nat) : quarryOf (joinHead g (grant (queueYard s q) 4099 (liveCells s g) false s)) k = quarryOf s k :=
    quarryOf_congr ((joinHead_quarries ..).trans (grant_quarries ..)) k
  have hprune (u : Chip) : quarryOf (pruneTx u) k = quarryOf u k := rfl
  rw [admitted, hprune, quarryOf_modQuarry, hbefore, hbefore]
  split
  · next e => rw [e]; rfl
  · rfl

theorem admitted_live_quarry {y : Nat} (hy : y < 8) (q : Nat) (g : Seg) (s : Chip) :
    liveW (admitted q g s) (caddr (.quarry y) 0x0124) = liveW s (caddr (.quarry y) 0x0124) := by
  have hgrant : liveW (grant (queueYard s q) 4099 (liveCells s g) false s) (caddr (.quarry y) 0x0124) = liveW s (caddr (.quarry y) 0x0124) := by
    rw [grant, liveW_pmcCount_yard (by decide), liveW_modYard hy (by decide)]
  rw [← hgrant]
  refine liveW_quarry_congr hy (by decide) ?_
  rw [admitted, pruneTx_live, modQuarry_live, joinHead_live]

/-- Admitting segments takes segments out of Quarries, and leaves the counters of returns. -/
theorem admitReturns_quarry {y : Nat} (hy : y < 8) (n q : Nat) (s : Chip) :
    (∀ k, ∀ x ∈ (quarryOf (admitReturns n q s) k).segs, x ∈ (quarryOf s k).segs) ∧
    liveW (admitReturns n q s) (caddr (.quarry y) 0x0124) = liveW s (caddr (.quarry y) 0x0124) := by
  induction n generalizing s with
  | zero => exact ⟨fun _ _ h => h, rfl⟩
  | succ n ih =>
    rcases admitReturns_cases n q s with h | ⟨g, rest, -, h⟩
    · rw [h]; exact ⟨fun _ _ h => h, rfl⟩
    · obtain ⟨hsegs, hlive⟩ := ih (admitted q g s)
      rw [h]
      refine ⟨fun k x hx => ?_, hlive.trans (admitted_live_quarry hy q g s)⟩
      have hmem := hsegs k x hx
      rw [segs_admitted] at hmem
      split at hmem
      · exact (List.mem_filter.1 hmem).1
      · exact hmem

/-! Cells that come back to their copies (R333) -/

theorem nth_setNth {α : Type} (d v : α) (l : List α) (n k : Nat) :
    nth d (setNth l n v) k = if k = n ∧ n < l.length then v else nth d l k := by
  induction l generalizing n k with
  | nil => simp [setNth]
  | cons x l ih =>
    cases n with
    | zero => cases k <;> simp [setNth, nth]
    | succ n => cases k <;> simp [setNth, nth, ih]

theorem lt_length_of_nth_ne {α : Type} {d : α} {l : List α} {n : Nat} (h : nth d l n ≠ d) : n < l.length := by
  induction l generalizing n with
  | nil => exact absurd (by cases n <;> rfl) h
  | cons x l ih =>
    cases n with
    | zero => simp
    | succ n => have := ih (n := n) h; simpa using this

/-- A copy whose cells came back, some of them: each place stays or is a cell of its own. -/
def CellsBack (c c' : Copy) : Prop :=
  c'.cid = c.cid ∧ ∀ j, nth .done c'.places j = nth .done c.places j ∨ ∃ a b i, nth .done c'.places j = .own a b i

namespace CellsBack

theorem refl (c : Copy) : CellsBack c c := ⟨rfl, fun _ => .inl rfl⟩

theorem trans {a b c : Copy} (h : CellsBack a b) (h' : CellsBack b c) : CellsBack a c :=
  ⟨h'.1.trans h.1, fun j => (h'.2 j).elim (fun e => e ▸ h.2 j) .inr⟩

/-- A place that names no segment with a number names none later. -/
theorem not_seg {c c' : Copy} (h : CellsBack c c') {j id : Nat} (hj : nth .done c.places j ≠ .seg id) : nth .done c'.places j ≠ .seg id := by
  rcases h.2 j with e | ⟨_, _, _, e⟩
  · rw [e]; exact hj
  · rw [e]; nofun

end CellsBack

/-- Cell `i` of a segment comes back, and its copy waits for it no longer. -/
theorem backCell_back (y : Nat) (g : Seg) (s : Chip) (c : Copy) (i idx : Nat) : CellsBack c (backCell y g s c i idx) ∧
    (c.cid = (nth (0, 0) g.cells i).1 → nth .done (backCell y g s c i idx).places (nth (0, 0) g.cells i).2 ≠ .seg g.id) := by
  unfold backCell
  dsimp only
  split
  · next h =>
    simp only [Bool.and_eq_true, decide_eq_true_eq] at h
    have hlt := lt_length_of_nth_ne (d := CellPlace.done) (by rw [h.2]; nofun)
    refine ⟨⟨rfl, fun j => ?_⟩, fun _ => ?_⟩
    · rw [nth_setNth]
      split
      · exact .inr ⟨_, _, _, rfl⟩
      · exact .inl rfl
    · rw [nth_setNth, if_pos ⟨rfl, hlt⟩]; nofun
  · next h =>
    simp only [Bool.and_eq_true, decide_eq_true_eq, not_and] at h
    exact ⟨.refl c, fun hc => h hc.symm⟩

theorem backCells_back (y : Nat) (g : Seg) (s : Chip) (l : List (Nat × Nat)) (c : Copy) :
    CellsBack c (l.foldl (fun c x => backCell y g s c x.2 x.1) c) ∧
    ∀ x ∈ l, c.cid = (nth (0, 0) g.cells x.2).1 →
      nth .done (l.foldl (fun c x => backCell y g s c x.2 x.1) c).places (nth (0, 0) g.cells x.2).2 ≠ .seg g.id := by
  induction l generalizing c with
  | nil => exact ⟨.refl c, nofun⟩
  | cons x l ih =>
    obtain ⟨hback, hgone⟩ := backCell_back y g s c x.2 x.1
    obtain ⟨hrest, hall⟩ := ih (backCell y g s c x.2 x.1)
    refine ⟨hback.trans hrest, fun z hz hc => ?_⟩
    rcases List.mem_cons.1 hz with rfl | hz
    · exact hrest.not_seg (hgone hc)
    · exact hall z hz (hback.1.trans hc)

theorem length_takeIdxs (free n : Nat) (used : List Nat) : (takeIdxs free n used).length = n := by
  induction n generalizing used with
  | zero => rfl
  | succ n ih => rw [takeIdxs, List.length_cons, ih]

theorem mem_zip_span {l : List Nat} {k : Nat} (hk : k < l.length) : ∃ x, (x, k) ∈ l.zip (span 0 l.length) := by
  refine ⟨l[k], List.mem_iff_getElem?.2 ⟨k, ?_⟩⟩
  rw [List.getElem?_zip_eq_some]
  exact ⟨List.getElem?_eq_getElem hk, (getElem?_span hk).trans (congrArg some (Nat.zero_add k))⟩

/-- Every copy of the queue is an earlier one with its cells of the admitted segment back on chip. -/
theorem mem_queue_joinHead {g : Seg} {s : Chip} {c' : Copy} (h : c' ∈ queueOf (joinHead g s) g.queue) : ∃ c ∈ queueOf s g.queue, CellsBack c c' ∧
    ∀ k, k < 32 → c'.cid = (nth (0, 0) g.cells k).1 → nth .done c'.places (nth (0, 0) g.cells k).2 ≠ .seg g.id := by
  unfold joinHead at h
  dsimp only at h
  rw [queueOf_setQueue, if_pos rfl] at h
  obtain ⟨c, hc, rfl⟩ := List.mem_map.1 h
  refine ⟨c, hc, ?_⟩
  have hlen := length_takeIdxs s.free 32 (usedCells s (queueYard s g.queue))
  generalize takeIdxs s.free 32 (usedCells s (queueYard s g.queue)) = idxs at hlen ⊢
  generalize hm : (if g.badCells.any (fun k => decide ((nth (0, 0) g.cells k).1 = c.cid)) then { c with ownBad := 3, quarryBad := true }
    else c) = c1
  have hc1 : CellsBack c c1 := by subst hm; split <;> exact .refl _
  obtain ⟨hback, hgone⟩ := backCells_back (queueYard s g.queue) g s (idxs.zip (span 0 32)) c1
  refine ⟨hc1.trans hback, fun k hk hcid => ?_⟩
  obtain ⟨x, hx⟩ := mem_zip_span (l := idxs) (k := k) (by omega)
  rw [hlen] at hx
  exact hgone (x, k) hx (hback.1.symm.trans hcid)

theorem pruneTx_queue (q : Nat) (s : Chip) : queueOf (pruneTx s) q = queueOf s q := rfl

theorem modQuarry_queue (q k : Nat) (f : QuarrySt → QuarrySt) (s : Chip) : queueOf (modQuarry k f s) q = queueOf s q := rfl

theorem mem_queue_admitted {q : Nat} {g : Seg} {rest : List Seg} {s : Chip} {c' : Copy} (hl : segsOf s q = g :: rest)
    (h : c' ∈ queueOf (admitted q g s) q) : ∃ c ∈ queueOf s q, CellsBack c c' ∧
      ∀ k, k < 32 → c'.cid = (nth (0, 0) g.cells k).1 → nth .done c'.places (nth (0, 0) g.cells k).2 ≠ .seg g.id := by
  have hq : g.queue = q := by
    have hmem : g ∈ segsOf s q := hl ▸ List.mem_cons_self
    simpa using (List.mem_filter.1 hmem).2
  subst hq
  rw [admitted, pruneTx_queue, modQuarry_queue] at h
  obtain ⟨c, hc, hback⟩ := mem_queue_joinHead h
  rw [queueOf, grant_queues] at hc
  exact ⟨c, hc, hback⟩

/-- What a later admission of the same queue leaves of an earlier one. -/
theorem admitReturns_queue (n q : Nat) (s : Chip) {c' : Copy} (h : c' ∈ queueOf (admitReturns n q s) q) :
    ∃ c ∈ queueOf s q, CellsBack c c' := by
  induction n generalizing s c' with
  | zero => exact ⟨c', h, .refl c'⟩
  | succ n ih =>
    rcases admitReturns_cases n q s with e | ⟨g, rest, hl, e⟩
    · rw [e] at h; exact ⟨c', h, .refl c'⟩
    · rw [e] at h
      obtain ⟨c1, hc1, hback⟩ := ih (admitted q g s) h
      obtain ⟨c, hc, hfirst, -⟩ := mem_queue_admitted hl hc1
      exact ⟨c, hc, hfirst.trans hback⟩

/-- The first returned segment that is admitted leaves its Quarry, and no copy waits for a cell of it. -/
theorem admitReturns_admits {q n : Nat} {s : Chip} {g : Seg} {rest : List Seg} {b : Bool} (hl : segsOf s q = g :: rest) (hst : g.stage = 3)
    (ha : admission s (queueYard s q) 4099 32 0 1 = .inr b) :
    (∀ x ∈ (quarryOf (admitReturns (n + 1) q s) (queueYard s q)).segs, x.id ≠ g.id) ∧
    ∀ k, k < 32 → ∀ c ∈ queueOf (admitReturns (n + 1) q s) q, c.cid = (nth (0, 0) g.cells k).1 →
      nth .done c.places (nth (0, 0) g.cells k).2 ≠ .seg g.id := by
  rw [admitReturns_some hl hst ha]
  refine ⟨fun x hx => ?_, fun k hk c hc hcid => ?_⟩
  · have hmem := (admitReturns_quarry (y := 0) (by decide) n q (admitted q g s)).1 _ x hx
    rw [segs_admitted, if_pos rfl] at hmem
    simpa using (List.mem_filter.1 hmem).2
  · obtain ⟨c1, hc1, hback⟩ := admitReturns_queue n q (admitted q g s) hc
    obtain ⟨-, -, -, hgone⟩ := mem_queue_admitted hl hc1
    exact hback.not_seg (hgone k hk (hback.1.symm.trans hcid))

/-! A segment returns (R335) -/

/-- A segment whose header reads well becomes a spill return request. -/
theorem returnSegment_returns {id y : Nat} {g : Seg} {s : Chip} (hd : dead s = false) (hat : segWhere s id = some (y, g)) (hst : g.stage = 2)
    (hopen : readOpen (quarryOf s y) = true) (hidle : ∀ k ∈ g.chans, (chanOf s (4 * y + k)).retraining = false) (hy : y < 8)
    (hgood : (quarryOf s y).fenced.contains (primaryHeader g.acts (quarryOf s y).grain (quarryOf s y).capacity g.slot).1 = false) :
    returnSegment id {} s =
      admitReturns 4 g.queue (modSeg y id (fun g => { g with stage := 3 }) (bump (.quarry y) 0x0124 1 (readAll y id s))) := by
  obtain ⟨⟨b, hb⟩, -⟩ := readAll_issued hy id s
  have hhead : segHeader y g {} (readAll y id s) = (true, readAll y id s) := by
    unfold segHeader
    dsimp only
    rw [hb]
    dsimp only
    rw [hgood]
    simp only [Bool.not_false, Bool.and_self, if_true]
  have hany : g.chans.any (fun k => (chanOf s (4 * y + k)).retraining) = false := by
    rw [List.any_eq_false]
    exact fun k hk => by rw [hidle k hk]; decide
  unfold returnSegment
  rw [hat]
  dsimp only
  rw [if_neg (by simp only [hd, hst, hopen, hany]; decide), hhead]
  simp only [Bool.not_true, Bool.false_eq_true, if_false, List.foldl_nil]

theorem segWhere_lt {s : Chip} {id y : Nat} {g : Seg} (h : segWhere s id = some (y, g)) : y < 8 := by
  unfold segWhere at h
  obtain ⟨k, hk, hf⟩ := List.exists_of_findSome?_eq_some h
  have := (mem_span _ _ k).1 hk
  cases hx : (quarryOf s k).segs.find? (fun g => g.id = id) with
  | none => rw [hx] at hf; cases hf
  | some x => rw [hx] at hf; cases hf; omega

theorem returnSegment_counts {id y : Nat} {g : Seg} {s : Chip} (hy : y < 8) :
    let u := admitReturns 4 g.queue (modSeg y id (fun g => { g with stage := 3 }) (bump (.quarry y) 0x0124 1 (readAll y id s)))
    (∀ x ∈ (quarryOf u y).segs, x.id = id → x.stage = 3) ∧
    (liveW u (caddr (.quarry y) 0x0124)).toNat = min 0xFFFFFFFF ((liveW s (caddr (.quarry y) 0x0124)).toNat + 1) := by
  intro u
  obtain ⟨hsegs, hlive⟩ := admitReturns_quarry hy 4 g.queue (modSeg y id (fun g => { g with stage := 3 })
    (bump (.quarry y) 0x0124 1 (readAll y id s)))
  refine ⟨fun x hx hid => ?_, ?_⟩
  · obtain ⟨g', rfl⟩ := mem_segs_modSeg (hsegs y x hx) hid
    rfl
  · have hmod : liveW (modSeg y id (fun g => { g with stage := 3 }) (bump (.quarry y) 0x0124 1 (readAll y id s))) (caddr (.quarry y) 0x0124) =
        liveW (bump (.quarry y) 0x0124 1 (readAll y id s)) (caddr (.quarry y) 0x0124) := liveW_quarry_congr hy (by decide) rfl
    rw [hlive, hmod, toNat_liveW_bump, (readAll_issued hy id s).2]

/-- Settles O39: each step of a segment has its own lemma; admissions are followed by induction on how many there may be. -/
theorem spillPath : Obligations.SpillPath := by
  unfold Obligations.SpillPath
  intro s hd
  dsimp only
  refine ⟨fun q slot k cells key hq hopen hcells hact hkey hallow hslot hroom => ?_, fun id y g hat hst => ?_,
    fun q g hq hf hopen hfind hst hhead hfly hshort hroom => ?_, fun id y g hat hq hst hopen hidle hgood => ?_,
    fun q g rest hq hl hst => ?_⟩
  · obtain ⟨g, hsegs, hgslot, hgqueue, hgcells, hgstage, hgkey, hqueues, hunits⟩ := putSegment_adds q (queueYard s.chip q) slot k key cells s.chip
    refine ⟨putSegment q (queueYard s.chip q) slot k key cells s.chip, g, ?_, hsegs, hgslot, hgqueue, hgcells, hgstage, hgkey, hqueues, hunits⟩
    refine becomes_of_onUnit (f := fun t => if 10240 ≤ q then t else settle (writeSegment q none t)) rfl (decide_eq_true (by omega)) ?_
    rw [if_neg (by omega), writeSegment_puts hd hopen hcells hact hkey hallow hslot hroom]
  · exact ⟨_, becomes_of_onChip (f := fun t => settle (acceptSegment id t)) rfl rfl,
      fun x hx hid => acceptSegment_holds hd hat hst hx hid⟩
  · refine ⟨prefetch q s.chip, becomes_of_onUnit (f := fun t => if 10240 ≤ q then t else settle (prefetch q t)) rfl
      (decide_eq_true (by omega)) (if_neg (by omega)), ?_⟩
    rw [prefetch_requests hd hf hopen hfind hst hhead hfly hshort hroom]
    refine ⟨enqueueTx_queues .., fun x hx hid => ?_⟩
    rw [segs_enqueueTx] at hx
    obtain ⟨g', rfl⟩ := mem_segs_modSeg hx hid
    rfl
  · have hy := segWhere_lt hat
    obtain ⟨hstage, hcount⟩ := returnSegment_counts (id := id) (g := g) (s := s.chip) hy
    refine ⟨_, becomes_of_onChip (f := fun t => settle (returnSegment id {} t)) rfl
      (congrArg settle (returnSegment_returns hd hat hst hopen hidle hy hgood)), hstage, hcount⟩
  · refine ⟨admitReturns 4 q s.chip, becomes_of_onUnit (f := fun t => if 10240 ≤ q || dead t then t else settle (admitReturns 4 q t)) rfl
      (decide_eq_true (by omega)) (if_neg (by simp [hd]; omega)), ?_⟩
    cases ha : admission s.chip (queueYard s.chip q) 4099 32 0 1 with
    | inl e => 
      dsimp only
      rw [admitReturns_none fun _ _ _ _ => ⟨e, ha⟩]
    | inr b => exact admitReturns_admits hl hst ha

end Sys2Proof.Machine
end

section
/-!
PROOFS. The words of a queue that `SPILL_SET` writes (R346, R348), where a configured port lies outside R27: the plan that the Order derives
then writes the quota of that port where the words of the queue lie.
-/

namespace Sys2Proof.Machine

/-- What `SPILL_SET` QUEUE leaves before the accounts follow: the words of the queue, and the plan derived anew (R292, R346). -/
def marked (o : SpillQueueOps) (s : Chip) : Chip :=
  let i := Isl.quarry (queueYard s o.queue)
  let put (k v : Nat) (s : Chip) : Chip := deriveWord i (0x40000 + 16 * o.queue + k) (BitVec.ofNat 32 v) s
  derivePlan (commitIsl i (put 8 o.allow (put 4 (spillMarks o s).2 (put 0 (spillMarks o s).1 s)))).2

theorem spillQueue_of_checked {o : SpillQueueOps} {s : Chip} (hq : o.queue ≤ 10239) (hallow : o.allow ≤ 2 ^ 28 - 32 ∧ o.allow % 32 = 0)
    (hthresh : o.thresh ≤ 2 ^ 28 - 32 ∧ o.thresh % 32 = 0) (hrefill : o.refill ≤ 2 ^ 28 - 32 ∧ o.refill % 32 = 0)
    (hexists : queueExists s o.queue = true) (hmarks : (spillMarks o s).2 < (spillMarks o s).1)
    (hen : (quarryOf s (queueYard s o.queue)).enabled = true) (hf : isFenced s (.quarry (queueYard s o.queue)) = false) :
    spillQueue o s = (.ok, packD [(0, 28, 32 * (segsOf (settle (marked o s)) o.queue).length)], settle (marked o s)) := by
  unfold spillQueue
  dsimp only
  rw [if_neg (by simp; omega), if_neg (by simp; omega), if_neg (by simp [hexists]), if_neg (by simp [hen]; omega),
    if_neg (by simp [hf])]
  rfl

/-- The number of a port whose RSV word of group 0 at Yard 0, laid out as R290 has it, is THRESH of queue 0 at Quarry 0. -/
def spillPort : Nat := 2 ^ 28 + 0x600

theorem caddr_spillPort : caddr (.yard 0) (0x10000 + 16 * (8 * spillPort)) = caddr (.quarry 0) 0x40000 := by decide

/-- Marks for queue 0, and the Order that sets them. -/
def lowMarks : SpillQueueOps := { queue := 0, allow := 32, thresh := 64, refill := 32 }
def lowMarksRun : Running :=
  { cmd := some (.spillSetQueue 0 lowMarks), tag := 0, index := 0, notify := false, progress := false, seq := 0, start := 0 }

/-- That Order at work on ring 0, Quarry 0 enabled, and both ports configured, `spillPort` with a quota of its own. The boot sequence is still
to begin, so that nothing but the accounts follows. -/
def farSpill : Chip :=
  { power := { supplyHeld := false }, boot := { pending := true }, host := { rings := [(0, { enable := true, running := some lowMarksRun })] }
    ports := { ports := [(0, some (plainPort {})), (spillPort, some (plainPort { quotaPct := [(0, 50)] }))] }
    pkt := { quarries := [(0, { enabled := true })] } }

theorem atWork_farSpill : AtWork { chip := farSpill } 0 (.spillSetQueue 0 lowMarks) :=
  ⟨by decide, by decide, by decide, lowMarksRun, rfl, rfl, rfl, rfl⟩

/-- What it makes of it. -/
def farMarked : Chip := marked lowMarks farSpill

theorem farMarked_thresh : liveW farMarked (caddr (.quarry 0) 0x40000) = 0#32 := by decide +kernel

theorem farMarked_boot : farMarked.boot.pending = true := by decide +kernel

theorem accountKeeps_thresh : AccountKeeps (fun s => liveW s (caddr (.quarry 0) 0x40000)) :=
  accountKeeps_liveW (by decide) fun _ _ => rfl

/-- Refutes O40: it ranges over every number of a configured port, where R27 has 512. The plan that the Order derives writes the RSV of
`spillPort` where THRESH of queue 0 lies: the Order asks for 64, which the statement then has there, and leaves 0. -/
theorem not_spillOrders : ¬ Obligations.SpillOrders := by
  unfold Obligations.SpillOrders
  intro h
  obtain ⟨-, -, -, hqueue⟩ := h { chip := farSpill } 0
  obtain ⟨res, u, hu, hthresh, -⟩ := hqueue lowMarks atWork_farSpill (by decide) (by decide +kernel) (by decide) (by decide) (by decide)
    (by decide) (by decide) (by decide) (by decide +kernel) (by decide) (by decide +kernel) (by decide +kernel)
  have hmarked := ends_of_effect (c := .spillSetQueue 0 lowMarks) rfl atWork_farSpill (by decide +kernel)
    (spillQueue_of_checked (by decide) (by decide) (by decide) (by decide) (by decide +kernel) (by decide) (by decide +kernel) (by decide +kernel))
  have hends := Becomes.unique hu hmarked
  have hboot : u.boot = farMarked.boot := by
    have := congrArg Chip.boot hends
    rwa [finishOrder_boot, finishOrder_boot, boot_settle, boot_settle] at this
  have hword := congrArg (liveW · (caddr (.quarry 0) 0x40000)) hends
  simp only [liveW_finishOrder] at hword
  rw [accountKeeps_thresh.settle (hboot ▸ farMarked_boot), show marked lowMarks farSpill = farMarked from rfl,
    accountKeeps_thresh.settle farMarked_boot, farMarked_thresh] at hword
  exact absurd (hthresh.symm.trans hword) (by decide)

end Sys2Proof.Machine
end

section
/-!
PROOFS. DRAM channels in service (R338, R339, R343, R344): what a refresh of one rank leaves of the others, and the end of a retraining.
-/

namespace Sys2Proof.Machine

/-- A refresh interval has done its part for other ranks than `k` of channel `c`: what `k` owes and its next bank stay, and rows are at most
closed. -/
structure RankKept (c k : Nat) (s t : Chip) : Prop where
  mode : fieldOf t (.quarry (c / 4)) 0x0100 6 1 = fieldOf s (.quarry (c / 4)) 0x0100 6 1
  quarry : quarryOf t (c / 4) = quarryOf s (c / 4)
  queue : (chanOf t c).queue = (chanOf s c).queue
  owed : sget 0 (chanOf t c).owed k = sget 0 (chanOf s c).owed k
  next : sget 0 (chanOf t c).nextBank k = sget 0 (chanOf s c).nextBank k
  rows : ∀ b, sget none (chanOf t c).openRow b = sget none (chanOf s c).openRow b ∨ sget none (chanOf t c).openRow b = none
  out : ∀ x ∈ s.out, x ∈ t.out

namespace RankKept
variable {c k : Nat} {s t u : Chip}

theorem refl (c k : Nat) (s : Chip) : RankKept c k s s := ⟨rfl, rfl, rfl, rfl, rfl, fun _ => .inl rfl, fun _ => id⟩

theorem trans (h : RankKept c k s t) (h' : RankKept c k t u) : RankKept c k s u where
  mode := h'.mode.trans h.mode
  quarry := h'.quarry.trans h.quarry
  queue := h'.queue.trans h.queue
  owed := h'.owed.trans h.owed
  next := h'.next.trans h.next
  rows b := by
    obtain e | e := h'.rows b
    · rw [e]; exact h.rows b
    · exact .inr e
  out x hx := h'.out x (h.out x hx)

theorem nextBank (h : RankKept c k s t) : nextBank t c k = nextBank s c k := by rw [Machine.nextBank, h.next]; rfl

theorem closed (h : RankKept c k s t) {b : Nat} (hb : sget none (chanOf s c).openRow b = none) : sget none (chanOf t c).openRow b = none := by
  obtain e | e := h.rows b
  · rw [e, hb]
  · exact e

/-- Closing rows brings no row hits. -/
theorem rowHits (h : RankKept c k s t) {b : Nat} (hb : rowHits s c b = false) : rowHits t c b = false := by
  simp only [Machine.rowHits, h.quarry, h.queue] at hb ⊢
  rw [List.any_eq_false] at hb ⊢
  intro x hx hyes
  simp only [Bool.and_eq_true, decide_eq_true_eq, rowHit] at hyes
  obtain ⟨hbank, hopen⟩ := hyes
  apply hb x hx
  obtain e | e := h.rows (dramCell (quarryOf s (c / 4)) x.addr).1
  · simp only [Bool.and_eq_true, decide_eq_true_eq, rowHit]
    exact ⟨hbank, e ▸ hopen⟩
  · rw [e] at hopen
    cases hopen

end RankKept

section
variable {c : Nat} (hc : c < 32) (k : Nat) (s : Chip)
include hc

theorem rankKept_modChan {f : ChanSt → ChanSt} (hqueue : (f (chanOf s c)).queue = (chanOf s c).queue)
    (howed : sget 0 (f (chanOf s c)).owed k = sget 0 (chanOf s c).owed k)
    (hnext : sget 0 (f (chanOf s c)).nextBank k = sget 0 (chanOf s c).nextBank k)
    (hrows : ∀ b, sget none (f (chanOf s c)).openRow b = sget none (chanOf s c).openRow b ∨ sget none (f (chanOf s c)).openRow b = none) :
    RankKept c k s (modChan c f s) := by
  have hchan : chanOf (modChan c f s) c = f (chanOf s c) := by rw [chanOf_modChan, if_pos rfl]
  refine ⟨?_, rfl, ?_, ?_, ?_, ?_, fun _ => id⟩
  · rw [fieldOf, liveW_quarry_congr (by omega) (by decide) (modChan_live ..)]; rfl
  · rw [hchan, hqueue]
  · rw [hchan, howed]
  · rw [hchan, hnext]
  · rw [hchan]; exact hrows

omit hc in
theorem chanOf_pmcCount (i : Isl) (event sub : Nat) : chanOf (pmcCount i event sub s) = chanOf s := by
  unfold chanOf
  rw [pmcCount_pkt]

omit hc in
theorem rankKept_pmcCount (event sub : Nat) : RankKept c k s (pmcCount (.quarry (c / 4)) event sub s) := by
  have hchan := congrFun (chanOf_pmcCount s (.quarry (c / 4)) event sub) c
  refine ⟨?_, quarryOf_congr (congrArg _ (pmcCount_pkt ..)) _, congrArg _ hchan, congrArg (sget 0 ·.owed k) hchan,
    congrArg (sget 0 ·.nextBank k) hchan, fun b => .inl (congrArg (sget none ·.openRow b) hchan), ?_⟩
  · rw [fieldOf, liveW_pmcCount_quarry (by decide)]; rfl
  · obtain ⟨l, p, n, h⟩ := pmcCount_changes (.quarry (c / 4)) event sub s
    rw [h]; exact fun _ => id

theorem rankKept_emit (o : Output) : RankKept c k s (emit o s) := by
  refine ⟨?_, rfl, rfl, rfl, rfl, fun _ => .inl rfl, fun _ hx => List.mem_append_left _ hx⟩
  rw [fieldOf, liveW_quarry_congr (t := emit o s) (s := s) (by omega) (by decide) rfl]; rfl

theorem rankKept_closeRows (p : Nat → Bool) : RankKept c k s (closeRows c p s) := by
  refine rankKept_modChan hc k s rfl rfl rfl fun b => ?_
  dsimp only
  rw [sget_filter none _ (fun b => !p b)]
  split
  · exact .inl rfl
  · exact .inr rfl

/-- Every part of the refresh of a rank leaves the others as they are. -/
theorem rankKept_refreshAll {r : Nat} (hr : k ≠ r) : RankKept c k s (refreshAll c r s) :=
  (((rankKept_modChan hc k s rfl (by rw [sget_sput, if_neg hr]) rfl fun _ => .inl rfl).trans (rankKept_closeRows hc k _ _)).trans
    (rankKept_pmcCount k _ _ _)).trans (rankKept_emit hc k _ _)

theorem rankKept_refreshBank {r : Nat} (hr : k ≠ r) : RankKept c k s (refreshBank c r s) :=
  (((rankKept_modChan hc k s rfl rfl (by rw [sget_smod, if_neg hr]) fun _ => .inl rfl).trans (rankKept_closeRows hc k _ _)).trans
    (rankKept_pmcCount k _ _ _)).trans (rankKept_emit hc k _ _)

theorem rankKept_owes {r : Nat} (hr : k ≠ r) (n : Nat) : RankKept c k s (modChan c (fun h => { h with owed := sput 0 h.owed r n }) s) :=
  rankKept_modChan hc k s rfl (by rw [sget_sput, if_neg hr]) rfl fun _ => .inl rfl

theorem rankKept_payRefresh {r : Nat} (hr : k ≠ r) (n : Nat) : RankKept c k s (payRefresh c r n s) := by
  induction n generalizing s with
  | zero => exact rankKept_owes hc k s hr 0
  | succ n ih =>
    rw [payRefresh]
    split
    · exact rankKept_owes hc k s hr (n + 1)
    · exact (rankKept_refreshBank hc k s hr).trans (ih _)

theorem rankKept_refreshRank {r : Nat} (hr : k ≠ r) : RankKept c k s (refreshRank c r s) := by
  unfold refreshRank
  dsimp only
  split
  · exact rankKept_refreshAll hc k s hr
  · exact rankKept_payRefresh hc k s hr _

theorem rankKept_refreshRanks {l : List Nat} (hk : k ∉ l) : RankKept c k s (l.foldl (fun s r => refreshRank c r s) s) := by
  induction l generalizing s with
  | nil => exact .refl ..
  | cons r l ih =>
    rw [List.mem_cons, not_or] at hk
    exact (rankKept_refreshRank hc k s hk.1).trans (ih _ hk.2)

/-- A rank's part of a refresh interval stands between those of the others. -/
theorem refreshRanks_of_mem {n : Nat} (hk : k < n) : ∃ u, RankKept c k s u ∧
    RankKept c k (refreshRank c k u) ((span 0 n).foldl (fun s r => refreshRank c r s) s) := by
  obtain ⟨l, l', hl⟩ := List.append_of_mem ((mem_span 0 n k).2 (by omega))
  have hnot := nodup_span 0 n
  rw [hl] at hnot ⊢
  obtain ⟨-, hnd, hdis⟩ := List.nodup_append.1 hnot
  rw [List.foldl_append, List.foldl_cons]
  exact ⟨_, rankKept_refreshRanks hc k s fun h => hdis k h k (List.mem_cons_self ..) rfl,
    rankKept_refreshRanks hc k _ (List.nodup_cons.1 hnd).1⟩

end

/-! What a rank's own part does -/

theorem mem_out_emit (o : Output) (s : Chip) : o ∈ (emit o s).out := List.mem_append_right _ (List.mem_singleton.2 rfl)

theorem chanOf_emit (o : Output) (s : Chip) : chanOf (emit o s) = chanOf s := rfl

theorem chanOf_refreshAll (c k : Nat) (s : Chip) : chanOf (refreshAll c k s) c =
    { chanOf s c with owed := sput 0 (chanOf s c).owed k 0
                      openRow := (chanOf s c).openRow.filter fun x => !decide (x.1 / 8 = k) } := by
  rw [refreshAll, chanOf_emit, chanOf_pmcCount, closeRows, chanOf_modChan, if_pos rfl, chanOf_modChan,
    if_pos rfl]

theorem chanOf_refreshBank (c k : Nat) (s : Chip) : chanOf (refreshBank c k s) c =
    { chanOf s c with nextBank := smod 0 (chanOf s c).nextBank k (fun b => (b + 1) % 8)
                      openRow := (chanOf s c).openRow.filter fun x => !decide (x.1 = nextBank s c k) } := by
  rw [refreshBank]
  dsimp only
  rw [chanOf_emit, chanOf_pmcCount, closeRows, chanOf_modChan, if_pos rfl, chanOf_modChan, if_pos rfl]

theorem refreshAll_does (c k : Nat) (s : Chip) : .dram c 1 k ∈ (refreshAll c k s).out ∧ sget 0 (chanOf (refreshAll c k s) c).owed k = 0 :=
  ⟨mem_out_emit .., by rw [chanOf_refreshAll]; dsimp only; rw [sget_sput, if_pos rfl]⟩

/-- A rank that owes nothing, with no row hits in its next bank, refreshes that bank (R339). -/
theorem refreshRank_bank {c k : Nat} {s : Chip} (hmode : fieldOf s (.quarry (c / 4)) 0x0100 6 1 = 0)
    (howed : sget 0 (chanOf s c).owed k = 0) (hits : rowHits s c (nextBank s c k) = false) :
    refreshRank c k s = modChan c (fun h => { h with owed := sput 0 h.owed k 0 }) (refreshBank c k s) := by
  unfold refreshRank
  dsimp only
  rw [howed, hmode, if_neg (by simp), payRefresh, if_neg (by rw [hits]; decide), payRefresh]

/-- Behind row hits the refresh of a rank stays owed, below eight (R339). -/
theorem refreshRank_owed {c k : Nat} {s : Chip} (hmode : fieldOf s (.quarry (c / 4)) 0x0100 6 1 = 0)
    (howed : sget 0 (chanOf s c).owed k < 7) (hits : rowHits s c (nextBank s c k) = true) :
    refreshRank c k s = modChan c (fun h => { h with owed := sput 0 h.owed k (sget 0 (chanOf s c).owed k + 1) }) s := by
  unfold refreshRank
  dsimp only
  rw [hmode, if_neg (by simp; omega), payRefresh, if_pos hits]

theorem refreshRank_all {c k : Nat} {s : Chip} (h : fieldOf s (.quarry (c / 4)) 0x0100 6 1 = 1 ∨
    (7 ≤ sget 0 (chanOf s c).owed k ∧ rowHits s c (nextBank s c k) = true)) : refreshRank c k s = refreshAll c k s := by
  unfold refreshRank
  dsimp only
  rw [if_pos]
  obtain h | ⟨ho, hh⟩ := h
  · simp [h]
  · simp [hh]; omega

/-! One interval, over every rank (R339) -/

section
variable {s : State} {c : Nat} (hc : c < 32) (hup : dead s.chip = false) (hawake : chanAwake s.chip c = true)
include hc hup hawake

theorem becomes_refresh : Becomes (.dramRefresh c) s
    ((span 0 (max 1 (quarryOf s.chip (c / 4)).ranks)).foldl (fun s r => refreshRank c r s) s.chip) :=
  becomes_of_onUnit (f := refresh c) rfl (decide_eq_true hc) (by rw [refresh, hup, hawake]; rfl)

omit hup hawake in
/-- A rank that owes none, its next bank without row hits, refreshes that bank, and the bank's row is closed. -/
theorem refresh_bank (hmode : fieldOf s.chip (.quarry (c / 4)) 0x0100 6 1 = 0) {rank : Nat}
    (hrank : rank < max 1 (quarryOf s.chip (c / 4)).ranks) (howed : sget 0 (chanOf s.chip c).owed rank = 0)
    (hits : rowHits s.chip c (nextBank s.chip c rank) = false) :
    let t := (span 0 (max 1 (quarryOf s.chip (c / 4)).ranks)).foldl (fun s r => refreshRank c r s) s.chip
    .dram c 0 (nextBank s.chip c rank) ∈ t.out ∧ sget 0 (chanOf t c).owed rank = 0 ∧
      sget 0 (chanOf t c).nextBank rank = (sget 0 (chanOf s.chip c).nextBank rank + 1) % 8 ∧
      sget none (chanOf t c).openRow (nextBank s.chip c rank) = none := by
  obtain ⟨u, hu, ht⟩ := refreshRanks_of_mem hc rank s.chip hrank
  rw [refreshRank_bank (hu.mode.trans hmode) (hu.owed.trans howed) (hu.nextBank ▸ hu.rowHits hits)] at ht
  have hchan : chanOf (modChan c (fun h => { h with owed := sput 0 h.owed rank 0 }) (refreshBank c rank u)) c =
      { chanOf (refreshBank c rank u) c with owed := sput 0 (chanOf (refreshBank c rank u) c).owed rank 0 } := by
    rw [chanOf_modChan, if_pos rfl]
  rw [chanOf_refreshBank] at hchan
  refine ⟨ht.out _ (hu.nextBank ▸ mem_out_emit ..), ?_, ?_, ht.closed ?_⟩
  · rw [ht.owed, hchan]; dsimp only; rw [sget_sput, if_pos rfl]
  · rw [ht.next, hchan, ← hu.next]; dsimp only; rw [sget_smod, if_pos rfl]
  · rw [hchan, hu.nextBank]
    exact (sget_filter none _ (fun b => !decide (b = nextBank s.chip c rank)) _).trans (if_neg (by simp))

omit hup hawake in
theorem refresh_owed (hmode : fieldOf s.chip (.quarry (c / 4)) 0x0100 6 1 = 0) (hits : rowHits s.chip c (nextBank s.chip c 0) = true) :
    let t := (span 0 (max 1 (quarryOf s.chip (c / 4)).ranks)).foldl (fun s r => refreshRank c r s) s.chip
    if sget 0 (chanOf s.chip c).owed 0 < 7 then sget 0 (chanOf t c).owed 0 = sget 0 (chanOf s.chip c).owed 0 + 1
    else .dram c 1 0 ∈ t.out ∧ sget 0 (chanOf t c).owed 0 = 0 := by
  have hspan : ∀ n, ∃ l, span 0 (max 1 n) = 0 :: l ∧ 0 ∉ l := fun n => by
    obtain ⟨m, hm⟩ : ∃ m, max 1 n = m + 1 := ⟨max 1 n - 1, by omega⟩
    exact ⟨_, by rw [hm, span], fun h => by have := (mem_span ..).1 h; omega⟩
  obtain ⟨l, hl, hnot⟩ := hspan (quarryOf s.chip (c / 4)).ranks
  rw [hl]
  have ht := rankKept_refreshRanks hc 0 (refreshRank c 0 s.chip) hnot
  rw [List.foldl_cons]
  dsimp only
  split
  · next hlt => rw [ht.owed, refreshRank_owed hmode hlt hits, chanOf_modChan, if_pos rfl]; dsimp only; rw [sget_sput, if_pos rfl]
  · next hge =>
    obtain ⟨hout, howed⟩ := refreshAll_does c 0 s.chip
    rw [← refreshRank_all (.inr ⟨by omega, hits⟩)] at hout howed
    exact ⟨ht.out _ hout, ht.owed.trans howed⟩

omit hup hawake in
theorem refresh_all (hmode : fieldOf s.chip (.quarry (c / 4)) 0x0100 6 1 = 1) {rank : Nat}
    (hrank : rank < max 1 (quarryOf s.chip (c / 4)).ranks) :
    let t := (span 0 (max 1 (quarryOf s.chip (c / 4)).ranks)).foldl (fun s r => refreshRank c r s) s.chip
    .dram c 1 rank ∈ t.out ∧ sget 0 (chanOf t c).owed rank = 0 := by
  obtain ⟨u, hu, ht⟩ := refreshRanks_of_mem hc rank s.chip hrank
  obtain ⟨hout, howed⟩ := refreshAll_does c rank u
  rw [← refreshRank_all (.inl (hu.mode.trans hmode))] at hout howed
  exact ⟨ht.out _ hout, ht.owed.trans howed⟩

/-- A temperature reading (R339). -/
theorem becomes_mr4 {rank : Nat} (h4 : rank < 4) (hrank : rank < (quarryOf s.chip (c / 4)).ranks) (high : Bool) :
    ∃ u, u.out = s.chip.out ++ [.dram c 6 rank] ∧
      Becomes (.mr4Poll c rank high) s (if high then raise (.quarry (c / 4)) 0x29 clsMemory 2 u else u) ∧
      (chanOf u c).mr4High = if high then nadd (chanOf s.chip c).mr4High rank else ndel (chanOf s.chip c).mr4High rank := by
  refine ⟨emit (.dram c 6 rank) (modChan c (fun h => { h with mr4High := if high then nadd h.mr4High rank else ndel h.mr4High rank }) s.chip),
    rfl, becomes_of_onUnit (f := mr4 c rank high) rfl (by simp [hc, h4]) ?_, ?_⟩
  · unfold mr4
    rw [if_neg (by simp [hup, hawake]; omega)]
  · rw [chanOf_emit, chanOf_modChan, if_pos rfl]

/-- A row that was idle for QY_PAGE_IDLE is closed (R338). -/
theorem becomes_idleRow {bank : Nat} (h16 : bank < 16) (hopen : (sget none (chanOf s.chip c).openRow bank).isSome = true)
    (hidle : fieldOf s.chip (.quarry (c / 4)) 0x0108 8 12 ≤ elapsed s.chip (sget 0 (chanOf s.chip c).rowAt bank)) :
    ∃ t, Becomes (.rowIdlePrecharge c bank) s t ∧ t.out = s.chip.out ++ [.dram c 2 bank] ∧ sget none (chanOf t c).openRow bank = none := by
  refine ⟨emit (.dram c 2 bank) (closeRows c (fun b => b = bank) s.chip), becomes_of_onUnit (f := idleRow c bank) rfl (by simp [hc, h16]) ?_,
    rfl, ?_⟩
  · unfold idleRow
    rw [if_neg]
    simp only [hup, hawake, Option.isNone_eq_false_iff.2 hopen, Bool.not_true, Bool.or_self, Bool.false_or, decide_eq_true_eq]
    omega
  · rw [chanOf_emit, closeRows, chanOf_modChan, if_pos rfl]
    exact (sget_filter none _ (fun b => !decide (b = bank)) _).trans (if_neg (by simp))

/-- A measurement of the oscillators (R343). -/
theorem becomes_osc (d : Option Int) : Becomes (.dqsOscMeasure c d) s (measureOsc c d s.chip) :=
  becomes_of_onUnit (f := fun s => if dead s || !chanAwake s c then s else measureOsc c d s) rfl (decide_eq_true hc)
    (by rw [hup, hawake]; rfl)

end

theorem retraining_measureOsc_none (c : Nat) (s : Chip) : (chanOf (measureOsc c none s) c).retraining = true := by
  rw [measureOsc, startRetrain, chanOf_modChan, if_pos rfl]

theorem chanOf_measureOsc_some (c : Nat) (d : Int) (s : Chip) :
    (chanOf (measureOsc c (some d) s) c).drift = d ∧
    (chanOf (measureOsc c (some d) s) c).wrDrift = (if 4 ≤ d.natAbs then d else (chanOf s c).wrDrift) ∧
    (chanOf (measureOsc c (some d) s) c).retraining = ((chanOf s c).retraining || decide (16 ≤ d.natAbs)) := by
  have hsame : chanOf (modQuarry (c / 4) (fun v => { v with oscDue := ndel v.oscDue (c % 4) }) s) c = chanOf s c := rfl
  unfold measureOsc
  dsimp only
  split
  · next h => rw [startRetrain, chanOf_modChan, if_pos rfl, chanOf_modChan, if_pos rfl, hsame]; simp [h]
  · next h => rw [chanOf_modChan, if_pos rfl, hsame]; simp [h]

/-! The end of a retraining (R343, R344) -/

theorem chanOf_finishOrder (r : Nat) (st : Status) (v : DWord) (s : Chip) : chanOf (finishOrder r st v s) = chanOf s := by
  unfold chanOf
  rw [finishOrder_pkt]

theorem chanOf_finishOrders (f : Chip → Nat → DWord) (st : Status) (c : Nat) (l : List Nat) (s : Chip) :
    chanOf (l.foldl (fun s r => finishOrder r st (f s r) s) s) c = chanOf s c :=
  foldl_keeps (φ := fun s => chanOf s c) (fun _ _ => by rw [chanOf_finishOrder]) _ _

/-- A channel whose retraining found settings takes them, and answers the Orders that waited. -/
theorem retrain_found {c : Nat} {env : DramEnv} {s : Chip} (hup : dead s = false) (hr : (chanOf s c).retraining = true)
    (hfound : (sfind env.trained c).isSome = true) :
    (chanOf (retrain c env s) c).dq = foundSettings c env.settings ∧ (chanOf (retrain c env s) c).rings = (chanOf s c).next ∧
      (chanOf (retrain c env s) c).retraining = decide ((chanOf s c).next ≠ []) := by
  unfold retrain
  dsimp only
  rw [if_neg (by simp [hup, hr]), if_neg (by simpa using Option.isSome_iff_ne_none.1 hfound)]
  rw [chanOf_finishOrders (fun s _ => trainResult s c 0 0), chanOf_modChan, if_pos rfl]
  exact ⟨rfl, rfl, rfl⟩

/-- Settles O41: the refresh of an interval rank by rank, each leaving the others' records; then each event of a channel. -/
theorem dramService : Obligations.DramService := by
  unfold Obligations.DramService
  intro s c hc hup
  refine ⟨fun hawake => ⟨fun hmode => ?_, fun hmode => ?_, fun rank h4 hr => ?_, fun rank h4 hr => ?_, fun bank h16 hopen hidle => ?_, ?_, ?_,
    fun d => ?_⟩, fun hr env => ⟨fun hnone => ?_, fun hsome => ?_⟩⟩
  · exact ⟨_, becomes_refresh hc hup hawake, fun rank hrank howed hits => refresh_bank hc hmode hrank howed hits,
      refresh_owed hc hmode⟩
  · exact ⟨_, becomes_refresh hc hup hawake, fun rank hrank => refresh_all hc hmode hrank⟩
  · exact becomes_mr4 hc hup hawake h4 hr true
  · obtain ⟨u, hout, hu, hhigh⟩ := becomes_mr4 hc hup hawake h4 hr false
    exact ⟨u, hu, hout, hhigh⟩
  · exact becomes_idleRow hc hup hawake h16 hopen hidle
  · exact becomes_of_onUnit (f := fun s => if dead s || !chanAwake s c then s else emit (.dram c 5 0) s) rfl (decide_eq_true hc)
      (by rw [hup, hawake]; rfl)
  · exact ⟨_, becomes_osc hc hup hawake none, retraining_measureOsc_none c s.chip⟩
  · exact ⟨_, becomes_osc hc hup hawake (some d), chanOf_measureOsc_some c d s.chip⟩
  · refine becomes_of_onUnit (f := fun s => settle (retrain c env s)) rfl (decide_eq_true hc) (congrArg settle ?_)
    rw [retrain, if_neg (by simp [hup, hr]), if_pos (by simp [hnone])]
  · exact ⟨_, becomes_of_onUnit (f := fun s => settle (retrain c env s)) rfl (decide_eq_true hc) rfl, retrain_found hup hr hsome⟩

end Sys2Proof.Machine
end

section
/-!
PROOFS. A whole Quarry and `DRAM_TRAIN` (R340, R341, R344, R346, R349, R350).
-/

namespace Sys2Proof.Machine

/-- An Order at work whose command, as the Order's record holds it, differs from the one that ends it in what it finds. -/
theorem ends_of_found {c c' : Instr} {s : State} {ring : Nat} {needs : Chip → List Nat} {eff : Chip → Status × DWord × Chip}
    (hc : exec c s = onUnit (decide (ring < 64)) s fun u => endOrder ring c' needs eff u) (h : AtWork s ring c') (hn : needs s.chip = [])
    {st : Status} {res : DWord} {t : Chip} (he : eff s.chip = (st, res, t)) : Ends c s ring st res t := by
  rw [Ends, Becomes, hc, onUnit_next (decide_eq_true h.1), endOrder_atWork h needs eff hn, he]

/-! Self-refresh (R340, R341) -/

/-- What a channel does as its Quarry enters self-refresh: it closes every row. -/
def sleepChan (q : Nat) (s : Chip) (k : Nat) : Chip := emit (.dram (4 * q + k) 3 0) (closeRows (4 * q + k) (fun _ => true) s)

theorem chanOf_sleepChan (q k c : Nat) (s : Chip) :
    chanOf (sleepChan q s k) c = if c = 4 * q + k then { chanOf s c with openRow := [] } else chanOf s c := by
  rw [sleepChan, chanOf_emit, closeRows, chanOf_modChan]
  split
  · next h => subst h; simp
  · rfl

/-- The channels of a list, one after another. -/
theorem sleepChans_does (q : Nat) (l : List Nat) (s : Chip) :
    (l.foldl (sleepChan q) s).out = s.out ++ l.map (fun k => .dram (4 * q + k) 3 0) ∧
    ∀ c, (chanOf (l.foldl (sleepChan q) s) c).openRow = [] ∨
      (chanOf (l.foldl (sleepChan q) s) c).openRow = (chanOf s c).openRow ∧ ∀ k ∈ l, c ≠ 4 * q + k := by
  induction l generalizing s with
  | nil => exact ⟨(List.append_nil _).symm, fun c => .inr ⟨rfl, nofun⟩⟩
  | cons k l ih =>
    obtain ⟨hout, hrows⟩ := ih (sleepChan q s k)
    refine ⟨hout.trans (List.append_assoc ..), fun c => ?_⟩
    obtain h | ⟨h, hnot⟩ := hrows c
    · exact .inl h
    · rw [List.foldl_cons, h, chanOf_sleepChan]
      split
      · exact .inl rfl
      · next hne => exact .inr ⟨rfl, List.forall_mem_cons.2 ⟨hne, hnot⟩⟩

theorem sleepChans_quarries (q : Nat) (l : List Nat) (s : Chip) : (l.foldl (sleepChan q) s).pkt.quarries = s.pkt.quarries :=
  foldl_keeps (φ := fun s => s.pkt.quarries) (f := sleepChan q) (fun _ _ => rfl) _ _

theorem sleepChans_live (q : Nat) (l : List Nat) (s : Chip) : (l.foldl (sleepChan q) s).live = s.live :=
  foldl_keeps (φ := fun s => s.live) (f := sleepChan q) (fun _ _ => rfl) _ _

/-- A Quarry that sleeps, before its channels are told. -/
def asleep (q : Nat) (s : Chip) : Chip :=
  modQuarry q (fun v => { v with selfRefresh := true, srTime := runNs s }) (bump (.quarry q) 0x0138 1 s)

theorem enterSelfRefresh_of_due {q : Nat} {s : Chip} (hup : dead s = false) (hen : (quarryOf s q).enabled = true)
    (hsr : (quarryOf s q).selfRefresh = false) (hdue : selfRefreshDue q s = true) :
    enterSelfRefresh q s = (quarryOf s q).active.foldl (sleepChan q) (asleep q s) := by
  unfold enterSelfRefresh
  dsimp only
  rw [if_neg (by simp [hup, hen, hsr, hdue])]
  rfl

theorem asleep_does {q : Nat} (hq : q < 8) (s : Chip) : (quarryOf (asleep q s) q).selfRefresh = true ∧ (asleep q s).out = s.out ∧
    (liveW (asleep q s) (caddr (.quarry q) 0x0138)).toNat = min 0xFFFFFFFF ((liveW s (caddr (.quarry q) 0x0138)).toNat + 1) := by
  refine ⟨?_, ?_, ?_⟩
  · rw [asleep, quarryOf_modQuarry, if_pos rfl]
  · rw [asleep, modQuarry_out, bump, bumpField, setField', setLive_out]
  · rw [← toNat_liveW_bump (.quarry q) 0x0138 1 s, asleep, liveW_quarry_congr hq (by decide) (modQuarry_live ..)]

/-- A Quarry wakes (R341): its channels are told, one after another. -/
theorem wakeChans_does (q : Nat) (l : List Nat) (s : Chip) :
    (l.foldl (fun s k => emit (.dram (4 * q + k) 4 0) s) s).out = s.out ++ l.map (fun k => .dram (4 * q + k) 4 0) ∧
    (l.foldl (fun s k => emit (.dram (4 * q + k) 4 0) s) s).pkt = s.pkt := by
  induction l generalizing s with
  | nil => exact ⟨(List.append_nil _).symm, rfl⟩
  | cons k l ih =>
    obtain ⟨hout, hpkt⟩ := ih (emit (.dram (4 * q + k) 4 0) s)
    exact ⟨hout.trans (List.append_assoc ..), hpkt⟩

section
variable {s : State} {q : Nat} (hq : q < 8) (hup : dead s.chip = false)
include hq hup

theorem becomes_selfRefreshEntry (hen : (quarryOf s.chip q).enabled = true) (hsr : (quarryOf s.chip q).selfRefresh = false)
    (hdue : selfRefreshDue q s.chip = true) : ∃ t, Becomes (.selfRefreshEntry q) s t ∧ (quarryOf t q).selfRefresh = true ∧
      t.out = s.chip.out ++ (quarryOf s.chip q).active.map (fun k => .dram (4 * q + k) 3 0) ∧
      (∀ k ∈ (quarryOf s.chip q).active, (chanOf t (4 * q + k)).openRow = []) ∧
      (liveW t (caddr (.quarry q) 0x0138)).toNat = min 0xFFFFFFFF ((liveW s.chip (caddr (.quarry q) 0x0138)).toNat + 1) := by
  obtain ⟨hsleeps, hout, hcount⟩ := asleep_does hq s.chip
  obtain ⟨houts, hrows⟩ := sleepChans_does q (quarryOf s.chip q).active (asleep q s.chip)
  refine ⟨_, becomes_of_onUnit (f := enterSelfRefresh q) rfl (decide_eq_true hq) (enterSelfRefresh_of_due hup hen hsr hdue), ?_,
    hout ▸ houts, fun k hk => (hrows (4 * q + k)).elim id fun h => absurd rfl (h.2 k hk), ?_⟩
  · rw [quarryOf_congr (sleepChans_quarries ..), hsleeps]
  · rw [liveW_quarry_congr hq (by decide) (sleepChans_live ..), hcount]

theorem becomes_selfRefreshExit (hsr : (quarryOf s.chip q).selfRefresh = true) :
    ∃ t, Becomes (.selfRefreshExit q) s t ∧ (quarryOf t q).selfRefresh = false ∧
      t.out = s.chip.out ++ (quarryOf s.chip q).active.map (fun k => .dram (4 * q + k) 4 0) := by
  refine ⟨_, becomes_of_onUnit (f := exitSelfRefresh q) rfl (decide_eq_true hq) rfl, ?_⟩
  unfold exitSelfRefresh
  dsimp only
  rw [if_neg (by simp [hup, hsr])]
  obtain ⟨hout, hpkt⟩ := wakeChans_does q (quarryOf s.chip q).active _
  refine ⟨?_, hout⟩
  rw [quarryOf_congr (congrArg _ hpkt), quarryOf_modQuarry, if_pos rfl]

theorem becomes_mapRebuild (hf : isFenced s.chip (.quarry q) = false) (hremap : (quarryOf s.chip q).remap = true)
    (hsegs : (quarryOf s.chip q).segs = []) : ∃ t, Becomes (.mapRebuild q) s t ∧
      (quarryOf t q).remap = false ∧ (quarryOf t q).mapGen = ((quarryOf s.chip q).mapGen + 1) % 16 ∧
      (quarryOf t q).active =
        (span 0 4).filter (fun k => (chanOf s.chip (4 * q + k)).trained && !(quarryOf s.chip q).fenced.contains k) ∧
      (quarryOf t q).mapActs = (quarryOf t q).active := by
  refine ⟨rebuildMap q s.chip, becomes_of_onUnit (f := fun s => if dead s || isFenced s (.quarry q) then s else rebuildMap q s) rfl
    (decide_eq_true hq) (by rw [hup, hf]; rfl), ?_⟩
  unfold rebuildMap
  dsimp only
  rw [if_neg (by simp [hremap, hsegs]), quarryOf_modQuarry, if_pos rfl]
  exact ⟨rfl, rfl, rfl, rfl⟩

end

/-! DRAM_TRAIN (R349, R350) -/

section
variable {s : State} {ring : Nat} {o : DramTrainOps} (hn : trainNeeds o s.chip = []) (hck : trainCheck o s.chip = none)
include hn hck

theorem ends_trainOsc (h : AtWork s ring (.dramTrainOsc ring o none)) (d : Option Int) :
    Ends (.dramTrainOsc ring o d) s ring .ok (trainResult (measureOsc o.channel d s.chip) o.channel o.rank o.dqBit)
      (measureOsc o.channel d s.chip) :=
  ends_of_found rfl h hn (by rw [trainOsc, hck])

theorem trainRetrain_waits (h : AtWork s ring (.dramTrainRetrain ring o)) (hr : (chanOf s.chip o.channel).retraining = false) :
    ∃ t run, Becomes (.dramTrainRetrain ring o) s t ∧ (chanOf t o.channel).retraining = true ∧
      (chanOf t o.channel).rings = [ring] ∧ (ringOf t ring).running = some run ∧ run.outcome = none ∧ run.begun = true := by
  obtain ⟨t, run, ht, hpkt, hrun⟩ := becomes_of_going (c := .dramTrainRetrain ring o) rfl h hn (eff := trainRetrain ring o)
    (by rw [trainRetrain, hck])
    (t := modChan o.channel (fun h => if h.retraining then { h with next := h.next ++ [ring] } else { h with retraining := true, rings := [ring] })
      s.chip) rfl
  have hchan : chanOf t o.channel = { chanOf s.chip o.channel with retraining := true, rings := [ring] } := by
    unfold chanOf
    rw [hpkt]
    exact (chanOf_modChan ..).trans (by rw [if_pos rfl, hr]; rfl)
  exact ⟨t, run, ht, by rw [hchan], by rw [hchan], hrun⟩

/-- SET replaces one setting of one channel. -/
theorem trainSet_sets (h : AtWork s ring (.dramTrainSet ring o)) : ∃ t,
    Ends (.dramTrainSet ring o) s ring .ok (trainResult t o.channel o.rank o.dqBit) t ∧
    sget {} (chanOf t o.channel).dq (18 * o.rank + o.dqBit) = ⟨o.rd, o.wr, o.vref⟩ ∧
    (∀ k, k ≠ 18 * o.rank + o.dqBit → sget {} (chanOf t o.channel).dq k = sget {} (chanOf s.chip o.channel).dq k) ∧
    ∀ c, c ≠ o.channel → chanOf t c = chanOf s.chip c := by
  refine ⟨_, ends_of_effect rfl h hn (eff := trainSet o) (by rw [trainSet, hck]), ?_, fun k hk => ?_, fun c hc => ?_⟩
  · rw [chanOf_modChan, if_pos rfl]; dsimp only; rw [sget_sput, if_pos rfl]
  · rw [chanOf_modChan, if_pos rfl]; dsimp only; rw [sget_sput, if_neg hk]
  · rw [chanOf_modChan, if_neg hc]

end

/-- Settles O42, event by event and operation by operation. -/
theorem quarryAndTraining : Obligations.QuarryAndTraining := by
  unfold Obligations.QuarryAndTraining
  refine ⟨fun s q hq hup => ⟨fun hen hsr hsegs hchans h0 hidle => ?_, fun hsr => becomes_selfRefreshExit hq hup hsr,
    fun hf hremap hsegs => becomes_mapRebuild hq hup hf hremap hsegs⟩,
    fun s ring o hn hck => ⟨fun h hr => trainRetrain_waits hn hck h hr,
      fun h d => ⟨_, ends_trainOsc hn hck h (some d), (chanOf_measureOsc_some ..).1⟩,
      fun h => ⟨_, ends_trainOsc hn hck h none, retraining_measureOsc_none ..⟩,
      fun h => ends_of_effect rfl h hn (eff := trainRead o) (by rw [trainRead, hck]), fun h => trainSet_sets hn hck h⟩⟩
  refine becomes_selfRefreshEntry hq hup hen hsr ?_
  unfold selfRefreshDue
  simp only [Bool.and_eq_true, decide_eq_true_eq, Bool.not_eq_true', List.any_eq_false, List.all_eq_true, Bool.or_eq_true, not_or]
  exact ⟨⟨⟨h0, hidle⟩, hsegs⟩, hchans⟩

end Sys2Proof.Machine
end

section
/-!
PROOFS. Keys and security associations (R353 to R371).
-/

namespace Sys2Proof.Machine

theorem sget_sput_self {α : Type} [DecidableEq α] (d : α) (m : Sparse α) (k : Nat) (v : α) : sget d (sput d m k v) k = v :=
  (sget_sput ..).trans (if_pos rfl)

/-! Key slots -/

/-- The key that drains is the other one: the key that was written stays, and stays active (R370). -/
theorem cipher_writeSpillKey {k : Nat} (hk : k < 2) (key : List Byte) (s : Chip) :
    sget none (writeSpillKey k key s).cipher.spill k = some key ∧ (writeSpillKey k key s).cipher.spillActive = some k := by
  have hne : k ≠ 1 - k := by omega
  have hput : sget none (sput none s.cipher.spill k (some key)) k = some key := by rw [sget_sput, if_pos rfl]
  unfold writeSpillKey spillKeyDrain modCipher
  dsimp only
  by_cases hother : (sget none s.cipher.spill (1 - k)).isSome = true
  · simp only [if_pos hother]
    split
    · exact ⟨by dsimp only; rw [sget_sput, if_neg hne, hput], rfl⟩
    · exact ⟨hput, rfl⟩
  · simp only [if_neg hother]
    exact ⟨hput, trivial⟩

/-- What a slot holds after KEY_WRITE (R356). -/
theorem keyWrite_of_checked {o : KeyWriteOps} {s : Chip} (h : keyWriteCheck o s = none) : ∃ t, keyWrite o s = (.ok, 0, t) ∧
    slotEmpty t o.cls o.slot = false ∧ (o.cls = 0 → linkKey t o.slot = some (o.payload.data.take (keyLen o.keyBits))) ∧
    (o.cls = 1 → t.cipher.spillActive = some o.slot) := by
  have hrange : slotRange o.cls o.slot = false := by
    unfold keyWriteCheck at h
    split at h
    · cases h
    · next hr => exact Bool.eq_false_iff.2 hr
  refine ⟨_, by rw [keyWrite, h], ?_⟩
  obtain ⟨cls, bits, slot, fixed, payload⟩ := o
  dsimp only at hrange ⊢
  match cls with
  | 0 =>
    have hput : linkKey (modCipher (fun c => { c with link := sput none c.link slot (some (payload.data.take (keyLen bits))) }) s) slot =
      some (payload.data.take (keyLen bits)) := by rw [linkKey, modCipher]; dsimp only; rw [sget_sput, if_pos rfl]
    exact ⟨congrArg Option.isNone hput, fun _ => hput, nofun⟩
  | 1 =>
    have hk : slot < 2 := by simpa [slotRange, classSlots] using hrange
    obtain ⟨hkey, hact⟩ := cipher_writeSpillKey hk (payload.data.take (keyLen bits)) s
    exact ⟨congrArg Option.isNone hkey, nofun, fun _ => hact⟩
  | 2 => exact ⟨congrArg Option.isNone (sget_sput_self none s.cipher.look slot
      (some ⟨payload.data.take (keyLen bits), fixed, 0⟩)), nofun, nofun⟩
  | n + 3 => exact ⟨congrArg Option.isNone (sget_sput_self none s.cipher.hash slot
      (some (BitVec.ofNat 128 (leNat (payload.data.take (keyLen bits)))))), nofun, nofun⟩

/-- A job of an engine ends: the keys stay. -/
theorem cipher_endJob (j : JobSt) (st : Status) (res : DWord) (s : Chip) : (endJob j st res s).cipher = s.cipher := by
  unfold endJob
  split
  · rfl
  · exact finishOrder_cipher ..

theorem look_dropJobs (slot : Nat) (s : Chip) : (dropJobs slot s).cipher.look = s.cipher.look :=
  foldl_keeps (φ := fun s => s.cipher.look) (f := fun s j => endJob j .keyAbsent 0 s) (fun s j => by rw [cipher_endJob]) _ _

/-- KEY_ERASE of a slot other than a SPILL slot empties it (R357). -/
theorem keyErase_empties {o : KeyEraseOps} {s : Chip} (hr : slotRange o.cls o.slot = false) (he : slotEmpty s o.cls o.slot = false)
    (h1 : o.cls ≠ 1) : ∃ t, keyErase o s = (.ok, 0, t) ∧ slotEmpty t o.cls o.slot = true := by
  unfold keyErase
  rw [hr, he]
  obtain ⟨cls, slot⟩ := o
  dsimp only at h1 ⊢
  match cls with
  | 0 => exact ⟨_, rfl, congrArg Option.isNone (sget_sput_self none s.cipher.link slot none)⟩
  | 1 => exact absurd rfl h1
  | 2 =>
    refine ⟨_, rfl, ?_⟩
    rw [slotEmpty, look_dropJobs]
    exact congrArg Option.isNone (sget_sput_self none s.cipher.look slot none)
  | n + 3 => exact ⟨_, rfl, congrArg Option.isNone (sget_sput_self none s.cipher.hash slot none)⟩

/-! SecYs and SAs (R364, R367) -/

theorem secyOf_modSecy (p k : Nat) (f : SecySt → SecySt) (s : Chip) :
    secyOf (modSecy p f s) k = if k = p then f (secyOf s p) else secyOf s k := sget_smod ..

theorem saOf_setSa (p : Nat) (rx : Bool) (an : Nat) (a : Option SaSt) (s : Chip) : saOf (setSa p rx an a s) p rx an = a := by
  rw [saOf, setSa, secyOf_modSecy, if_pos rfl]
  cases rx <;> exact (sget_sput ..).trans (if_pos rfl)

theorem saDone_unfenced {p : Nat} {s : Chip} (hf : isFenced s (.platform (platformOf p)) = false) (res : DWord) (f : Chip → Chip) :
    saDone p res f s = (.ok, res, f s) := by
  unfold saDone
  dsimp only
  rw [hf]
  rfl

section
variable {p : Nat} {s : Chip} (hport : saPort p s = none) (hf : isFenced s (.platform (platformOf p)) = false)
include hport hf

theorem saSecy_of_checked {o : SaRecordOps} (ho : o.port = p) (hlen : o.payload.len = 64) (hbad : secyBad o.payload.data = false)
    (htx : (secyOf s p).tx = []) (hrx : (secyOf s p).rx = []) : ∃ t, saSecy o s = (.ok, 0, t) ∧
      (secyOf t p).enable = decide (byteAt o.payload.data 0 = 1) ∧ (secyOf t p).suite = byteAt o.payload.data 1 ∧
      ∀ k, k ≠ p → secyOf t k = secyOf s k := by
  subst ho
  unfold saSecy
  dsimp only
  rw [hport]
  dsimp only
  rw [if_neg (by simp [hlen, hbad]), if_neg (by simp [htx, hrx]), saDone_unfenced hf]
  exact ⟨_, rfl, by rw [secyOf_modSecy, if_pos rfl], by rw [secyOf_modSecy, if_pos rfl], fun k hk => by rw [secyOf_modSecy, if_neg hk]⟩

theorem saInstall_of_checked {o : SaRecordOps} {key : List Byte} (ho : o.port = p) (han : o.an ≤ 3) (hlen : o.payload.len = 64)
    (hbad : saBad (secyOf s p) o.rx o.payload.data = false) (hkey : linkKey s (leAt o.payload.data 0 2) = some key)
    (hsuite : key.length = if (secyOf s p).suite % 2 = 0 then 16 else 32) (hslot : leAt o.payload.data 0 2 / 1024 = p / 64)
    (hnone : saOf s p o.rx o.an = none) : saInstall o s = (.ok, 0, setSa p o.rx o.an (some
      { slot := leAt o.payload.data 0 2, nextAn := byteAt o.payload.data 2, pn := leAt o.payload.data 8 8
        salt := leNat (slice o.payload.data 0x10 12) }) s) := by
  subst ho
  unfold saInstall
  dsimp only
  rw [hport, hkey]
  dsimp only
  rw [if_neg (by simp [hlen, hbad, hsuite]; omega), if_neg (by simp [hslot]), hnone, if_neg (by decide), if_neg (by simp),
    saDone_unfenced hf]

theorem saEnable_of_checked {o : SaOps} {a : SaSt} (ho : o.port = p) (han : o.an ≤ 3) (hrx : o.rx = false)
    (ha : saOf s p false o.an = some a) (hkey : a.keyless = false) (hpn : a.exhausted = false) :
    saEnable o s = (.ok, 0, modSecy p (fun y => { y with encoding := some o.an }) s) := by
  subst ho
  unfold saEnable
  rw [hport]
  dsimp only
  rw [if_neg (by simp [hrx]; omega), ha]
  dsimp only
  rw [if_neg (by simp [hkey]), if_neg (by simp [hpn]), saDone_unfenced hf]

theorem saRetire_of_checked {o : SaOps} (ho : o.port = p) (han : o.an ≤ 3) (hsome : (saOf s p o.rx o.an).isSome = true)
    (hfree : o.rx = true ∨ (secyOf s p).encoding ≠ some o.an) : saRetire o s = (.ok, 0, setSa p o.rx o.an none s) := by
  subst ho
  unfold saRetire
  rw [hport]
  dsimp only
  rw [if_neg (by omega), if_neg (by simpa using Option.isSome_iff_ne_none.1 hsome), if_neg, saDone_unfenced hf]
  obtain h | h := hfree <;> simp [h]

theorem saRead_of_checked {o : SaRecordOps} {a : SaSt} (ho : o.port = p) (han : o.an ≤ 3) (hlen : o.payload.len = 64)
    (ha : saOf s p o.rx o.an = some a) : saRead o s = (.ok, BitVec.ofNat 64 (saState (secyOf s p) o.rx o.an a),
      hostWrite o.payload.addr (saRecord (saState (secyOf s p) o.rx o.an a) a) s) := by
  subst ho
  unfold saRead
  rw [hport]
  dsimp only
  rw [if_neg (by simp [hlen]; omega), ha]
  dsimp only
  rw [saDone_unfenced hf]
  rfl

end

/-- Settles O43, Order by Order. -/
theorem keysAndAssociations : Obligations.KeysAndAssociations := by
  unfold Obligations.KeysAndAssociations
  intro s ring
  refine ⟨fun o h hn => ⟨fun e he => ?_, fun hck => ?_⟩, fun o h hn hr => ⟨fun he => ?_, fun he h1 => ?_⟩, fun p hport hn hf =>
    ⟨fun o ho h hlen hbad htx hrx => ?_, fun o key ho h han hlen hbad hkey hsuite hslot hnone => ?_,
    fun o a ho h han hrx ha hkey hpn => ?_, fun o ho h han hsome hfree => ?_, fun o a ho h han hlen ha => ?_⟩⟩
  · exact ends_of_effect rfl h hn (eff := keyWrite o) (by rw [keyWrite, he])
  · obtain ⟨t, ht, hholds⟩ := keyWrite_of_checked hck
    exact ⟨t, ends_of_effect rfl h hn ht, hholds⟩
  · exact ends_of_effect rfl h hn (eff := keyErase o) (by rw [keyErase, hr, he]; rfl)
  · obtain ⟨t, ht, hempty⟩ := keyErase_empties hr he h1
    exact ⟨t, ends_of_effect rfl h hn ht, hempty⟩
  · obtain ⟨t, ht, htakes⟩ := saSecy_of_checked hport hf ho hlen hbad htx hrx
    exact ⟨t, ends_of_effect rfl h (ho ▸ hn) ht, htakes⟩
  · exact ⟨_, _, ends_of_effect rfl h (ho ▸ hn) (saInstall_of_checked hport hf ho han hlen hbad hkey hsuite hslot hnone), saOf_setSa ..,
      rfl, rfl, rfl, rfl⟩
  · exact ⟨_, ends_of_effect rfl h (ho ▸ hn) (saEnable_of_checked hport hf ho han hrx ha hkey hpn), by rw [secyOf_modSecy, if_pos rfl]⟩
  · exact ⟨_, ends_of_effect rfl h (ho ▸ hn) (saRetire_of_checked hport hf ho han hsome hfree), saOf_setSa ..⟩
  · exact ends_of_effect rfl h (ho ▸ hn) (saRead_of_checked hport hf ho han hlen ha)

end Sys2Proof.Machine
end

section
/-!
PROOFS. Lookaside jobs (R372 to R377).
-/

namespace Sys2Proof.Machine

theorem engineOf_congr {s t : Chip} (h : t.cipher = s.cipher) : engineOf t = engineOf s := by unfold engineOf; rw [h]

/-- A well-formed CIPHER_JOB joins the queue of the engine whose turn it is (R372). -/
theorem cipherJob_queues {ring e : Nat} {o : CipherJobOps} {s : Chip} (hlen : o.payload.len = 64) (hbad : descBad o.payload.data = false)
    (hover : descOverlap (jobDesc o.payload.data) = false) (hslot : (jobDesc o.payload.data).slot ≤ 255)
    (hreg : descRegions s ring (jobDesc o.payload.data) = true) (hf : isFenced s .ci = false) (he : engineFor s = some e) :
    cipherJob ring o s = .going (queueJob e { ring := some ring, desc := o.payload.data.take 64 } s) := by
  unfold cipherJob
  dsimp only
  rw [if_neg (by simp [hlen, hbad, hover]), if_neg (by simp [hreg]; omega), hf, if_neg (by decide), he]

theorem becomes_cipherJob {s : State} {ring e : Nat} {o : CipherJobOps} (h : AtWork s ring (.cipherJob ring o)) (he : engineFor s.chip = some e)
    {t : Chip} (hgoes : cipherJob ring o s.chip = .going t) : Becomes (.cipherJob ring o) s
      (modRing ring (fun v => { v with running := v.running.map fun o => { o with begun := true } }) t) := by
  refine becomes_of_onUnit (f := fun s => if enginesFull s then s else runOrder ring (.cipherJob ring o) noNeeds (cipherJob ring o) s) rfl
    (decide_eq_true h.1) ?_
  rw [enginesFull, he, if_neg (by simp), runOrder_atWork h noNeeds (cipherJob ring o) rfl, hgoes]

theorem running_begun {s : Chip} {ring : Nat} {run : Running} (h : (ringOf s ring).running = some run) :
    (ringOf (modRing ring (fun v => { v with running := v.running.map fun o => { o with begun := true } }) s) ring).running =
      some { run with begun := true } := by
  rw [ringOf_modRing, if_pos rfl, h]
  rfl

theorem jobs_takeJob (e : Nat) (j : JobSt) (s : Chip) : (engineOf (takeJob e j s) e).jobs = (engineOf s e).jobs.erase j := by
  rw [engineOf, takeJob, modCipher]
  dsimp only
  rw [sget_smod, if_pos rfl]
  rfl

/-- The device once a job's slot is as its run leaves it and the job's outputs are written (R375, R376). -/
def jobWritten (d : JobDesc) (out : JobOut) (l : LookSlot) (s : Chip) : Chip :=
  let s := hostWrite d.dst out.data (modCipher (fun c => { c with look := sput none c.look d.slot (some l) }) s)
  if out.tag = [] then s else hostWrite d.tagAddr out.tag s

theorem engineOf_jobWritten (d : JobDesc) (out : JobOut) (l : LookSlot) (s : Chip) : engineOf (jobWritten d out l s) = engineOf s := by
  unfold jobWritten
  dsimp only
  split <;> rfl

theorem hostByte_jobWritten {d : JobDesc} {out : JobOut} (h : out.tag = []) (l : LookSlot) (s : Chip) (a : Nat) :
    hostByte (jobWritten d out l s) a = if d.dst ≤ a ∧ a < d.dst + out.data.length then out.data[a - d.dst]? else hostByte s a := by
  unfold jobWritten
  dsimp only
  rw [if_pos h, hostByte_hostWrite]
  rfl

section
variable {s : State} {e ring : Nat} {j : JobSt} {env : JobEnv} (he : e < 4) (hup : dead s.chip = false) (hf : isFenced s.chip .ci = false)
  (hj : nextJob (engineOf s.chip e) = some j) (hring : j.ring = some ring) (hpar : env.parity = none)
include he hup hf hj hring hpar

theorem lookasideJobRun_fails {st : Status} (hrun : runJob (jobDesc j.desc) env (sget none s.chip.cipher.look (jobDesc j.desc).slot) = .inl st) :
    Ends (.lookasideJobRun e env) s ring st 0 (takeJob e j s.chip) := by
  refine becomes_of_onUnit (f := runEngine e env) rfl (decide_eq_true he) ?_
  have hlook : (takeJob e j s.chip).cipher.look = s.chip.cipher.look := rfl
  unfold runEngine
  rw [hj]
  dsimp only
  rw [if_neg (by simp [hup, hf]), hlook, hrun]
  dsimp only
  rw [if_pos (by simp [hpar]), endJob, hring]

theorem lookasideJobRun_writes {out : JobOut} {l : LookSlot}
    (hrun : runJob (jobDesc j.desc) env (sget none s.chip.cipher.look (jobDesc j.desc).slot) = .inr (out, l)) :
    ∃ res, Ends (.lookasideJobRun e env) s ring .ok res (jobWritten (jobDesc j.desc) out l (takeJob e j s.chip)) := by
  refine ⟨BitVec.ofNat 64 (if (jobDesc j.desc).mode = 4 && !(jobDesc j.desc).decrypt then l.counter - 1 else 0),
    becomes_of_onUnit (f := runEngine e env) rfl (decide_eq_true he) ?_⟩
  have hlook : (takeJob e j s.chip).cipher.look = s.chip.cipher.look := rfl
  unfold runEngine
  rw [hj]
  dsimp only
  rw [if_neg (by simp [hup, hf]), hlook, hrun]
  dsimp only
  rw [hpar, if_neg (by decide), if_neg (by decide), endJob, hring]
  rfl

end

/-- Settles O44: the queueing, then the two ends of a run. -/
theorem cipherJobs : Obligations.CipherJobs := by
  unfold Obligations.CipherJobs
  refine ⟨fun s ring e o h hlen hbad hover hslot hreg hf he => ?_, fun s e ring j env he hup hf hj hring hpar => ?_⟩
  · obtain ⟨run, hrun, -, hout, -⟩ := h.2.2.2
    refine ⟨_, { run with begun := true }, becomes_cipherJob h he (cipherJob_queues hlen hbad hover hslot hreg hf he), ?_, fun k hk => ?_,
      running_begun hrun, hout⟩
    · rw [engineOf_congr (modRing_cipher ..), engineOf_queueJob, if_pos rfl]
    · rw [engineOf_congr (modRing_cipher ..), engineOf_queueJob, if_neg hk]
  · dsimp only
    cases hrun : runJob (jobDesc j.desc) env (sget none s.chip.cipher.look (jobDesc j.desc).slot) with
    | inl st => exact ⟨_, lookasideJobRun_fails he hup hf hj hring hpar hrun, rfl, jobs_takeJob ..⟩
    | inr r =>
      obtain ⟨out, l⟩ := r
      obtain ⟨res, hends⟩ := lookasideJobRun_writes he hup hf hj hring hpar hrun
      exact ⟨res, _, hends, by rw [engineOf_jobWritten, jobs_takeJob], fun htag a => hostByte_jobWritten htag ..⟩

end Sys2Proof.Machine
end

section
/-!
PROOFS. The time Orders (R384 to R389, R405).
-/

namespace Sys2Proof.Machine

/-! A fault without a reaction -/

theorem msix_time (v : Nat) (s : Chip) : (msix v s).time = s.time := by
  rw [msix, apply_ite Chip.time]
  exact ite_self _

theorem faultRecorded_time (cabin : Bool) (i : Isl) (loc cls own : Nat) (s : Chip) : (faultRecorded cabin i loc cls own s).time = s.time := by
  rw [faultRecorded, apply_ite Chip.time, msix_time, ite_self, bumpField, setField']
  cases cabin <;> rfl

/-- A fault at S0 or S1 meets no reaction, even escalated: in reset at most its Cabin records it. -/
theorem raise_of_minor {sev : Nat} (hsev : sev < 2) (i : Isl) (loc cls : Nat) (s : Chip) :
    raise i loc cls sev s = if inReset s || s.boot.pending then
      (if i = .tt then modCab .tt (fun c => c.record 0xFF loc cls sev sev (nowTs s)) s else s)
    else errUpdate (faultRecorded true i loc cls sev s) := by
  have hesc : escalated s cls sev < 3 := by have := escalated_le s cls sev; omega
  cases hin : inReset s || s.boot.pending with
  | true => rw [raise, raiseIn, hin, if_pos rfl, if_pos rfl]
  | false =>
    rw [raise, raiseIn_of_recording hin, if_neg (by omega), if_neg (by omega)]
    rfl

theorem raise_minor_time {sev : Nat} (hsev : sev < 2) (i : Isl) (loc cls : Nat) (s : Chip) : (raise i loc cls sev s).time = s.time := by
  rw [raise_of_minor hsev]
  split
  · split <;> rfl
  · exact faultRecorded_time ..

theorem countClamp_time (n : Nat) (s : Chip) : (countClamp n s).time = s.time :=
  (raise_minor_time (by decide) ..).trans rfl

/-! The clock (R380) -/

/-- The clock in units of 2^-32 ns. -/
def clockUnits (t : TimeSt) : Nat := (t.sec * 1000000000 + t.ns) * 2 ^ 32 + t.frac

theorem clockUnits_split (n : Nat) :
    (n / (1000000000 * 2 ^ 32) * 1000000000 + n / 2 ^ 32 % 1000000000) * 2 ^ 32 + n % 2 ^ 32 = n := by omega

/-- The seconds of 48 bits, in units of 2^-32 ns. -/
def clockWrap : Int := 2 ^ 48 * 1000000000 * 2 ^ 32

theorem clockUnits_moveClock (d : Int) (t : TimeSt) : (clockUnits (moveClock d t) : Int) = (clockUnits t + d) % clockWrap := by
  have hunits : clockUnits (moveClock d t) =
      (((t.sec : Int) * 1000000000 * 2 ^ 32 + (t.ns : Int) * 2 ^ 32 + t.frac + d) % clockWrap).toNat := clockUnits_split _
  have hsum : (t.sec : Int) * 1000000000 * 2 ^ 32 + (t.ns : Int) * 2 ^ 32 + t.frac + d = (clockUnits t : Int) + d := by
    rw [clockUnits]; push_cast; ring
  rw [hunits, hsum, Int.toNat_of_nonneg (Int.emod_nonneg _ (by rw [clockWrap]; omega))]

theorem moveClock_lt (d : Int) (t : TimeSt) : (moveClock d t).ns < 1000000000 ∧ (moveClock d t).frac < 2 ^ 32 :=
  ⟨Nat.mod_lt _ (by decide), Nat.mod_lt _ (by decide)⟩

/-- Whole ns leave the fraction alone (R385). -/
theorem moveClock_whole {n : Int} {t : TimeSt} (hfrac : t.frac < 2 ^ 32) (h0 : 0 ≤ (t.sec : Int) * 1000000000 + t.ns + n)
    (hlt : (t.sec : Int) * 1000000000 + t.ns + n < 2 ^ 48 * 1000000000) :
    ((moveClock (n * 2 ^ 32) t).sec : Int) * 1000000000 + (moveClock (n * 2 ^ 32) t).ns = (t.sec : Int) * 1000000000 + t.ns + n ∧
      (moveClock (n * 2 ^ 32) t).frac = t.frac := by
  have hunits := clockUnits_moveClock (n * 2 ^ 32) t
  obtain ⟨-, hlt'⟩ := moveClock_lt (n * 2 ^ 32) t
  generalize moveClock (n * 2 ^ 32) t = u at hunits hlt' ⊢
  simp only [clockUnits, clockWrap] at hunits
  rw [Int.emod_eq_of_lt (by omega) (by omega)] at hunits
  omega

/-! The Orders -/

theorem leaveHoldover_eq (leave : Bool) (s : Chip) : leaveHoldover leave s =
    { s with time := { s.time with holdover := s.time.holdover && !(leave && !s.time.refLost) } } := by
  unfold leaveHoldover
  split
  · next h => rw [h, modTime]; simp
  · next h => rw [Bool.eq_false_of_not_eq_true h, Bool.not_false, Bool.and_true]

theorem governedIf_eq (b : Bool) {p : Prop} [Decidable p] (h : b = false ↔ p) : governedIf b = if p then .ok else .governed := by
  unfold governedIf
  cases b <;> simp_all

/-- What an Order of the Timetable leaves, by the clamp it counts. -/
def clampedBy (cut : Bool) (s : Chip) : Chip := if cut then countClamp (executor s 2) s else s

theorem clampedBy_time (cut : Bool) (s : Chip) : (clampedBy cut s).time = s.time := by
  rw [clampedBy, apply_ite Chip.time, countClamp_time, ite_self]

/-- The Timetable after TIME_FREQ (R386). -/
def freqTime (inc : Nat) (leave : Bool) (t : TimeSt) : TimeSt :=
  { t with incr := inc, slew := t.slew.map (fun w => { w with d := cutSlew inc w.d }), wdogStart := t.run
           holdover := t.holdover && !(leave && !t.refLost) }

theorem timeFreq_status (ops : TimeFreqOps) (s : Chip) :
    (timeFreq ops s).1 = governedIf (decide (limit incrMin incrMax ops.increment ≠ ops.increment) || leaveRefused ops.leave s) := rfl

theorem timeFreq_chip (ops : TimeFreqOps) (s : Chip) : (timeFreq ops s).2.2 =
    { clampedBy (decide (limit incrMin incrMax ops.increment ≠ ops.increment)) s with
      time := freqTime (limit incrMin incrMax ops.increment) ops.leave s.time } := by
  have hclamp : (if limit incrMin incrMax ops.increment ≠ ops.increment then countClamp (executor s 2) s else s) =
      clampedBy (decide (limit incrMin incrMax ops.increment ≠ ops.increment)) s := by simp [clampedBy]
  rw [timeFreq]
  dsimp only
  rw [leaveHoldover_eq, hclamp, restartWdog, modTime, modTime]
  dsimp only
  rw [clampedBy_time]
  rfl

theorem timeFreq_eq (ops : TimeFreqOps) (s : Chip) : ∃ res, timeFreq ops s =
    (governedIf (decide (limit incrMin incrMax ops.increment ≠ ops.increment) || leaveRefused ops.leave s), res,
      { clampedBy (decide (limit incrMin incrMax ops.increment ≠ ops.increment)) s with
        time := freqTime (limit incrMin incrMax ops.increment) ops.leave s.time }) :=
  ⟨(timeFreq ops s).2.1, Prod.ext (timeFreq_status ..) (Prod.ext rfl (timeFreq_chip ..))⟩

/-- The Timetable after TIME_SLEW (R387). -/
def slewTime (w : Option Slew) (leave : Bool) (t : TimeSt) : TimeSt :=
  { t with slew := w, wdogStart := t.run, holdover := t.holdover && !(leave && !t.refLost) }

theorem timeSlew_of_range {ops : TimeSlewOps} {s : Chip} (h : 65536000000000 < ops.offset.natAbs ∨ ops.rate = 0 ∨ 1000 < ops.rate) :
    timeSlew ops s = (.range, 0, s) := by
  unfold timeSlew
  dsimp only
  rw [if_pos]
  obtain h | h | h := h <;> simp [h]

/-- The slew that TIME_SLEW starts. -/
def newSlew (ops : TimeSlewOps) (base : Nat) : Option Slew :=
  if ops.offset = 0 then none else some ⟨ops.offset * 65536, cutSlew base (slewOf ops.rate (decide (0 < ops.offset)))⟩

/-- Its D is cut. -/
def slewCut (ops : TimeSlewOps) (base : Nat) : Bool :=
  decide (ops.offset ≠ 0) &&
    decide (cutSlew base (slewOf ops.rate (decide (0 < ops.offset))) ≠ slewOf ops.rate (decide (0 < ops.offset)))

theorem timeSlew_of_checked {ops : TimeSlewOps} {s : Chip} (hoff : ops.offset.natAbs ≤ 65536000000000) (hlo : 1 ≤ ops.rate)
    (hhi : ops.rate ≤ 1000) (hup : 0 < ops.offset → 0 < cutSlew s.time.incr (slewOf ops.rate (decide (0 < ops.offset))))
    (hdown : ops.offset < 0 → cutSlew s.time.incr (slewOf ops.rate (decide (0 < ops.offset))) < 0) :
    ∃ res, timeSlew ops s = (governedIf (slewCut ops s.time.incr || leaveRefused ops.leave s), res,
      { clampedBy (slewCut ops s.time.incr) s with time := slewTime (newSlew ops s.time.incr) ops.leave s.time }) := by
  have hdir : (decide (ops.offset ≠ 0) && if 0 < ops.offset then
      decide (cutSlew s.time.incr (slewOf ops.rate (decide (0 < ops.offset))) ≤ 0)
      else decide (0 ≤ cutSlew s.time.incr (slewOf ops.rate (decide (0 < ops.offset))))) = false := by
    by_cases h0 : 0 < ops.offset
    · simp only [if_pos h0]; simp [hup h0]
    · simp only [if_neg h0]
      by_cases h : ops.offset = 0
      · simp [h]
      · simp [hdown (by omega)]
  have hchip : leaveHoldover ops.leave
      (restartWdog (modTime (fun t => { t with slew := newSlew ops s.time.incr }) (clampedBy (slewCut ops s.time.incr) s))) =
      { clampedBy (slewCut ops s.time.incr) s with time := slewTime (newSlew ops s.time.incr) ops.leave s.time } := by
    rw [leaveHoldover_eq, restartWdog, modTime, modTime]
    dsimp only
    rw [clampedBy_time]
    rfl
  unfold timeSlew
  dsimp only
  rw [hdir, if_neg (by simp; omega)]
  exact ⟨_, Prod.ext rfl (Prod.ext rfl hchip)⟩

theorem timeStepAbs_of_range {ops : TimeStepAbsOps} {s : Chip} (h : 999999999 < ops.ns) : timeStepAbs ops s = (.range, 0, s) := if_pos h

theorem timeStepRel_of_checked {ops : TimeStepRelOps} {s : Chip} (h0 : 0 ≤ (s.time.sec : Int) * 1000000000 + s.time.ns + ops.offset)
    (hlt : (s.time.sec : Int) * 1000000000 + s.time.ns + ops.offset < 2 ^ 48 * 1000000000) :
    timeStepRel ops s = stepClock (moveClock (ops.offset * 2 ^ 32)) ops.leave s := by
  unfold timeStepRel
  dsimp only
  rw [if_neg]
  simp only [Bool.or_eq_true, decide_eq_true_eq, not_or, not_lt, not_le]
  exact ⟨h0, hlt⟩

/-- The Timetable after a step of the clock (R385). -/
def steppedTime (f : TimeSt → TimeSt) (leave : Bool) (t : TimeSt) : TimeSt :=
  { f t with slew := none, stepCount := (t.stepCount + 1) % 16
             holdover := (f t).holdover && !(leave && !(f t).refLost) }

theorem stepClock_eq (f : TimeSt → TimeSt) (leave : Bool) (s : Chip) : stepClock f leave s =
    (governedIf (leaveRefused leave s), BitVec.ofNat 64 (nowTs s), { s with time := steppedTime f leave s.time }) := by
  rw [stepClock, leaveHoldover_eq, modTime]
  rfl

theorem governedIf_cases (b : Bool) : governedIf b = .ok ∨ governedIf b = .governed := by
  cases b
  · exact .inl rfl
  · exact .inr rfl

/-- Settles O45, Order by Order. -/
theorem timeOrders : Obligations.TimeOrders := by
  unfold Obligations.TimeOrders
  intro s ring
  refine ⟨fun ops h => ?_, fun ops h hrange => ?_, fun ops h hoff hlo hhi => ?_, fun ops h => ⟨fun hns => ?_, fun hns => ?_⟩,
    fun ops h hfrac => ?_, fun h => ?_, fun p h hlen => ?_⟩
  · obtain ⟨res, he⟩ := timeFreq_eq ops s.chip
    have hends := ends_of_effect rfl h rfl (eff := timeFreq ops) he
    have hleave : (decide (limit incrMin incrMax ops.increment ≠ ops.increment) || leaveRefused ops.leave s.chip) = false ↔
        limit incrMin incrMax ops.increment = ops.increment ∧ (ops.leave = false ∨ s.chip.time.refLost = false) := by
      rw [Bool.or_eq_false_iff, decide_eq_false_iff_not, not_not, leaveRefused, Bool.and_eq_false_iff]
    rw [governedIf_eq _ hleave] at hends
    have hclamp : clampedBy (decide (limit incrMin incrMax ops.increment ≠ ops.increment)) s.chip =
        if limit incrMin incrMax ops.increment = ops.increment then s.chip else countClamp (executor s.chip 2) s.chip := by
      rw [clampedBy]
      split <;> simp_all
    rw [hclamp] at hends
    exact ⟨res, _, hends, rfl, rfl, rfl, rfl, rfl, rfl, rfl⟩
  · exact ends_of_effect rfl h rfl (eff := timeSlew ops) (timeSlew_of_range hrange)
  · intro want d u hup hdown
    obtain ⟨res, he⟩ := timeSlew_of_checked hoff hlo hhi hup hdown
    have hends := ends_of_effect rfl h rfl (eff := timeSlew ops) he
    have hcut : slewCut ops s.chip.time.incr = false ↔ ops.offset = 0 ∨ d = want := by
      rw [slewCut, Bool.and_eq_false_iff, decide_eq_false_iff_not, decide_eq_false_iff_not, not_not, not_not]
    have hleave : (slewCut ops s.chip.time.incr || leaveRefused ops.leave s.chip) = false ↔
        (ops.offset = 0 ∨ d = want) ∧ (ops.leave = false ∨ s.chip.time.refLost = false) := by
      rw [Bool.or_eq_false_iff, hcut, leaveRefused, Bool.and_eq_false_iff]
    rw [governedIf_eq _ hleave] at hends
    have hclamp : clampedBy (slewCut ops s.chip.time.incr) s.chip = u := by
      cases hc : slewCut ops s.chip.time.incr with
      | false => exact (if_pos (hcut.1 hc)).symm
      | true => exact (if_neg fun hn => Bool.false_ne_true ((hcut.2 hn).symm.trans hc)).symm
    rw [hclamp] at hends
    exact ⟨res, _, hends, rfl, rfl, rfl, rfl, rfl, rfl⟩
  · exact ends_of_effect rfl h rfl (eff := timeStepAbs ops) (timeStepAbs_of_range hns)
  · have he : timeStepAbs ops s.chip = stepClock (fun t => { t with sec := ops.seconds % 2 ^ 48, ns := ops.ns, frac := 0 }) ops.leave s.chip :=
      if_neg (by omega)
    exact ⟨_, _, ends_of_effect rfl h rfl (eff := timeStepAbs ops) (he.trans (stepClock_eq ..)), governedIf_cases _, rfl, rfl, rfl, rfl, rfl,
      rfl⟩
  · intro new h0 hlt
    have he := (timeStepRel_of_checked h0 hlt).trans (stepClock_eq (moveClock (ops.offset * 2 ^ 32)) ops.leave s.chip)
    obtain ⟨hnew, hsame⟩ := moveClock_whole hfrac h0 hlt
    exact ⟨_, _, ends_of_effect rfl h rfl (eff := timeStepRel ops) he, governedIf_cases _, hnew, (moveClock_lt ..).1, hsame, rfl, rfl, rfl⟩
  · exact ends_of_effect rfl h rfl (eff := timeRead none) rfl
  · exact ends_of_effect rfl h rfl (eff := timeRead (some p)) (if_neg (by simp [hlen]))

end Sys2Proof.Machine
end

section
/-!
PROOFS. A tick of the block (R380 to R384, R403): what follows the clock's own tick leaves of the clock, its events and what was sent.
-/

namespace Sys2Proof.Machine

/-! Counters and channels -/

/-- Counters and channels have taken in a tick: live words, counters, free values and the packet path may differ. -/
def Ticked (s t : Chip) : Prop := ∃ l p n k, t = { s with live := l, pmc := p, free := n, pkt := k }

namespace Ticked
variable {s t u : Chip}

theorem refl (s : Chip) : Ticked s s := ⟨_, _, _, _, rfl⟩

theorem trans (h : Ticked s t) (h' : Ticked t u) : Ticked s u := by
  obtain ⟨_, _, _, _, rfl⟩ := h
  obtain ⟨_, _, _, _, rfl⟩ := h'
  exact ⟨_, _, _, _, rfl⟩

theorem ite {c : Prop} [Decidable c] (h : Ticked s t) (h' : Ticked s u) : Ticked s (if c then t else u) := by
  split
  · exact h
  · exact h'

theorem foldl {α : Type} {f : Chip → α → Chip} (h : ∀ s a, Ticked s (f s a)) (l : List α) (s : Chip) : Ticked s (l.foldl f s) := by
  induction l generalizing s with
  | nil => exact refl s
  | cons a l ih => exact (h s a).trans (ih _)

theorem time (h : Ticked s t) : t.time = s.time := by obtain ⟨_, _, _, _, rfl⟩ := h; rfl
theorem tm (h : Ticked s t) : t.tm = s.tm := by obtain ⟨_, _, _, _, rfl⟩ := h; rfl
theorem out (h : Ticked s t) : t.out = s.out := by obtain ⟨_, _, _, _, rfl⟩ := h; rfl

end Ticked

theorem setLive_ticked (ca : Nat) (v : Word) (s : Chip) : Ticked s (setLive ca v s) := ⟨_, _, _, _, rfl⟩

theorem pmcAdd_ticked (i : Isl) (k n : Nat) (s : Chip) : Ticked s (pmcAdd i k n s) := by
  unfold pmcAdd
  exact (setLive_ticked ..).trans (setLive_ticked ..)

theorem pmcMark_ticked (i : Isl) (k n : Nat) (s : Chip) : Ticked s (pmcMark i k n s) := ⟨_, _, _, _, rfl⟩

theorem freeTake_ticked (s : Chip) : Ticked s (freeTake s) := ⟨_, _, _, _, rfl⟩

theorem levelTick_ticked (i : Isl) (k d : Nat) (s : Chip) : Ticked s (levelTick i k d s) := by
  unfold levelTick
  dsimp only
  split
  · exact .refl s
  · exact ((pmcAdd_ticked ..).ite ((pmcAdd_ticked ..).ite (.refl s))).trans (pmcMark_ticked ..)
  · exact (freeTake_ticked s).trans (pmcAdd_ticked ..)

theorem pmcTick_ticked (s : Chip) : Ticked s (pmcTick s) := by
  have hclocks : Ticked s (tickClocks s) := ⟨_, _, _, _, rfl⟩
  refine hclocks.trans (.foldl (fun t x => ?_) _ _)
  split
  · exact .refl t
  · exact (levelTick_ticked ..).ite (.refl t)

theorem pmcCount_ticked (i : Isl) (event sub : Nat) (s : Chip) : Ticked s (pmcCount i event sub s) := by
  obtain ⟨_, _, _, h⟩ := pmcCount_changes i event sub s
  exact ⟨_, _, _, _, h⟩

theorem access_ticked (c : Nat) (t : DramTx) (s : Chip) : Ticked s (access c t s) := by
  have h : ∀ (f : QuarrySt → QuarrySt) (g : ChanSt → ChanSt) (u : Chip), Ticked u (modChan c g (modQuarry (c / 4) f u)) :=
    fun _ _ _ => ⟨_, _, _, _, rfl⟩
  exact ((pmcCount_ticked ..).trans ((pmcCount_ticked ..).ite (.refl _))).trans (h ..)

theorem tickChannels_ticked (s : Chip) : Ticked s (tickChannels s) := by
  refine (Ticked.refl s).ite (.foldl (fun t x => (Ticked.refl t).ite ?_) _ _)
  split
  · exact .refl t
  · exact access_ticked ..

theorem captureIslands_ticked (s : Chip) : Ticked s (captureIslands s).2 := by
  unfold captureIslands
  refine List.foldlRecOn (motive := fun r : Sparse (Option IslandDump) × Chip => Ticked s r.2) _ _ (.refl s) fun r h k _ => ?_
  split
  · exact h
  · split
    · exact h.trans (freeTake_ticked _)
    · exact h

/-- The islands that a dump captures, and what it leaves. -/
def captured (s : Chip) : Sparse (Option IslandDump) × Chip := if bit s.tm.sections 0 then captureIslands s else ([], s)

theorem captured_ticked (s : Chip) : Ticked s (captured s).2 := by
  unfold captured
  split
  · exact captureIslands_ticked s
  · exact .refl s

theorem capture_eq (s : Chip) : capture s = { (captured s).2 with tm := (capture s).tm } := rfl

/-- A dump tick changes the telemetry beside what counters do. -/
theorem dumpTick_ticked (s : Chip) : ∃ m, Ticked { s with tm := m } (dumpTick s) := by
  unfold dumpTick
  split
  · exact ⟨s.tm, .refl s⟩
  · split
    · exact ⟨_, .refl _⟩
    · rw [capture_eq]
      generalize (capture s).tm = m
      obtain ⟨l, p, n, k, h⟩ := captured_ticked s
      rw [h]
      exact ⟨m, l, p, n, k, rfl⟩

/-- The block's tick is the clock's, then a dump's where one is due, then that of the counters and the channels. -/
theorem blockTick_ticked (s : Chip) : Ticked (if dumpPasses s then dumpTick (clockTick s) else clockTick s) (blockTick s) :=
  (pmcTick_ticked _).trans (tickChannels_ticked _)

theorem blockTick_time (s : Chip) : (blockTick s).time = (clockTick s).time := by
  rw [(blockTick_ticked s).time]
  split
  · obtain ⟨m, h⟩ := dumpTick_ticked (clockTick s)
    exact h.time
  · rfl

theorem blockTick_out (s : Chip) : (blockTick s).out = (clockTick s).out := by
  rw [(blockTick_ticked s).out]
  split
  · obtain ⟨m, h⟩ := dumpTick_ticked (clockTick s)
    exact h.out
  · rfl

/-! The clock's own tick -/

/-- The Timetable without its events, its holdover and its pulses. -/
def clockPart (t : TimeSt) : TimeSt := { t with holdover := false, events := 0, ppsHigh := [], ppsLeft := [] }

/-- The clock stays; events and holdover may begin, outputs may be sent. -/
structure ClockKept (s t : Chip) : Prop where
  clock : clockPart t.time = clockPart s.time
  holdover : s.time.holdover = true → t.time.holdover = true
  events : ∀ j, bit s.time.events j = true → bit t.time.events j = true
  out : ∀ x ∈ s.out, x ∈ t.out

namespace ClockKept
variable {s t u : Chip}

theorem refl (s : Chip) : ClockKept s s := ⟨rfl, id, fun _ => id, fun _ => id⟩

theorem trans (h : ClockKept s t) (h' : ClockKept t u) : ClockKept s u :=
  ⟨h'.clock.trans h.clock, h'.holdover ∘ h.holdover, fun j => h'.events j ∘ h.events j, fun x => h'.out x ∘ h.out x⟩

theorem ite {c : Prop} [Decidable c] (h : ClockKept s t) (h' : ClockKept s u) : ClockKept s (if c then t else u) := by
  split
  · exact h
  · exact h'

theorem of_time (ht : t.time = s.time) (ho : ∀ x ∈ s.out, x ∈ t.out) : ClockKept s t :=
  ⟨congrArg clockPart ht, fun h => ht ▸ h, fun _ h => ht ▸ h, ho⟩

end ClockKept

theorem out_emit {o : Output} {s : Chip} {x : Output} (h : x ∈ s.out) : x ∈ (emit o s).out := List.mem_append_left _ h

theorem msix_clockKept (v : Nat) (s : Chip) : ClockKept s (msix v s) :=
  ClockKept.ite (.of_time rfl fun _ => id) (.of_time rfl fun _ => out_emit)

/-- An event of the Timetable stands, whatever stood before (R404). -/
theorem ttEvent_sets (k : Nat) (s : Chip) : ClockKept s (ttEvent k s) ∧ bit (ttEvent k s).time.events k = true := by
  unfold ttEvent
  split
  · next h => exact ⟨.refl s, h⟩
  · next h =>
    have hadd := bit_add_two_pow (Bool.eq_false_iff.2 h)
    have hset : ClockKept s { s with time := { s.time with events := s.time.events + 2 ^ k } } :=
      ⟨rfl, id, fun j hj => by rw [hadd, hj]; rfl, fun _ => id⟩
    dsimp only
    split
    · exact ⟨hset.trans (msix_clockKept ..), by rw [msix_time]; exact (hadd k).trans (by simp)⟩
    · exact ⟨hset, (hadd k).trans (by simp)⟩

theorem ppsFall_clockKept (k : Nat) (s : Chip) : ClockKept s (ppsFall k s) := ⟨rfl, id, fun _ => id, fun _ => out_emit⟩

theorem ppsHold_clockKept (s : Chip) : ClockKept s (ppsHold s) :=
  List.foldlRecOn (motive := ClockKept s) _ _ (.refl s) fun _ h _ _ => h.trans (ppsFall_clockKept ..)

theorem ppsTick_clockKept (s0 : Chip) (k : Nat) (s : Chip) : ClockKept s (ppsTick s0 k s) := by
  unfold ppsTick
  split
  · exact ppsFall_clockKept k s
  · split
    · exact ⟨rfl, id, fun _ => id, fun _ => id⟩
    · split
      · exact ⟨rfl, id, fun _ => id, fun _ => out_emit⟩
      · exact .refl s

theorem setLive_clockKept (ca : Nat) (v : Word) (s : Chip) : ClockKept s (setLive ca v s) := .of_time rfl fun _ => id

theorem bumpField_clockKept (i : Isl) (off lo w n : Nat) (s : Chip) : ClockKept s (bumpField i off lo w n s) := by
  unfold bumpField setField'
  exact setLive_clockKept ..

theorem faultRecorded_clockKept (i : Isl) (loc cls own : Nat) (s : Chip) : ClockKept s (faultRecorded true i loc cls own s) := by
  have hrecord : ∀ (f : CabSt → CabSt) (g : FaultSt → FaultSt),
      ClockKept s { modCab i f s with faults := g (modCab i f s).faults } := fun _ _ => .of_time rfl fun _ => id
  unfold faultRecorded
  dsimp only
  rw [if_pos rfl]
  exact ((hrecord _ _).trans (bumpField_clockKept ..)).trans (ClockKept.ite (msix_clockKept ..) (.refl _))

theorem raise_minor_clockKept {sev : Nat} (hsev : sev < 2) (i : Isl) (loc cls : Nat) (s : Chip) : ClockKept s (raise i loc cls sev s) := by
  rw [raise_of_minor hsev]
  exact ClockKept.ite (.ite (.of_time rfl fun _ => id) (.refl s)) ((faultRecorded_clockKept ..).trans (.of_time rfl fun _ => id))

/-- Before its fault, the watchdog's end enters holdover, lets the outputs fall that it holds, and sets its event (R388). -/
def wdogHeld (s : Chip) : Chip := ttEvent 2 (ppsHold { s with time := { s.time with holdover := true } })

theorem wdogEnter_of_running {s : Chip} (h : s.time.holdover = false) : wdogEnter s = raise .tt 0x02 clsTime 0 (wdogHeld s) := by
  rw [wdogEnter, h]
  rfl

theorem wdogHeld_clockKept (s : Chip) : ClockKept s (wdogHeld s) := by
  have hset : ClockKept s { s with time := { s.time with holdover := true } } := ⟨rfl, fun _ => rfl, fun _ => id, fun _ => id⟩
  exact (hset.trans (ppsHold_clockKept _)).trans (ttEvent_sets ..).1

theorem wdogEnter_clockKept (s : Chip) : ClockKept s (wdogEnter s) := by
  unfold wdogEnter
  split
  · exact .refl s
  · exact (wdogHeld_clockKept s).trans (raise_minor_clockKept (by decide) ..)

/-- The device once the clock itself has ticked, with the event of a slew that ends (R384). -/
def clockMoved (s : Chip) : Chip :=
  let t := { s with time := tickTime s.time }
  if slewDone s.time then ttEvent 3 t else t

theorem idleTick_of_power {s : Chip} (h : aonLost s = false) : idleTick s = ppsTick s 1 (ppsTick s 0 (clockMoved s)) := by
  rw [idleTick, h]
  rfl

theorem clockTick_clockKept (s : Chip) : ClockKept (idleTick s) (clockTick s) := by
  unfold clockTick
  exact (wdogEnter_clockKept _).ite (.refl _)

theorem blockTick_clockKept {s : Chip} (h : aonLost s = false) : ClockKept (clockMoved s) (blockTick s) := by
  have hidle : ClockKept (clockMoved s) (idleTick s) := by
    rw [idleTick_of_power h]
    exact (ppsTick_clockKept ..).trans (ppsTick_clockKept ..)
  exact (hidle.trans (clockTick_clockKept s)).trans (.of_time (blockTick_time s) fun x hx => blockTick_out s ▸ hx)

theorem clockMoved_clockKept (s : Chip) : ClockKept { s with time := tickTime s.time } (clockMoved s) := (ttEvent_sets ..).1.ite (.refl _)

theorem clockPart_blockTick {s : Chip} (h : aonLost s = false) : clockPart (blockTick s).time = clockPart (tickTime s.time) :=
  (blockTick_clockKept h).clock.trans (clockMoved_clockKept s).clock

/-! The numbers of a tick (R380, R381, R384) -/

theorem clockUnits_congr {t u : TimeSt} (h : clockPart t = clockPart u) : clockUnits t = clockUnits u := by
  have hsec : t.sec = u.sec := (congrArg TimeSt.sec h :)
  have hns : t.ns = u.ns := (congrArg TimeSt.ns h :)
  have hfrac : t.frac = u.frac := (congrArg TimeSt.frac h :)
  rw [clockUnits, clockUnits, hsec, hns, hfrac]

theorem clockUnits_tickTime (t : TimeSt) : (clockUnits (tickTime t) : Int) = (clockUnits t + effIncr t) % clockWrap :=
  clockUnits_moveClock (effIncr t) t

theorem run_tickTime (t : TimeSt) : (tickTime t).run * 65536 + (tickTime t).runFrac =
    (t.run % 2 ^ 64 * 65536 + t.runFrac + t.incr) % (2 ^ 64 * 65536) := by
  have h : ∀ r f : Nat, (r + f / 65536) % 2 ^ 64 * 65536 + f % 65536 = (r % 2 ^ 64 * 65536 + f) % (2 ^ 64 * 65536) := by omega
  rw [Nat.add_assoc]
  exact h t.run (t.runFrac + t.incr)

theorem effIncr_of_noSlew {t : TimeSt} (h : t.slew = none) : effIncr t = t.incr := by rw [effIncr, h]; exact Int.add_zero _

theorem eq_mod_clockWrap {a b c : Nat} (h : (a : Int) = (b + c) % clockWrap) : a = (b + c) % (2 ^ 48 * 1000000000 * 2 ^ 32) :=
  Int.natCast_inj.1 (h.trans (Int.natCast_emod (b + c) (2 ^ 48 * 1000000000 * 2 ^ 32)).symm)

theorem step_of_empty {s : State} (h : s.pending = []) : step s = .next { s with chip := blockTick s.chip } := by rw [step, h]

/-- Settles O2: the tick of the Timetable, of which everything after it keeps the clock. -/
theorem emptyQueueTicks : Obligations.EmptyQueueTicks := by
  unfold Obligations.EmptyQueueTicks
  intro s hempty hpower hslew
  refine ⟨_, step_of_empty hempty, ?_, ?_⟩
  · have hclock := clockPart_blockTick hpower
    have hkept := (clockMoved_clockKept s.chip).trans (blockTick_clockKept hpower)
    have hunits := clockUnits_tickTime s.chip.time
    rw [effIncr_of_noSlew hslew, ← clockUnits_congr hclock] at hunits
    have hrun := run_tickTime s.chip.time
    obtain ⟨hns, hfrac⟩ := moveClock_lt (effIncr s.chip.time) s.chip.time
    have hhold : s.chip.time.holdover = true → (blockTick s.chip).time.holdover = true := hkept.holdover
    generalize (blockTick s.chip).time = t at hclock hhold hunits ⊢
    have hnoSlew : (tickTime s.chip.time).slew = none := by rw [tickTime, hslew]
    have hcount : t.run = (tickTime s.chip.time).run := (congrArg TimeSt.run hclock :)
    have hfine : t.runFrac = (tickTime s.chip.time).runFrac := (congrArg TimeSt.runFrac hclock :)
    rw [← hcount, ← hfine] at hrun
    refine ⟨?_, ?_, ?_, hrun, (congrArg TimeSt.incr hclock :), (congrArg TimeSt.slew hclock :).trans hnoSlew, hhold⟩
    · exact eq_mod_clockWrap hunits
    · exact lt_of_eq_of_lt (congrArg TimeSt.ns hclock :) hns
    · exact lt_of_eq_of_lt (congrArg TimeSt.frac hclock :) hfrac
  · have hkept := blockTick_kept s.chip
    simp only [kept, Prod.mk.injEq] at hkept
    obtain ⟨hboot, hwrite, hbist, hmem, hpow⟩ := hkept
    exact ⟨hboot, hmem, hbist, hwrite, hpow⟩

end Sys2Proof.Machine
end

section
/-!
PROOFS. What time itself brings (R384, R388, R390, R402 to R404).
-/

namespace Sys2Proof.Machine

/-! Words and pulses -/

/-- What live values rest on. -/
def wordBase (s : Chip) : Sparse Word × PacketSt := (s.live, s.pkt)

theorem liveW_of_wordBase {s t : Chip} (h : wordBase t = wordBase s) (ca : Nat) : liveW t ca = liveW s ca := by
  obtain ⟨hl, hp⟩ := Prod.mk.inj h
  exact liveW_congr hl (congrArg PacketSt.yards hp) ca

theorem wordBase_msix (v : Nat) (s : Chip) : wordBase (msix v s) = wordBase s := by
  rw [msix, apply_ite wordBase]
  exact ite_self _

theorem wordBase_ttEvent (k : Nat) (s : Chip) : wordBase (ttEvent k s) = wordBase s := by
  unfold ttEvent
  split
  · rfl
  · dsimp only
    rw [apply_ite wordBase, wordBase_msix]
    exact ite_self _

theorem wordBase_ppsHold (s : Chip) : wordBase (ppsHold s) = wordBase s := 
  foldl_keeps (φ := wordBase) (f := fun s k => ppsFall k s) (fun _ _ => rfl) _ _

theorem wordBase_ppsTick (s0 : Chip) (k : Nat) (s : Chip) : wordBase (ppsTick s0 k s) = wordBase s := by
  unfold ppsTick
  split
  · rfl
  · split
    · rfl
    · split <;> rfl

theorem wordBase_clockMoved (s : Chip) : wordBase (clockMoved s) = wordBase s := by
  rw [clockMoved, apply_ite wordBase, wordBase_ttEvent]
  exact ite_self _

theorem wordBase_wdogHeld (s : Chip) : wordBase (wdogHeld s) = wordBase s := (wordBase_ttEvent ..).trans (wordBase_ppsHold _)

/-- Words of the Timetable are no counters of the Keystone's. -/
theorem liveW_wdogEnter {off : Nat} (hoff : off < 2 ^ 32) (s : Chip) : liveW (wdogEnter s) (caddr .tt off) = liveW s (caddr .tt off) := by
  cases h : s.time.holdover with
  | true => rw [wdogEnter, h]; rfl
  | false =>
    have hne : caddr .tt off ≠ caddr .ks (0x0200 + 8 * clsTime) := by
      simp only [caddr, Isl.code, clsTime]
      omega
    rw [wdogEnter_of_running h]
    exact (Prod.mk.inj (wordView_raise_minor hne .tt 0x02 (by decide) _)).2.trans (liveW_of_wordBase (wordBase_wdogHeld s) _)

theorem contains_nadd_self (l : NatSet) (k : Nat) : (nadd l k).contains k = true := by
  induction l with
  | nil => simp [nadd]
  | cons a l ih =>
    unfold nadd
    split
    · simp
    · split
      · next h => simp [h]
      · rw [List.contains_cons, ih, Bool.or_true]

theorem contains_nadd_other (l : NatSet) {j k : Nat} (h : k ≠ j) : (nadd l j).contains k = l.contains k := by
  induction l with
  | nil => simp [nadd, h]
  | cons a l ih =>
    unfold nadd
    split
    · rw [List.contains_cons, beq_false_of_ne h, Bool.false_or]
    · split
      · rfl
      · rw [List.contains_cons, List.contains_cons, ih]

theorem contains_ndel_other (l : NatSet) {j k : Nat} (h : k ≠ j) : (ndel l j).contains k = l.contains k := by
  rw [Bool.eq_iff_iff, List.contains_iff_mem, List.contains_iff_mem, ndel, List.mem_filter]
  simp [h]

/-- `PPS_OUT[k]` is high. -/
def ppsIsHigh (k : Nat) (s : Chip) : Bool := s.time.ppsHigh.contains k

theorem ppsIsHigh_ttEvent (j k : Nat) (s : Chip) : ppsIsHigh k (ttEvent j s) = ppsIsHigh k s := by
  unfold ttEvent
  split
  · rfl
  · dsimp only
    unfold ppsIsHigh
    rw [apply_ite Chip.time, msix_time, ite_self]

theorem ppsIsHigh_clockMoved (k : Nat) (s : Chip) : ppsIsHigh k (clockMoved s) = ppsIsHigh k s := by
  rw [clockMoved, apply_ite (ppsIsHigh k), ppsIsHigh_ttEvent]
  exact ite_self _

theorem ppsIsHigh_ppsTick_other (s0 : Chip) {j k : Nat} (h : k ≠ j) (s : Chip) : ppsIsHigh k (ppsTick s0 j s) = ppsIsHigh k s := by
  unfold ppsTick
  split
  · exact contains_ndel_other _ h
  · split
    · rfl
    · split
      · exact contains_nadd_other _ h
      · rfl

/-- An output that falls at a tick. -/
theorem ppsTick_falls {s0 : Chip} {k : Nat} (h : ppsFalls s0 k = true) (s : Chip) :
    .pps k false ∈ (ppsTick s0 k s).out ∧ ppsIsHigh k (ppsTick s0 k s) = false := by
  rw [ppsTick, if_pos h]
  exact ⟨mem_out_emit .., contains_ndel_self ..⟩

theorem ppsTick_rises {s0 : Chip} {k : Nat} (h : ppsRises s0 k = true) (s : Chip) :
    .pps k true ∈ (ppsTick s0 k s).out ∧ ppsIsHigh k (ppsTick s0 k s) = true := by
  have hlow : s0.time.ppsHigh.contains k = false := by
    simp only [ppsRises, Bool.and_eq_true, Bool.not_eq_true'] at h
    exact h.1.2
  rw [ppsTick, if_neg (by simp only [ppsFalls, hlow, Bool.false_and, Bool.false_eq_true, not_false_eq_true]), hlow, if_neg (by decide),
    if_pos h]
  exact ⟨mem_out_emit .., contains_nadd_self ..⟩

/-- What an output's own tick does stands when the Timetable has ticked. -/
theorem idleTick_of_ppsTick {s : Chip} (hpower : aonLost s = false) {k : Nat} (hk : k < 2) {o : Output} {b : Bool}
    (h : ∀ u, o ∈ (ppsTick s k u).out ∧ ppsIsHigh k (ppsTick s k u) = b) : o ∈ (idleTick s).out ∧ ppsIsHigh k (idleTick s) = b := by
  rw [idleTick_of_power hpower]
  obtain rfl | rfl : k = 0 ∨ k = 1 := by omega
  · obtain ⟨hout, hhigh⟩ := h (clockMoved s)
    exact ⟨(ppsTick_clockKept ..).out o hout, (ppsIsHigh_ppsTick_other _ (by decide) _).trans hhigh⟩
  · exact h _

theorem wordBase_idleTick {s : Chip} (hpower : aonLost s = false) : wordBase (idleTick s) = wordBase s := by
  rw [idleTick_of_power hpower, wordBase_ppsTick, wordBase_ppsTick, wordBase_clockMoved]

/-- Entering holdover lets no output fall but those that STOP_HOLD names. -/
theorem ppsIsHigh_ppsHold {k : Nat} {s : Chip} (h : ppsStopped s k = false ∨ ppsIsHigh k s = false) : ppsIsHigh k (ppsHold s) = ppsIsHigh k s := by
  have hall : ∀ (l : List Nat) (u : Chip), k ∉ l → ppsIsHigh k (l.foldl (fun s j => ppsFall j s) u) = ppsIsHigh k u := by
    intro l
    induction l with
    | nil => exact fun _ _ => rfl
    | cons j l ih =>
      intro u hk
      rw [List.mem_cons, not_or] at hk
      exact (ih _ hk.2).trans (contains_ndel_other _ hk.1)
  refine hall _ _ fun hmem => ?_
  obtain ⟨hin, hstop⟩ := List.mem_filter.1 hmem
  obtain h | h := h
  · rw [hstop] at h; cases h
  · exact absurd (List.contains_iff_mem.2 hin) (by rw [show s.time.ppsHigh.contains k = false from h]; decide)

theorem ppsIsHigh_wdogEnter {k : Nat} {s : Chip} (h : bit (ppsCtrl s k) 30 = false ∨ ppsIsHigh k s = false) :
    ppsIsHigh k (wdogEnter s) = ppsIsHigh k s := by
  cases hh : s.time.holdover with
  | true => rw [wdogEnter, hh]; rfl
  | false =>
    have hstop : ppsStopped { s with time := { s.time with holdover := true } } k = false ∨
        ppsIsHigh k { s with time := { s.time with holdover := true } } = false := by
      obtain h | h := h
      · exact .inl (by rw [ppsStopped, show ppsCtrl { s with time := { s.time with holdover := true } } k = ppsCtrl s k from rfl, h]; rfl)
      · exact .inr h
    have hheld : ppsIsHigh k (wdogHeld s) = ppsIsHigh k s := (ppsIsHigh_ttEvent ..).trans (ppsIsHigh_ppsHold hstop)
    rw [wdogEnter_of_running hh, ppsIsHigh, raise_minor_time (by decide)]
    exact hheld

/-- What an output's own tick does stands when the block has ticked; STOP_HOLD may let it fall. -/
theorem blockTick_of_ppsTick {s : Chip} (hpower : aonLost s = false) {k : Nat} (hk : k < 2) {o : Output} {b : Bool}
    (h : ∀ u, o ∈ (ppsTick s k u).out ∧ ppsIsHigh k (ppsTick s k u) = b) :
    o ∈ (blockTick s).out ∧ (bit (ppsCtrl s k) 30 = false ∨ b = false → (blockTick s).time.ppsHigh.contains k = b) := by
  obtain ⟨hout, hhigh⟩ := idleTick_of_ppsTick hpower hk h
  refine ⟨blockTick_out s ▸ (clockTick_clockKept s).out o hout, fun hb => ?_⟩
  have hctrl : ppsCtrl (idleTick s) k = ppsCtrl s k := congrArg BitVec.toNat (liveW_of_wordBase (wordBase_idleTick hpower) _)
  rw [blockTick_time]
  change ppsIsHigh k (clockTick s) = b
  unfold clockTick
  dsimp only
  split
  · rw [ppsIsHigh_wdogEnter (by rw [hctrl, hhigh]; exact hb), hhigh]
  · exact hhigh

/-! A slew that ends (R384) -/

theorem slewDone_of_rem {s : Chip} {w : Slew} (hw : s.time.slew = some w) (hrem : w.rem = slewAdd w) : slewDone s.time = true := by
  rw [slewDone, hw]
  exact decide_eq_true hrem

theorem blockTick_endsSlew {s : Chip} (hpower : aonLost s = false) {w : Slew} (hw : s.time.slew = some w) (hrem : w.rem = slewAdd w) :
    (blockTick s).time.slew = none ∧ bit (blockTick s).time.events 3 = true ∧
      (clockUnits (blockTick s).time : Int) = (clockUnits s.time + s.time.incr + w.rem) % clockWrap := by
  have hclock := clockPart_blockTick hpower
  have heff : effIncr s.time = s.time.incr + w.rem := by rw [effIncr, hw, hrem]
  refine ⟨(congrArg TimeSt.slew hclock :).trans ?_, (blockTick_clockKept hpower).events 3 ?_, ?_⟩
  · rw [tickTime, hw]
    exact if_pos hrem
  · rw [clockMoved, slewDone_of_rem hw hrem, if_pos rfl]
    exact (ttEvent_sets ..).2
  · rw [clockUnits_congr hclock, clockUnits_tickTime, heff, Int.add_assoc]

/-! The watchdog (R388) -/

theorem wdogHeld_does (s : Chip) : (wdogHeld s).time.holdover = true ∧ bit (wdogHeld s).time.events 2 = true ∧
    (wdogHeld s).time.run = s.time.run :=
  ⟨((ppsHold_clockKept _).trans (ttEvent_sets 2 _).1).holdover rfl, (ttEvent_sets 2 _).2,
    (congrArg TimeSt.run (wdogHeld_clockKept s).clock :)⟩

/-- TT_HOLD_WDOG once it is written, before what follows from it. -/
def wdogWritten (x : Word) (s : Chip) : Chip := setShadow (caddr .tt 0x0104) x (setLive (caddr .tt 0x0104) x (pmcCount .tt 0x02 0 s))

theorem liveW_count_holdWdog (s : Chip) : liveW (pmcCount .tt 0x02 0 s) (caddr .tt 0x0104) = liveW s (caddr .tt 0x0104) :=
  (Prod.mk.inj (wordView_pmcCount (fun n hn => ⟨by simp only [caddr]; omega, by simp only [caddr]; omega⟩) 0x02 0 s)).2

/-- A write of TT_HOLD_WDOG that the Cabin answers: the access counts, and the masked bits are written (R388). -/
theorem writeWord_holdWdog {s : Chip} (hf : isFenced s .tt = false) (value mask : Word) : (writeWord (caddr .tt 0x0104) value mask s).2.2 =
    if mask &&& 0xFFFF#32 = 0 then pmcCount .tt 0x02 0 s
    else afterWrite .tt 0x0104 (wdogWritten (mergeW (liveW s (caddr .tt 0x0104)) value (mask &&& 0xFFFF#32)) s) := by
  have hspec : wordSpec .tt 0x0104 = some { rw := 65535, reset := 2000 } := by decide
  have hplace : wordAt (caddr .tt 0x0104) = .inr (.tt, 0x0104) := by decide
  have hw1c : (value &&& mask &&& BitVec.ofNat 32 0).toNat = 0 := by simp
  have hclamp : ∀ (t : Chip) (n : Nat), clampWrite t .tt 0x0104 n = n := fun _ _ => rfl
  have hbits : BitVec.ofNat 32 (65535 ||| 0) = 0xFFFF#32 := by decide
  unfold writeWord
  rw [hplace]
  dsimp only
  rw [hf, if_neg (by decide), hspec]
  dsimp only
  rw [show notHeld (pmcCount .tt 0x02 0 s) .tt 0x0104 = false from rfl, show linkCipherWord .tt 0x0104 = false from rfl, if_neg (by decide),
    if_neg (by simp), if_neg (by simp), if_neg (by decide), if_neg (by decide), if_neg (by simp), hw1c,
    clearW1c_of_w1c_zero hspec rfl, hbits, show inBlock 0x0104 0x48 8 4 0 = false by decide]
  split
  · rfl
  · rw [if_neg (by simp), hclamp, if_neg (show ¬ (0 ≠ 0) by decide), liveW_count_holdWdog, BitVec.ofNat_toNat, BitVec.setWidth_eq]
    dsimp only
    rw [if_neg (by decide), if_neg (by decide), show inBlock 0x0104 0x80 8 8 0 = false by decide,
      show inBlock 0x0104 0x84 8 8 0 = false by decide, if_neg (by decide), if_neg (by decide)]
    rfl

theorem afterWrite_holdWdog (s : Chip) : liveW (afterWrite .tt 0x0104 s) (caddr .tt 0x0104) = liveW s (caddr .tt 0x0104) ∧
    (afterWrite .tt 0x0104 s).time.run = s.time.run := by
  unfold afterWrite
  dsimp only
  rw [decide_eq_true rfl, Bool.true_and]
  split
  · exact ⟨liveW_wdogEnter (by decide) s, (congrArg TimeSt.run (wdogEnter_clockKept s).clock :)⟩
  · exact ⟨rfl, rfl⟩

theorem liveW_wdogWritten (x : Word) (s : Chip) : liveW (wdogWritten x s) (caddr .tt 0x0104) = x :=
  (liveW_congr rfl rfl _ : liveW (wdogWritten x s) (caddr .tt 0x0104) = liveW (setLive (caddr .tt 0x0104) x (pmcCount .tt 0x02 0 s)) _).trans
    ((liveW_setLive ..).trans (if_pos rfl))

theorem pmcCount_run (i : Isl) (event sub : Nat) (s : Chip) : (pmcCount i event sub s).time.run = s.time.run :=
  congrArg TimeSt.run (pmcCount_ticked i event sub s).time

theorem mergeW_zero (old v : Word) : mergeW old v 0 = old := by
  change old &&& ~~~0#32 ||| v &&& 0#32 = old
  rw [BitVec.and_zero, BitVec.or_zero]
  exact BitVec.and_allOnes

theorem liveW_lastWrite (x : Option (Status × Word)) (s : Chip) (ca : Nat) : liveW { s with lastWrite := x } ca = liveW s ca := rfl

/-- What a write of TT_HOLD_WDOG leaves of the word and of the run count. -/
theorem holdWdog_written {s : Chip} (hf : isFenced s .tt = false) (value mask : Word) :
    liveW (writeWord (caddr .tt 0x0104) value mask s).2.2 (caddr .tt 0x0104) =
      mergeW (liveW s (caddr .tt 0x0104)) value (mask &&& 0xFFFF#32) ∧
    (writeWord (caddr .tt 0x0104) value mask s).2.2.time.run = s.time.run := by
  rw [writeWord_holdWdog hf]
  split
  · next h0 => exact ⟨by rw [liveW_count_holdWdog, h0, mergeW_zero], pmcCount_run ..⟩
  · obtain ⟨hword, hrun⟩ := afterWrite_holdWdog (wdogWritten (mergeW (liveW s (caddr .tt 0x0104)) value (mask &&& 0xFFFF#32)) s)
    exact ⟨hword.trans (liveW_wdogWritten ..), hrun.trans (pmcCount_run ..)⟩

theorem becomes_holdWdogWrite {s : State} (hup : dead s.chip = false) (hf : isFenced s.chip .tt = false) (value mask : Word) :
    ∃ t, Becomes (.ttHoldWdogWrite value mask) s t ∧
      holdWdog t = (mergeW (liveW s.chip (caddr .tt 0x0104)) value (mask &&& 0xFFFF#32)).toNat % 65536 ∧ t.time.run = s.chip.time.run := by
  have hdomains : writeDomains s.chip (caddr .tt 0x0104) value mask = [] := offDomains_of_isOn (i := .tt) rfl
  obtain ⟨hword, hrun⟩ := holdWdog_written hf value mask
  refine ⟨_, becomes_of_onChip (f := directWrite (caddr .tt 0x0104) value mask) rfl rfl, ?_⟩
  unfold directWrite
  rw [hup, if_neg (by decide), hdomains]
  dsimp only
  refine ⟨?_, hrun⟩
  rw [holdWdog, fieldOf, liveW_lastWrite, hword, bits, Nat.pow_zero, Nat.div_one]
  rfl

/-! Copies of the time (R390) -/

theorem becomes_tileMeasure {s : State} {k : Nat} (hk : k < 8) (hup : dead s.chip = false)
    (hlink : (sget none s.chip.ports.causeway k).isSome = true) (delay : Nat) :
    ∃ u, tileCopy u k = measureCopy delay (tileCopy s.chip k) ∧ Becomes (.timeCopyLoopMeasure (.tile k) delay) s
      (if (tileCopy s.chip k).locked = true ∧ (measureCopy delay (tileCopy s.chip k)).locked = false
        then raise (.platform (4 * k)) 0x70 clsTime 2 u else u) := by
  refine ⟨modTime (fun x => { x with tile := sput {} x.tile k (measureCopy delay (tileCopy s.chip k)) }) s.chip,
    sget_sput_self .., becomes_of_onUnit (f := loopMeasure (.tile k) delay) rfl (decide_eq_true hk) ?_⟩
  rw [loopMeasure, hup, Option.isNone_eq_false_iff.2 hlink, if_neg (by decide)]
  simp only [Bool.and_eq_true, Bool.not_eq_true']

theorem becomes_egressMeasure {s : State} {n : Nat} (hn : n < 36) (hup : dead s.chip = false) (hon : isOn s.chip (.eline n) = true)
    (delay : Nat) : ∃ u, egressCopy u n = measureCopy delay (egressCopy s.chip n) ∧ Becomes (.timeCopyLoopMeasure (.egress n) delay) s
      (if (egressCopy s.chip n).locked = true ∧ (measureCopy delay (egressCopy s.chip n)).locked = false
        then raise (.eline n) 0x90 clsTime 2 u else u) := by
  refine ⟨modTime (fun x => { x with egress := sput {} x.egress n (measureCopy delay (egressCopy s.chip n)) }) s.chip,
    sget_sput_self .., becomes_of_onUnit (f := loopMeasure (.egress n) delay) rfl (decide_eq_true hn) ?_⟩
  rw [loopMeasure, hup, hon, if_neg (by decide)]
  simp only [Bool.and_eq_true, Bool.not_eq_true']

/-! Captures (R402) -/

/-- The state of a PPS input. -/
def ppsInOf (s : Chip) (k : Nat) : PpsIn := sget {} s.time.pps k

/-- The device with another state of a PPS input. -/
def withPpsIn (k : Nat) (p : PpsIn) (s : Chip) : Chip := modTime (fun t => { t with pps := sput {} t.pps k p }) s

theorem ppsInOf_withPpsIn (j k : Nat) (p : PpsIn) (s : Chip) : ppsInOf (withPpsIn k p s) j = if j = k then p else ppsInOf s j := sget_sput ..

theorem ppsInOf_ttEvent (j k : Nat) (s : Chip) : ppsInOf (ttEvent j s) k = ppsInOf s k :=
  (congrArg (fun t : TimeSt => sget ({} : PpsIn) t.pps k) (ttEvent_sets j s).1.clock :)

theorem ppsCapture_again {k : Nat} {s : Chip} (h : (ppsInOf s k).new = true) : ppsCapture k s =
    withPpsIn k { ppsInOf s k with overrun := true, count := satAdd 0xFFFF (ppsInOf s k).count 1 } s := by
  unfold ppsCapture
  dsimp only
  exact if_pos h

theorem ppsCapture_first {k : Nat} {s : Chip} (h : (ppsInOf s k).new = false) : ∃ ts, ppsCapture k s = ttEvent k (withPpsIn k
    { ts := ts, new := true, overrun := false, step := s.time.stepCount, count := satAdd 0xFFFF (ppsInOf s k).count 1 } s) := by
  unfold ppsCapture
  dsimp only
  rw [show (sget {} s.time.pps k).new = false from h, if_neg (by decide)]
  exact ⟨_, rfl⟩

/-- What a rising edge leaves (R402). -/
theorem ppsCapture_captures (k : Nat) (s : Chip) : (ppsInOf (ppsCapture k s) k).new = true ∧
    (ppsInOf (ppsCapture k s) k).count = min 0xFFFF ((ppsInOf s k).count + 1) ∧
    (ppsInOf (ppsCapture k s) k).overrun = (ppsInOf s k).new ∧
    ((ppsInOf s k).new = true → (ppsInOf (ppsCapture k s) k).ts = (ppsInOf s k).ts) ∧
    ((ppsInOf s k).new = false → bit (ppsCapture k s).time.events k = true) ∧
    ∀ j, j ≠ k → ppsInOf (ppsCapture k s) j = ppsInOf s j := by
  cases h : (ppsInOf s k).new with
  | true =>
    have hin (j : Nat) := ppsInOf_withPpsIn j k { ppsInOf s k with overrun := true, count := satAdd 0xFFFF (ppsInOf s k).count 1 } s
    rw [← ppsCapture_again h] at hin
    rw [hin k, if_pos rfl]
    exact ⟨h, satAdd_eq_min .., rfl, fun _ => rfl, nofun, fun j hj => (hin j).trans (if_neg hj)⟩
  | false =>
    obtain ⟨ts, hts⟩ := ppsCapture_first h
    have hin (j : Nat) := (ppsInOf_ttEvent k j _).trans (ppsInOf_withPpsIn j k
      { ts := ts, new := true, overrun := false, step := s.time.stepCount, count := satAdd 0xFFFF (ppsInOf s k).count 1 } s)
    rw [← hts] at hin
    rw [hin k, if_pos rfl]
    exact ⟨rfl, satAdd_eq_min .., rfl, nofun, fun _ => hts ▸ (ttEvent_sets ..).2, fun j hj => (hin j).trans (if_neg hj)⟩

/-! The statement -/

theorem becomes_ppsOut {s : State} (hpower : aonLost s.chip = false) {k : Nat} (hk : k < 2) :
    (ppsRises s.chip k = true → ∃ t, Becomes (.ppsOutPulse k) s t ∧ .pps k true ∈ t.out ∧
      (bit (ppsCtrl s.chip k) 30 = false → t.time.ppsHigh.contains k = true)) ∧
    (ppsRises s.chip k = false → Becomes (.ppsOutPulse k) s s.chip) ∧
    (ppsFalls s.chip k = true → ∃ t, Becomes (.ppsOutPulseEnd k) s t ∧ .pps k false ∈ t.out ∧ t.time.ppsHigh.contains k = false) ∧
    (ppsFalls s.chip k = false → Becomes (.ppsOutPulseEnd k) s s.chip) := by
  have hrise : ∀ b, ppsRises s.chip k = b → Becomes (.ppsOutPulse k) s (if b then blockTick s.chip else s.chip) := fun b hb =>
    becomes_of_onUnit (f := fun s => if ppsRises s k then blockTick s else s) rfl (decide_eq_true hk) (by rw [hb])
  have hfall : ∀ b, ppsFalls s.chip k = b → Becomes (.ppsOutPulseEnd k) s (if b then blockTick s.chip else s.chip) := fun b hb =>
    becomes_of_onUnit (f := fun s => if ppsFalls s k then blockTick s else s) rfl (decide_eq_true hk) (by rw [hb])
  refine ⟨fun h => ?_, hrise false, fun h => ?_, hfall false⟩
  · obtain ⟨hout, hhigh⟩ := blockTick_of_ppsTick hpower hk (ppsTick_rises h)
    exact ⟨_, hrise true h, hout, fun hb => hhigh (.inl hb)⟩
  · obtain ⟨hout, hhigh⟩ := blockTick_of_ppsTick hpower hk (ppsTick_falls h)
    exact ⟨_, hfall true h, hout, hhigh (.inr rfl)⟩

/-- Settles O46: the tick that ends a slew or moves an output, the watchdog, the copies and the captures, each by its own lemmas. -/
theorem timeEvents : Obligations.TimeEvents := by
  unfold Obligations.TimeEvents
  intro s hpower
  have hwdog : ∀ u, (if aonLost s.chip || !wdogDue s.chip then s.chip else wdogEnter s.chip) = u → Becomes .holdoverWatchdog s u := fun _ h =>
    becomes_of_onChip (f := fun s => if aonLost s || !wdogDue s then s else wdogEnter s) rfl h
  refine ⟨fun w hw hrem => ?_, fun h => ?_, fun hdue hh => ?_, fun h => hwdog _ ?_, fun value mask hup hf => becomes_holdWdogWrite hup hf value mask,
    fun k delay hk hup hlink => becomes_tileMeasure hk hup hlink delay, fun n delay hn hup hon => becomes_egressMeasure hn hup hon delay,
    fun k hk => ?_, fun k hk => becomes_ppsOut hpower hk⟩
  · refine ⟨_, becomes_of_onChip (f := fun s => if slewDone s.time then blockTick s else s) rfl (if_pos (slewDone_of_rem hw hrem)), ?_⟩
    exact blockTick_endsSlew hpower hw hrem
  · exact becomes_of_onChip (f := fun s => if slewDone s.time then blockTick s else s) rfl (if_neg (Bool.eq_false_iff.1 h))
  · exact ⟨_, hwdog _ (by rw [hpower, hdue, ← wdogEnter_of_running hh]; rfl), wdogHeld_does s.chip⟩
  · obtain h | h := h
    · rw [h, Bool.not_false, Bool.or_true, if_pos rfl]
    · rw [show wdogEnter s.chip = s.chip by rw [wdogEnter, h]; rfl, ite_self]
  · exact ⟨_, becomes_of_onUnit (f := fun s => if aonLost s then s else ppsCapture k s) rfl (decide_eq_true hk)
      (if_neg (Bool.eq_false_iff.1 hpower)), ppsCapture_captures k s.chip⟩

end Sys2Proof.Machine
end

section
/-!
PROOFS. The telemetry Orders (R422, R423, R431): monitors that are replaced, and the settings of exporting ports, which no message changes.
-/

namespace Sys2Proof.Machine

/-! Monitors -/

theorem monOf_eq (s : Chip) (kind k : Nat) : monOf s kind k = (sget none s.tm.mons (65536 * kind + k)).getD (resetMon kind k) := by
  unfold monOf
  split
  · next h => rw [h]; rfl
  · next h => rw [h]; rfl

theorem monOf_setMon (kind i k : Nat) (m : Mon) (s : Chip) : monOf (setMon kind i m s) kind k = if k = i then m else monOf s kind k := by
  have hput := sget_sput none s.tm.mons (65536 * kind + i) (65536 * kind + k) (if m = resetMon kind i then none else some m)
  rw [monOf_eq, show sget none (setMon kind i m s).tm.mons (65536 * kind + k) = _ from hput]
  by_cases hk : k = i
  · subst hk
    rw [if_pos rfl, if_pos rfl]
    split
    · next hm => exact hm.symm
    · rfl
  · rw [if_neg (by omega), if_neg hk, monOf_eq]

/-- Monitors that a fold leaves alone. -/
theorem monOf_setMons_other {kind : Nat} (f : Nat → Mon → Mon) {l : List Nat} {k : Nat} (hk : k ∉ l) (s : Chip) :
    monOf (l.foldl (fun s i => setMon kind i (f i (monOf s kind i)) s) s) kind k = monOf s kind k := by
  induction l generalizing s with
  | nil => rfl
  | cons i l ih =>
    rw [List.mem_cons, not_or] at hk
    rw [List.foldl_cons, ih hk.2, monOf_setMon, if_neg hk.1]

/-- A monitor that a fold meets once takes one step. -/
theorem monOf_setMons_once {kind : Nat} (f : Nat → Mon → Mon) {l : List Nat} {k : Nat} (hk : l.count k = 1) (s : Chip) :
    monOf (l.foldl (fun s i => setMon kind i (f i (monOf s kind i)) s) s) kind k = f k (monOf s kind k) := by
  obtain ⟨l₁, l₂, rfl⟩ := List.append_of_mem (List.count_pos_iff.1 (show 0 < l.count k by omega))
  rw [List.count_append, List.count_cons_self] at hk
  have h₁ : k ∉ l₁ := List.count_eq_zero.1 (by omega)
  have h₂ : k ∉ l₂ := List.count_eq_zero.1 (by omega)
  rw [List.foldl_append, List.foldl_cons, monOf_setMons_other f h₂, monOf_setMon, if_pos rfl, monOf_setMons_other f h₁]

/-- Monitors that a fold over distinct places sets: each becomes what its own step makes of it. -/
theorem monOf_setMons {kind : Nat} (f : Nat → Mon → Mon) {l : List Nat} (hl : l.Nodup) (s : Chip) (k : Nat) :
    monOf (l.foldl (fun s i => setMon kind i (f i (monOf s kind i)) s) s) kind k =
      if k ∈ l then f k (monOf s kind k) else monOf s kind k := by
  split
  · next h => exact monOf_setMons_once f (List.count_eq_one_of_mem hl h) s
  · next h => exact monOf_setMons_other f h s

theorem nodup_monTargets (kind idx : Nat) : (monTargets kind idx).Nodup := by
  unfold monTargets
  split
  · exact nodup_span ..
  · exact List.nodup_singleton _

/-- The binning that HIST_SET SET gives. -/
def histMon (o : HistOps) : Mon := { linear := o.linear, step := o.step, base := o.base }

/-- What HIST_SET CLEAR leaves of a monitor. -/
def Mon.cleared (m : Mon) : Mon := { m.restart with bins := [] }

section
variable {o : HistOps} {s : Chip} (hr : histRange o.kind o.index = false) (hb : binningBad o = false)
  (hc : histChecks s o.kind o.index = none)
include hr hb hc

theorem histSet_sets : ∃ t, histSet o s = (.ok, 0, t) ∧
    ∀ k, monOf t o.kind k = if k ∈ monTargets o.kind o.index then histMon o else monOf s o.kind k := by
  refine ⟨_, ?_, monOf_setMons (fun _ _ => histMon o) (nodup_monTargets ..) s⟩
  rw [histSet, hr, hb, hc]
  rfl

theorem histClear_clears : ∃ t, histClear o s = (.ok, 0, t) ∧
    ∀ k, monOf t o.kind k = if k ∈ monTargets o.kind o.index then (monOf s o.kind k).cleared else monOf s o.kind k := by
  refine ⟨_, ?_, monOf_setMons (fun _ m => m.cleared) (nodup_monTargets ..) s⟩
  rw [histClear, hr, hb, hc]
  rfl

end

theorem mem_monTargets_one {kind idx : Nat} (h : idx ≠ 0xFFFF) (k : Nat) : k ∈ monTargets kind idx ↔ k = idx := by
  rw [monTargets, if_neg h, List.mem_singleton]

theorem mem_monTargets_all (kind : Nat) {k : Nat} (h : k < monCount kind) : k ∈ monTargets kind 0xFFFF := by
  rw [monTargets, if_pos rfl, mem_span]
  omega

theorem histRead_reads {o : HistReadOps} {s : Chip} (hr : histRange o.kind o.index = false) (hi : o.index ≠ 0xFFFF)
    (hlen : o.payload.len = 272) (hc : histChecks s o.kind o.index = none) :
    histRead o s = (.ok, 0, hostWrite o.payload.addr (monBytes (monOf s o.kind o.index)) s) := by
  rw [histRead, hr, if_neg (by decide), if_neg (by simp [hi, hlen]), hc]
  rfl

/-! Export ports (R418, R431) -/

/-- What a message that is not sent yet leaves of an exporting port: its settings and its sequence number. -/
def exportIds (s : Chip) (e : Nat) : List Byte × Nat := ((exportSt s e).record, (exportSt s e).seq)

theorem exportSt_modExport (e k : Nat) (f : ExportSt → ExportSt) (s : Chip) :
    exportSt (modExport e f s) k = if k = e then f (exportSt s e) else exportSt s k := sget_smod ..

theorem exportIds_modExport {e : Nat} {f : ExportSt → ExportSt} {s : Chip} (hrec : (f (exportSt s e)).record = (exportSt s e).record)
    (hseq : (f (exportSt s e)).seq = (exportSt s e).seq) : exportIds (modExport e f s) = exportIds s := by
  funext k
  unfold exportIds
  rw [exportSt_modExport]
  split
  · next h => rw [hrec, hseq, h]
  · rfl

theorem exportIds_congr {s t : Chip} (h : t.tm = s.tm) : exportIds t = exportIds s := by
  unfold exportIds exportSt
  rw [h]

theorem exportIds_bump (i : Isl) (off n : Nat) (s : Chip) : exportIds (bump i off n s) = exportIds s := by
  have hset : ∀ (ca : Nat) (v : Word), exportIds (setLive ca v s) = exportIds s := fun _ _ => exportIds_congr rfl
  unfold bump bumpField setField'
  exact hset ..

theorem exportIds_pmcCount (i : Isl) (event sub : Nat) (s : Chip) : exportIds (pmcCount i event sub s) = exportIds s :=
  exportIds_congr (pmcCount_ticked ..).tm

theorem exportIds_countPosts (e n : Nat) (s : Chip) : exportIds (countPosts e n false s) = exportIds s := by
  unfold countPosts
  split
  · rfl
  · exact (foldl_keeps (φ := exportIds) (fun _ _ => exportIds_pmcCount ..) _ _).trans (exportIds_bump ..)

theorem exportIds_postcardSelect (i : Isl) (w : Waybill) (s : Chip) : exportIds (postcardSelect i w s) = exportIds s := by
  unfold postcardSelect
  dsimp only
  split
  · split
    · exact exportIds_countPosts ..
    · split
      · exact exportIds_modExport rfl rfl
      · exact exportIds_modExport rfl rfl
  · rfl

theorem exportIds_hostOutcome (h : Option (Nat × Nat × Bool)) (st : Status) (ts : Nat) (s : Chip) :
    exportIds (hostOutcome h st ts s) = exportIds s := by
  unfold hostOutcome
  split <;> exact exportIds_congr rfl

theorem exportIds_dropJn (i : Isl) (reason : Nat) (f : JnFrame) (s : Chip) : exportIds (dropJn i reason f s) = exportIds s := by
  have hpost : ∀ (p : Option (Nat × Nat)) (t : Chip), exportIds (postOutcome p false t) = exportIds t := fun p t => by
    unfold postOutcome
    split
    · rfl
    · exact exportIds_countPosts ..
  exact (hpost ..).trans ((exportIds_hostOutcome ..).trans ((exportIds_postcardSelect ..).trans (exportIds_congr rfl)))

theorem exportIds_directFrame (tag : Option (Nat × Nat × Bool)) (post : Option (Nat × Nat)) (q : Nat) (bytes : List Byte) (s : Chip) :
    exportIds (directFrame tag post q bytes s) = exportIds s := by
  unfold directFrame
  dsimp only
  split
  · exact (exportIds_dropJn ..).trans ((exportIds_bump ..).trans ((exportIds_bump ..).trans (exportIds_congr rfl)))
  · split
    · exact (exportIds_dropJn ..).trans (exportIds_congr rfl)
    · exact exportIds_congr rfl

/-- A message leaves the settings and the sequence number of every exporting port (R417). -/
theorem exportIds_sendMessage (e n : Nat) (msg : List Byte) (s : Chip) : exportIds (sendMessage e n msg s) = exportIds s := by
  unfold sendMessage
  dsimp only
  split
  · exact exportIds_countPosts ..
  · exact (exportIds_directFrame ..).trans (exportIds_modExport rfl rfl)

theorem exportIds_openMessage (e : Nat) (s : Chip) : exportIds (openMessage e s) = exportIds s := by
  refine exportIds_modExport ?_ ?_ <;> dsimp only <;> split <;> rfl

theorem exportIds_closeMessage (e : Nat) (s : Chip) : exportIds (closeMessage e s) = exportIds s := by
  unfold closeMessage
  dsimp only
  split
  · rfl
  · exact (exportIds_sendMessage ..).trans (exportIds_modExport rfl rfl)

theorem exportIds_sendTemplate (e : Nat) (s : Chip) : exportIds (sendTemplate e s) = exportIds s := by
  unfold sendTemplate
  dsimp only
  split
  · exact (exportIds_sendMessage ..).trans (exportIds_modExport rfl rfl)
  · rfl

/-- Settings that are replaced are those of one port (R431). -/
theorem record_replaceExport (e k : Nat) (d : List Byte) (s : Chip) :
    (exportSt (replaceExport e d s) k).record = if k = e then d else (exportSt s k).record := by
  have hput : ∀ t : Chip, (exportSt (modExport e (fun x => { x with record := d }) t) k).record = if k = e then d else (exportSt t k).record :=
    fun t => by rw [exportSt_modExport]; split <;> rfl
  have hclose := congrArg Prod.fst (congrFun (exportIds_closeMessage e s) k)
  have hopen := congrArg Prod.fst
    (congrFun (exportIds_openMessage e (modExport e (fun x => { x with record := d }) (closeMessage e s))) k)
  have hopened : (exportSt (openMessage e (modExport e (fun x => { x with record := d }) (closeMessage e s))) k).record =
      if k = e then d else (exportSt s k).record := hopen.trans ((hput _).trans (by rw [show (exportSt (closeMessage e s) k).record = _ from hclose]; rfl))
  unfold replaceExport
  dsimp only
  split
  · exact (congrArg Prod.fst (congrFun (exportIds_sendTemplate e _) k)).trans hopened
  · exact hopened

theorem exportSet_of_checked {o : ExportOps} {v : Port} {s : Chip} (he : o.portE ≤ 1) (hlen : o.payload.len = 192)
    (hbad : exportBad o.payload.data = false) (hp : portOf s (leAt o.payload.data 4 2) = some v)
    (hmax : leAt o.payload.data 0x1C 1 + leAt o.payload.data 6 2 + 4 ≤ v.maxFrame) (hf : isFenced s .tm = false) :
    exportSet o s = (.ok, 0, settle (replaceExport o.portE o.payload.data s)) := by
  unfold exportSet
  dsimp only
  rw [if_neg (by simp [hlen, hbad]; omega), hp]
  dsimp only
  rw [if_neg (by omega), exporterFenced, hf, if_neg (by decide)]

theorem dumpSet_of_checked {ring : Nat} {o : DumpOps} {s : Chip} (hlo : 100 ≤ o.periodUs) (hhi : o.periodUs ≤ 10000000)
    (hdiv : 1000000 % o.periodUs = 0 ∨ o.periodUs % 1000000 = 0) (hsec : o.sections ≠ 0 ∨ o.en = false) (hbase : o.base % 4096 = 0)
    (hcount : o.count ≤ 64) (hbuf : o.count = 0 ∨ payloadOk s ring o.base (0x5C1000 * o.count) true = true) (hf : isFenced s .tm = false) :
    dumpSet ring o s = (.ok, 0, { s with tm :=
      if o.en then { s.tm with dumpEn := o.en, notify := o.notify, base := o.base, period := o.periodUs, sections := o.sections
                               count := o.count, vector := o.vector, ring := ring, seq := 0, skipped := 0 }
      else { s.tm with dumpEn := o.en, notify := o.notify, base := o.base, period := o.periodUs, sections := o.sections
                       count := o.count, vector := o.vector, ring := ring } }) := by
  unfold dumpSet
  rw [if_neg, if_neg, exporterFenced, hf, if_neg (by decide)]
  · simp only [Bool.and_eq_true, decide_eq_true_eq, Bool.not_eq_true', not_and, Bool.not_eq_false]
    exact fun h => hbuf.resolve_left (by omega)
  · simp only [Bool.or_eq_true, Bool.and_eq_true, decide_eq_true_eq, ne_eq]
    rintro ((((((h | h) | ⟨h, h'⟩) | ⟨h, h'⟩) | h) | h))
    · omega
    · omega
    · exact hdiv.elim h h'
    · rw [h'] at hsec; exact hsec.elim (fun hn => hn h) nofun
    · exact h hbase
    · omega

theorem ioamSet_of_checked {o : IoamOps} {s : Chip} (hlen : o.payload.len = 32) (hid : leAt o.payload.data 0 8 < 2 ^ 56)
    (hhl : leAt o.payload.data 0x0C 1 ≠ 0) (hz : allZero (slice o.payload.data 0x0D 3) = true)
    (hz' : allZero (slice o.payload.data 0x18 8) = true) (hf : isFenced s .tm = false) :
    ioamSet o s = (.ok, 0, { s with tm := { s.tm with
      nodeId := leAt o.payload.data 0 8, nsdShort := leAt o.payload.data 8 4, hlBack := leAt o.payload.data 0x0C 1
      nsdWide := leAt o.payload.data 0x10 8 } }) := by
  unfold ioamSet
  dsimp only
  rw [if_neg, exporterFenced, hf, if_neg (by decide)]
  simp only [hlen, hhl, hz, hz', decide_eq_true_eq, ne_eq, not_true_eq_false, decide_false, Bool.false_or, Bool.not_true,
    Bool.or_false, not_le]
  exact hid

/-- Settles O48, Order by Order. -/
theorem telemetryOrders : Obligations.TelemetryOrders := by
  unfold Obligations.TelemetryOrders
  intro s ring
  refine ⟨fun o h hlo hhi hdiv hsec hbase hcount hbuf hf => ?_, fun o v h he hlen hbad hp hmax hf => ?_, fun o h hlen hid hhl hz hz' hf => ?_,
    fun o hn hr hi hlt hb hc => ⟨fun h => ?_, fun h => ?_⟩, fun o hn hk hi hb hc => ?_, fun o h hn hr hi hlen hc => ?_⟩
  · refine ⟨_, ends_of_effect rfl h rfl (dumpSet_of_checked hlo hhi hdiv hsec hbase hcount hbuf hf), ?_⟩
    cases hen : o.en with
    | true => exact ⟨rfl, rfl, rfl, rfl, rfl, rfl, fun _ => ⟨rfl, rfl⟩, rfl, rfl⟩
    | false => exact ⟨rfl, rfl, rfl, rfl, rfl, rfl, nofun, rfl, rfl⟩
  · exact ⟨_, ends_of_effect rfl h rfl (exportSet_of_checked he hlen hbad hp hmax hf), (record_replaceExport ..).trans (if_pos rfl),
      fun k hk => (record_replaceExport ..).trans (if_neg hk)⟩
  · exact ends_of_effect rfl h rfl (ioamSet_of_checked hlen hid hhl hz hz' hf)
  · obtain ⟨t, ht, hmon⟩ := histSet_sets hr hb hc
    exact ⟨t, ends_of_effect rfl h hn ht, fun i _ hne => (hmon i).trans (if_neg (mt (mem_monTargets_one hi i).1 hne)),
      (hmon o.index).trans (if_pos ((mem_monTargets_one hi _).2 rfl))⟩
  · obtain ⟨t, ht, hmon⟩ := histClear_clears hr hb hc
    exact ⟨t, ends_of_effect rfl h hn ht, fun i _ hne => (hmon i).trans (if_neg (mt (mem_monTargets_one hi i).1 hne)),
      (hmon o.index).trans (if_pos ((mem_monTargets_one hi _).2 rfl))⟩
  · have hr : histRange o.kind o.index = false := by rw [hi]; simp [histRange]; exact hk
    rw [← hi] at hn hc
    refine ⟨fun h => ?_, fun h => ?_⟩
    · obtain ⟨t, ht, hmon⟩ := histSet_sets hr hb hc
      exact ⟨t, ends_of_effect rfl h hn ht, fun i hlt => (hmon i).trans (if_pos (hi ▸ mem_monTargets_all o.kind hlt))⟩
    · obtain ⟨t, ht, hmon⟩ := histClear_clears hr hb hc
      exact ⟨t, ends_of_effect rfl h hn ht, fun i hlt => (hmon i).trans (if_pos (hi ▸ mem_monTargets_all o.kind hlt))⟩
  · exact ends_of_effect rfl h hn (histRead_reads hr hi hlen hc)

end Sys2Proof.Machine
end

section
/-!
PROOFS. Telemetry at work (R417 to R421, R427, R429): samples, messages and dumps.
-/

namespace Sys2Proof.Machine

/-! Depth samples (R419) -/

theorem sampleDepths_eq (s : Chip) : sampleDepths s = ((queueList s).filter (fun q => isOn s (.yard (queueYard s q)))).foldl
    (fun t q => setMon 2 q (monAdd false (monOf t 2 q) (depthOf s q)) t) s := rfl

theorem sampleDepths_pkt (s : Chip) : (sampleDepths s).pkt = s.pkt := by
  rw [sampleDepths_eq]
  exact foldl_keeps (φ := Chip.pkt) (f := fun t q => setMon 2 q (monAdd false (monOf t 2 q) (depthOf s q)) t) (fun _ _ => rfl) _ _

theorem sampleDepths_samples {s : Chip} {q : Nat} (hq : (queueList s).count q = 1) (hon : isOn s (.yard (queueYard s q)) = true) :
    monOf (sampleDepths s) 2 q = monAdd false (monOf s 2 q) (depthOf s q) := by
  rw [sampleDepths_eq]
  exact monOf_setMons_once (fun q m => monAdd false m (depthOf s q)) ((List.count_filter (p := fun q => isOn s (.yard (queueYard s q))) hon).trans hq) s

/-! Messages (R417, R418) -/

section
variable (s : Chip) (e : Nat)

/-- An exporting port whose settings stand. -/
theorem encapsulate_congr {x y : ExportSt} (h : x.record = y.record) (msg : List Byte) : encapsulate x msg = encapsulate y msg := by
  unfold encapsulate ExportSt.field
  rw [h]

/-- A message of a port that is configured becomes a DIRECT frame for the port's queue. -/
theorem sendMessage_enters {t : Chip} {x : ExportSt} (hx : (exportSt t e).record = x.record) {h n : Nat}
    (hp : (portOf t (x.field 0x04 2)).isSome = true) (hhalf : usableHalf t 0 = some h) (hhold : chipHold t = false) (msg : List Byte) :
    ∃ f, (sendMessage e n msg t).pkt.jn = t.pkt.jn ++ [f] ∧ f.bytes = encapsulate x msg ∧
      f.direct = some (queueId (x.field 0x04 2) (x.field 0x03 1)) ∧ f.post = some (e, n) := by
  have hfield : (exportSt t e).field = x.field := by unfold ExportSt.field; rw [hx]
  unfold sendMessage
  dsimp only
  rw [hfield, if_neg (by simpa using Option.isSome_iff_ne_none.1 hp), encapsulate_congr hx]
  exact directFrame_enters (s := modExport e _ t) hhalf hhold

theorem pkt_openMessage : (openMessage e s).pkt = s.pkt := rfl

theorem sendMessage_lost {t : Chip} {x : ExportSt} (hx : (exportSt t e).record = x.record) (hp : portOf t (x.field 0x04 2) = none)
    (n : Nat) (msg : List Byte) : sendMessage e n msg t = countPosts e n false t := by
  have hfield : (exportSt t e).field = x.field := by unfold ExportSt.field; rw [hx]
  unfold sendMessage
  dsimp only
  rw [hfield, if_pos (by rw [hp]; rfl)]

theorem countPosts_pkt (n : Nat) : (countPosts e n false s).pkt = s.pkt := by
  unfold countPosts
  split
  · rfl
  · exact (foldl_keeps (φ := Chip.pkt) (fun _ _ => pmcCount_pkt ..) _ _).trans (bump_pkt ..)

/-- Records that are lost are counted (R418). -/
theorem liveW_countPosts {e : Nat} (he : e < 2) {n : Nat} (hn : n ≠ 0) :
    (liveW (countPosts e n false s) (caddr .tm (0x0114 + 8 * e))).toNat =
      min 0xFFFFFFFF ((liveW s (caddr .tm (0x0114 + 8 * e))).toNat + n) := by
  have hcount : ∀ (t : Chip), liveW (pmcCount .tm 0x65 e t) (caddr .tm (0x0114 + 8 * e)) = liveW t (caddr .tm (0x0114 + 8 * e)) := fun t =>
    (Prod.mk.inj (wordView_pmcCount (fun k hk => ⟨by unfold caddr; omega, by unfold caddr; omega⟩) 0x65 e t)).2
  have hlost : countPosts e n false s = (span 0 n).foldl (fun s _ => pmcCount .tm 0x65 e s) (bump .tm (0x0114 + 8 * e) n s) := by
    rw [countPosts, if_neg hn]
    simp only [Bool.false_eq_true, if_false]
  rw [hlost, foldl_keeps (φ := fun t => liveW t (caddr .tm (0x0114 + 8 * e))) (fun t _ => hcount t)]
  exact toNat_liveW_bump ..

end

/-! A message that is due (R418) -/

/-- An exporting port whose open message has been taken. -/
def emptied (e : Nat) (s : Chip) : Chip := modExport e (fun x => { x with open' := [] }) s

theorem record_emptied (e : Nat) (s : Chip) : (exportSt (emptied e s) e).record = (exportSt s e).record := by
  rw [emptied, exportSt_modExport, if_pos rfl]

theorem closeMessage_of_open {e : Nat} {s : Chip} (h : (exportSt s e).open' ≠ []) : closeMessage e s =
    sendMessage e (exportSt s e).open'.length (ipfixMessage s (exportSt s e) 256 (exportSt s e).open'.flatten) (emptied e s) := by
  rw [closeMessage]
  exact if_neg h

theorem open_of_due {s : Chip} {e : Nat} (h : messageDue s e = true) : (exportSt s e).open' ≠ [] := by
  simp only [messageDue, Bool.and_eq_true, decide_eq_true_eq] at h
  exact h.1.2

section
variable {s : State} (hup : exporterUp s.chip = true) {e : Nat} (he : e < 2)
include hup he

theorem becomes_messageClose (hdue : messageDue s.chip e = true) :
    Becomes (.ipfixMessageClose e) s (settle (openMessage e (closeMessage e s.chip))) :=
  becomes_of_onUnit (f := fun s => if exporterUp s && messageDue s e then settle (openMessage e (closeMessage e s)) else s) rfl
    (decide_eq_true he) (by rw [hup, hdue]; rfl)

theorem becomes_templateSend (hdue : templateDue s.chip e = true) : Becomes (.ipfixTemplateSend e) s (settle (sendTemplate e s.chip)) :=
  becomes_of_onUnit (f := fun s => if exporterUp s && templateDue s e then settle (sendTemplate e s) else s) rfl
    (decide_eq_true he) (by rw [hup, hdue]; rfl)

omit hup in
theorem becomes_notDue : (messageDue s.chip e = false → Becomes (.ipfixMessageClose e) s s.chip) ∧
    (templateDue s.chip e = false → Becomes (.ipfixTemplateSend e) s s.chip) :=
  ⟨fun h => becomes_of_onUnit (f := fun s => if exporterUp s && messageDue s e then settle (openMessage e (closeMessage e s)) else s) rfl
      (decide_eq_true he) (by rw [h, Bool.and_false]; rfl),
    fun h => becomes_of_onUnit (f := fun s => if exporterUp s && templateDue s e then settle (sendTemplate e s) else s) rfl
      (decide_eq_true he) (by rw [h, Bool.and_false]; rfl)⟩

end

theorem seq_messageClosed (e : Nat) (s : Chip) : (exportSt (openMessage e (closeMessage e s)) e).seq = (exportSt s e).seq :=
  (congrArg Prod.snd (congrFun (exportIds_openMessage e _) e)).trans (congrArg Prod.snd (congrFun (exportIds_closeMessage e s) e))

/-- The message that is closed, of a port that is configured (R418). -/
theorem messageClose_enters {s : Chip} {e : Nat} (hopen : (exportSt s e).open' ≠ [])
    (hp : (portOf s ((exportSt s e).field 0x04 2)).isSome = true) (hhalf : usableHalf s 0 ≠ none) (hhold : chipHold s = false) :
    ∃ f, (openMessage e (closeMessage e s)).pkt.jn = s.pkt.jn ++ [f] ∧
      f.bytes = encapsulate (exportSt s e) (ipfixMessage s (exportSt s e) 256 (exportSt s e).open'.flatten) ∧
      f.direct = some (queueId ((exportSt s e).field 0x04 2) ((exportSt s e).field 0x03 1)) ∧ f.post = some (e, (exportSt s e).open'.length) := by
  obtain ⟨h, hh⟩ := Option.ne_none_iff_exists'.1 hhalf
  rw [pkt_openMessage, closeMessage_of_open hopen]
  exact sendMessage_enters e (t := emptied e s) (record_emptied e s) hp hh hhold _

/-- Its records are lost where the port is gone (R418). -/
theorem messageClose_lost {s : Chip} {e : Nat} (he : e < 2) (hopen : (exportSt s e).open' ≠ [])
    (hp : portOf s ((exportSt s e).field 0x04 2) = none) :
    (openMessage e (closeMessage e s)).pkt.jn = s.pkt.jn ∧
    (liveW (openMessage e (closeMessage e s)) (caddr .tm (0x0114 + 8 * e))).toNat =
      min 0xFFFFFFFF ((liveW s (caddr .tm (0x0114 + 8 * e))).toNat + (exportSt s e).open'.length) := by
  have hclose : closeMessage e s = countPosts e (exportSt s e).open'.length false (emptied e s) :=
    (closeMessage_of_open hopen).trans (sendMessage_lost e (t := emptied e s) (record_emptied e s) hp ..)
  have hword : ∀ t, liveW (openMessage e t) (caddr .tm (0x0114 + 8 * e)) = liveW t (caddr .tm (0x0114 + 8 * e)) := fun _ => rfl
  refine ⟨?_, ?_⟩
  · rw [pkt_openMessage, hclose, countPosts_pkt]
    rfl
  · rw [hword, hclose, liveW_countPosts _ he (by simpa using hopen)]
    rfl

/-- The template of an enabled port goes out in a message of its own (R417). -/
theorem sendTemplate_enters {s : Chip} {e : Nat} (hen : (exportSt s e).field 0 1 = 1)
    (hp : (portOf s ((exportSt s e).field 0x04 2)).isSome = true) (hhalf : usableHalf s 0 ≠ none) (hhold : chipHold s = false) :
    ∃ f, (sendTemplate e s).pkt.jn = s.pkt.jn ++ [f] ∧
      f.bytes = encapsulate (exportSt s e) (ipfixMessage s (exportSt s e) 2 templateBody) := by
  obtain ⟨h, hh⟩ := Option.ne_none_iff_exists'.1 hhalf
  have hsend : sendTemplate e s = sendMessage e 0 (ipfixMessage s (exportSt s e) 2 templateBody)
      (modExport e (fun x => { x with templAt := runNs s }) s) := by
    rw [sendTemplate]
    exact if_pos hen
  have hrec : (exportSt (modExport e (fun x => { x with templAt := runNs s }) s) e).record = (exportSt s e).record := by
    rw [exportSt_modExport, if_pos rfl]
  obtain ⟨f, hjn, hbytes, -⟩ := sendMessage_enters e (n := 0) hrec (t := modExport e (fun x => { x with templAt := runNs s }) s) hp hh hhold
    (ipfixMessage s (exportSt s e) 2 templateBody)
  exact ⟨f, by rw [hsend]; exact hjn, hbytes⟩

/-! Dumps (R427, R429) -/

/-- What a dump tick rests on beside the clock: the telemetry, the supplies and its Cabin. -/
def dumpBase (s : Chip) : TelemetrySt × PowerSt × CabSt := (s.tm, s.power, cabOf s .tm)

theorem dumpBase_msix (v : Nat) (s : Chip) : dumpBase (msix v s) = dumpBase s := by
  rw [msix, apply_ite dumpBase]
  exact ite_self _

theorem dumpBase_ttEvent (k : Nat) (s : Chip) : dumpBase (ttEvent k s) = dumpBase s := by
  unfold ttEvent
  split
  · rfl
  · dsimp only
    rw [apply_ite dumpBase, dumpBase_msix]
    exact ite_self _

theorem dumpBase_ppsTick (s0 : Chip) (k : Nat) (s : Chip) : dumpBase (ppsTick s0 k s) = dumpBase s := by
  unfold ppsTick
  split
  · rfl
  · split
    · rfl
    · split <;> rfl

theorem dumpBase_modCab (f : CabSt → CabSt) (s : Chip) : dumpBase (modCab .tt f s) = dumpBase s := by
  have hcab : cabOf (modCab .tt f s) .tm = cabOf s .tm := (cabOf_modCab ..).trans (if_neg (by decide))
  unfold dumpBase
  rw [hcab]
  rfl

theorem cabs_ksRecord (src cls sev ts : Nat) (f : FaultSt) : (ksRecord src cls sev ts f).cabs = f.cabs := by
  unfold ksRecord
  dsimp only
  split <;> rfl

theorem dumpBase_faults {s : Chip} {f : FaultSt} (h : f.cabs = s.faults.cabs) : dumpBase { s with faults := f } = dumpBase s := by
  unfold dumpBase cabOf
  dsimp only
  rw [h]

theorem dumpBase_setLive (ca : Nat) (v : Word) (s : Chip) : dumpBase (setLive ca v s) = dumpBase s := rfl

theorem dumpBase_errUpdate (s : Chip) : dumpBase (errUpdate s) = dumpBase s := dumpBase_faults rfl

theorem dumpBase_faultRecorded (loc cls own : Nat) (s : Chip) : dumpBase (faultRecorded true .tt loc cls own s) = dumpBase s := by
  rw [faultRecorded, apply_ite dumpBase, dumpBase_msix, ite_self, bumpField, setField', dumpBase_setLive,
    dumpBase_faults (cabs_ksRecord ..), if_pos rfl, dumpBase_modCab]

/-- A fault of the Timetable without a reaction leaves the exporter alone. -/
theorem dumpBase_raise_tt (loc cls : Nat) (s : Chip) : dumpBase (raise .tt loc cls 0 s) = dumpBase s := by
  rw [raise_of_minor (by decide)]
  split
  · exact dumpBase_modCab ..
  · rw [dumpBase_errUpdate, dumpBase_faultRecorded]

theorem dumpBase_clockTick {s : Chip} (hpower : aonLost s = false) : dumpBase (clockTick s) = dumpBase s := by
  have hmoved : dumpBase (clockMoved s) = dumpBase s := by
    rw [clockMoved, apply_ite dumpBase, dumpBase_ttEvent]
    exact ite_self _
  have hidle : dumpBase (idleTick s) = dumpBase s := by rw [idleTick_of_power hpower, dumpBase_ppsTick, dumpBase_ppsTick, hmoved]
  have hheld : ∀ t, dumpBase (wdogHeld t) = dumpBase t := fun t =>
    (dumpBase_ttEvent ..).trans (foldl_keeps (φ := dumpBase) (f := fun s k => ppsFall k s) (fun _ _ => rfl) _ _)
  unfold clockTick
  dsimp only
  split
  · unfold wdogEnter
    split
    · exact hidle
    · exact (dumpBase_raise_tt ..).trans ((hheld _).trans hidle)
  · exact hidle

theorem exporterUp_congr {s t : Chip} (h : dumpBase t = dumpBase s) : exporterUp t = exporterUp s := by
  obtain ⟨-, h⟩ := Prod.mk.inj h
  obtain ⟨hpow, hcab⟩ := Prod.mk.inj h
  unfold exporterUp dead inReset isFenced
  rw [hpow, hcab]

section
variable {s : Chip} (hup : exporterUp s = true) (hpass : dumpPasses s = true)
include hup hpass

theorem blockTick_dumps : (blockTick s).tm = (dumpTick (clockTick s)).tm ∧ exporterUp (clockTick s) = true ∧ (clockTick s).tm = s.tm ∧
    s.tm.dumpEn = true := by
  have hpass' := hpass
  simp only [dumpPasses, Bool.and_eq_true, Bool.not_eq_true'] at hpass'
  have hbase := dumpBase_clockTick hpass'.1.2
  have htick := (blockTick_ticked s).tm
  rw [if_pos hpass] at htick
  exact ⟨htick, (exporterUp_congr hbase).trans hup, congrArg Prod.fst hbase, hpass'.1.1⟩

/-- The tick of a multiple of PERIOD_US captures a record (R427). -/
theorem blockTick_captures (hidle : s.tm.writing = none) : ∃ r, (blockTick s).tm.writing = some r ∧ r.seq = s.tm.seq + 1 ∧
    (blockTick s).tm.seq = s.tm.seq + 1 ∧ r.sections = s.tm.sections ∧ r.skipped = s.tm.skipped ∧ (blockTick s).tm.skipped = 0 := by
  obtain ⟨htm, hup', hsame, hen⟩ := blockTick_dumps hup hpass
  have hcap : dumpTick (clockTick s) = capture (clockTick s) := by
    rw [dumpTick, hup', hsame, hen, hidle]
    rfl
  rw [htm, hcap, ← hsame]
  exact ⟨_, rfl, rfl, rfl, rfl, rfl, rfl⟩

/-- While a record is being written it is skipped (R427). -/
theorem blockTick_skips (hbusy : s.tm.writing ≠ none) : (blockTick s).tm.writing = s.tm.writing ∧ (blockTick s).tm.seq = s.tm.seq ∧
    (blockTick s).tm.skipped = min 0xFFFFFFFF (s.tm.skipped + 1) := by
  obtain ⟨htm, hup', hsame, hen⟩ := blockTick_dumps hup hpass
  have hskip : dumpTick (clockTick s) = { clockTick s with tm := { s.tm with skipped := satAdd max32 s.tm.skipped 1 } } := by
    rw [dumpTick, hup', hsame, hen, Option.isSome_iff_ne_none.2 hbusy]
    rfl
  rw [htm, hskip]
  exact ⟨rfl, rfl, satAdd_eq_min ..⟩

end

/-! A record that is written (R429) -/

theorem hostByte_writes {base a : Nat} (h : a < base) (l : List (Nat × List Byte)) (s : Chip) :
    hostByte (l.foldl (fun s p => hostWrite (base + p.1) p.2 s) s) a = hostByte s a :=
  foldl_keeps (φ := fun s => hostByte s a) (f := fun s (p : Nat × List Byte) => hostWrite (base + p.1) p.2 s)
    (fun s p => by rw [hostByte_hostWrite, if_neg (by omega)]) _ _

theorem tm_writes (base : Nat) (l : List (Nat × List Byte)) (s : Chip) :
    (l.foldl (fun s p => hostWrite (base + p.1) p.2 s) s).tm = s.tm :=
  foldl_keeps (φ := Chip.tm) (f := fun s (p : Nat × List Byte) => hostWrite (base + p.1) p.2 s) (fun _ _ => rfl) _ _

theorem bump_tm (i : Isl) (off n : Nat) (s : Chip) : (bump i off n s).tm = s.tm := by
  unfold bump bumpField setField'
  exact setLive_tm ..

theorem bump_hostMem (i : Isl) (off n : Nat) (s : Chip) : (bump i off n s).hostMem = s.hostMem := by
  unfold bump bumpField setField'
  exact setLive_hostMem ..

theorem msix_tm (v : Nat) (s : Chip) : (msix v s).tm = s.tm := by
  rw [msix, apply_ite Chip.tm]
  exact ite_self _

theorem dumpWritten_ends {s : Chip} {r : DumpRec} (h : s.tm.writing = some r) :
    (dumpWritten s).tm = { s.tm with writing := none, last := some r } ∧
    ∀ a, (r.count = 0 ∨ a < r.base + 0x5C1000 * ((r.seq - 1) % r.count)) → hostByte (dumpWritten s) a = hostByte s a := by
  unfold dumpWritten
  rw [h]
  dsimp only
  split
  · exact ⟨rfl, fun _ _ => rfl⟩
  · next hcount =>
    have hlt : ∀ a, (r.count = 0 ∨ a < r.base + 0x5C1000 * ((r.seq - 1) % r.count)) → a < r.base + 0x5C1000 * ((r.seq - 1) % r.count) :=
      fun a ha => ha.resolve_left hcount
    generalize r.base + 0x5C1000 * ((r.seq - 1) % r.count) = base at hlt ⊢
    split
    · exact ⟨bump_tm .., fun _ _ => by rw [hostByte, bump_hostMem]; rfl⟩
    · split
      · exact ⟨tm_writes .., fun a ha => (hostByte_writes (hlt a ha) ..).trans rfl⟩
      · exact ⟨(msix_tm ..).trans (tm_writes ..), fun a ha => by
          rw [hostByte, msix_hostMem]; exact (hostByte_writes (hlt a ha) ..).trans rfl⟩

/-- Settles O47: the samples, the messages of an exporting port, and the dumps. -/
theorem telemetryEvents : Obligations.TelemetryEvents := by
  unfold Obligations.TelemetryEvents
  intro s hup
  have hdead : dead s.chip = false := by
    simp only [exporterUp, Bool.and_eq_true, Bool.not_eq_true'] at hup
    exact hup.1
  have htick : ∀ b, dumpPasses s.chip = b → Becomes .dumpTick s (if b then blockTick s.chip else s.chip) := fun b hb =>
    becomes_of_onChip (f := fun s => if dumpPasses s then blockTick s else s) rfl (by rw [hb])
  refine ⟨⟨_, becomes_of_onChip (f := fun s => if dead s then s else sampleDepths s) rfl (if_neg (Bool.eq_false_iff.1 hdead)),
    sampleDepths_pkt _, fun q hq hon => sampleDepths_samples hq hon⟩, fun e he => ⟨fun hdue => ?_, (becomes_notDue he).1,
      fun hdue hen hp hhalf hhold => ?_, (becomes_notDue he).2⟩, fun hpass => ⟨fun hidle => ?_, fun hbusy => ?_⟩, htick false, fun r hr => ?_⟩
  · have hopen := open_of_due hdue
    exact ⟨_, becomes_messageClose hup he hdue, seq_messageClosed ..,
      fun hp hhalf hhold => messageClose_enters hopen hp hhalf hhold, fun hp => messageClose_lost he hopen hp⟩
  · obtain ⟨f, hjn, hbytes⟩ := sendTemplate_enters hen hp hhalf hhold
    exact ⟨_, f, becomes_templateSend hup he hdue, hjn, hbytes, congrArg Prod.snd (congrFun (exportIds_sendTemplate e s.chip) e)⟩
  · obtain ⟨r, hr⟩ := blockTick_captures hup hpass hidle
    exact ⟨_, r, htick true hpass, hr⟩
  · exact ⟨_, htick true hpass, blockTick_skips hup hpass hbusy⟩
  · obtain ⟨htm, hmem⟩ := dumpWritten_ends hr
    exact ⟨_, becomes_of_onChip (f := fun s => if exporterUp s then dumpWritten s else s) rfl (if_pos hup),
      congrArg TelemetrySt.writing htm, congrArg TelemetrySt.last htm, hmem⟩

end Sys2Proof.Machine
end

section
/-!
PROOFS. Acknowledging and clearing (R443 to R445), and a handshake without an answer (R26, R447): what each leaves of every Cabin's record.
-/

namespace Sys2Proof.Machine

/-! FAULT_ACK (R443) -/

/-- What FAULT_ACK makes of one Cabin's record and of one class word. -/
def ackCab (classes : Nat) (c : CabSt) : CabSt := { c with unacked := c.unacked.filter (fun k => !bit classes k) }

/-- A record in which none of some classes waits for its acknowledgement. -/
def AllAcked (classes : Nat) (c : CabSt) : Prop := ∀ k, bit classes k = true → c.unacked.contains k = false

theorem allAcked_default (classes : Nat) : AllAcked classes {} := fun _ _ => rfl

theorem allAcked_ackCab (classes : Nat) (c : CabSt) : AllAcked classes (ackCab classes c) := by
  intro k hk
  rw [ackCab, List.contains_eq_mem, decide_eq_false]
  simp [hk]

theorem allAcked_mapCabs (classes : Nat) (s : Chip) (i : Isl) : AllAcked classes (cabOf (mapCabs (ackCab classes) s) i) := by
  refine sget_of_forall (allAcked_default classes) (fun x hx => ?_) i.code
  obtain ⟨y, -, rfl⟩ := List.mem_map.1 (List.mem_filter.1 hx).1
  exact allAcked_ackCab classes y.2

/-- The class words after FAULT_ACK. -/
def ackClasses (classes : Nat) (m : Sparse ClassSt) : Sparse ClassSt :=
  (m.map (fun x => (x.1, if bit classes x.1 then { x.2 with unack := false } else x.2))).filter (fun x => x.2 ≠ {})

/-- The word a sparse map reads at a key is its default or one listed under that key. -/
theorem sget_default_or_mem {α : Type} (d : α) (m : Sparse α) (k : Nat) : sget d m k = d ∨ (k, sget d m k) ∈ m := by
  induction m with
  | nil => exact .inl rfl
  | cons x m ih =>
    rw [sget]
    split
    · next h => exact .inr (by simp [← h])
    · exact ih.imp_right (List.mem_cons_of_mem _)

theorem unack_ackClasses {classes c : Nat} (h : bit classes c = true) (m : Sparse ClassSt) : (sget {} (ackClasses classes m) c).unack = false := by
  obtain hd | hmem := sget_default_or_mem {} (ackClasses classes m) c
  · rw [hd]
  · obtain ⟨y, -, hy⟩ := List.mem_map.1 (List.mem_filter.1 hmem).1
    obtain ⟨rfl, hval⟩ := Prod.mk.inj hy
    rw [← hval, if_pos h]

/-- What FAULT_ACK leaves of the chip. -/
def afterAck (classes : Nat) (s : Chip) : Chip :=
  let t := mapCabs (ackCab classes) s
  { t with faults := { t.faults with
    classes := ackClasses classes t.faults.classes
    firstAcked := t.faults.firstAcked || (t.faults.firstValid && bit classes t.faults.firstCls) } }

theorem faultAckRun_of_out_of_range {classes : Nat} (h : classes = 0 ∨ 0x1000 ≤ classes) (s : Chip) :
    faultAckRun classes s = (.badOperand, 0, s) := by
  rw [faultAckRun, if_pos (by simpa using h)]

theorem faultAckRun_of_classes {classes : Nat} (h0 : classes ≠ 0) (h : classes < 0x1000) (s : Chip) :
    faultAckRun classes s = (.ok,
      BitVec.ofNat 64 (maskOf ((span 0 12).filter (fun c => bit classes c && (sget {} s.faults.classes c).unack))), afterAck classes s) := by
  rw [faultAckRun, if_neg (by simp; omega)]
  rfl

/-! FAULT_CLEAR (R445) -/

section
variable {o : FaultClearOps} {i : Isl} (hall : o.all = false) (hisl : o.island < 0x1000) (hi : islOf o.island = some i)
include hall hisl hi

theorem faultClearRun_of_no_record {s : Chip} (h : (cabOf s i).valid = false) : faultClearRun o s = (.notFound, 0, s) := by
  simp [faultClearRun, hall, not_le.2 hisl, hi, h]

theorem faultClearRun_of_notAcked {s : Chip} (h : (cabOf s i).valid = true) (hack : (cabOf s i).acked = false) :
    faultClearRun o s = (.notAcked, clearResult 0 0 1, s) := by
  have hblock : clearBlock s i = some .notAcked := by simp [clearBlock, hack]
  simp [faultClearRun, hall, not_le.2 hisl, hi, h, hblock]

theorem faultClearRun_of_causePresent {s : Chip} (h : (cabOf s i).valid = true) (hack : (cabOf s i).acked = true)
    (hcause : causePresent s i = true) : faultClearRun o s = (.causePresent, clearResult 0 1 0, s) := by
  have hblock : clearBlock s i = some .causePresent := by simp [clearBlock, hack, hcause]
  simp [faultClearRun, hall, not_le.2 hisl, hi, h, hblock]

theorem faultClearRun_of_clear {s : Chip} (h : (cabOf s i).valid = true) (hblock : clearBlock s i = none) :
    faultClearRun o s = (.ok, clearResult 1 0 0, afterClear (modCab i CabSt.cleared s)) := by
  simp [faultClearRun, hall, not_le.2 hisl, hi, h, hblock]

end

theorem afterClear_cabs (s : Chip) : (afterClear s).faults.cabs = s.faults.cabs := by
  unfold afterClear
  split <;> rfl

theorem cabOf_afterClear (i : Isl) (s : Chip) : cabOf (afterClear s) i = cabOf s i := by
  rw [cabOf, afterClear_cabs, cabOf]

theorem afterClear_pkt (s : Chip) : (afterClear s).pkt = s.pkt := by
  unfold afterClear
  split <;> rfl

/-! A handshake without an answer (R26, R447) -/

theorem handshakeTimeout_of_silent {w v : Isl} {s : Chip} (hup : dead s = false) (hw : isOn s w = true) (hv : isOn s v = true)
    (hf : isFenced s v = false) (hne : w ≠ v) (records : Bool) : handshakeTimeout w v records s =
      raiseIn records v 0xF3 clsHandshake 3 (fenceIsland v 5 (raise w 0xF2 clsHandshake 2 s)) := by
  rw [handshakeTimeout, if_neg (by simp [hup, hw, hv, hf, hne])]

/-! The statement -/

/-- Settles O50: what FAULT_ACK leaves of every record, FAULT_CLEAR of one Cabin by what stands in its way, and the silent island. -/
theorem faultOrders : Obligations.FaultOrders := by
  unfold Obligations.FaultOrders
  refine fun s ring => ⟨fun classes h => ⟨fun hr => ?badClasses, fun h0 hr => ?ack⟩, fun o i h hall hisl hi => ?clear,
    fun w v waiting silent records hw hv hup hwOn hvOn hf hne => ?silent⟩
  case badClasses => exact ends_of_effect rfl h rfl (faultAckRun_of_out_of_range hr _)
  case ack =>
    refine ⟨afterAck classes s.chip, ends_of_effect rfl h rfl (faultAckRun_of_classes h0 hr _), fun c hc => unack_ackClasses hc _,
      fun i c hc => allAcked_mapCabs classes s.chip i c hc, rfl, rfl⟩
  case clear =>
    refine ⟨fun hval => ends_of_effect rfl h rfl (faultClearRun_of_no_record hall hisl hi hval),
      fun hval hack => ends_of_effect rfl h rfl (faultClearRun_of_notAcked hall hisl hi hval hack),
      fun hval hack hcause => ends_of_effect rfl h rfl (faultClearRun_of_causePresent hall hisl hi hval hack hcause),
      fun hval hblock => ⟨_, ends_of_effect rfl h rfl (faultClearRun_of_clear hall hisl hi hval hblock), ?_⟩⟩
    simp only [cabOf_afterClear, cabOf_modCab, afterClear_pkt, if_true]
    exact ⟨rfl, rfl, rfl, rfl, fun j hj => if_neg hj, rfl⟩
  case silent =>
    refine becomes_of_onChip (show _ = execHandshakeTimeout waiting silent records s from rfl) ?_
    rw [hw, hv, ← handshakeTimeout_of_silent hup hwOn hvOn hf hne records]

end Sys2Proof.Machine
end

section
/-!
PROOFS. `UNIT_FENCE` and `UNIT_UNFENCE` (R455, R456): what a reset and the words of its shadow leave of an island's fence and record, what marks
an island in repair, and the return of a Junction half.
-/

namespace Sys2Proof.Machine

/-! The reset of an island leaves the records of the Cabins, and but for a Quarry's the Orders (R113, R440) -/

theorem endRetrain_faults (st st' : Status) (c : Nat) (s : Chip) : (endRetrain st st' c s).faults = s.faults :=
  (foldl_keeps (φ := Chip.faults) (f := fun s r => finishOrder r st' 0 s) (fun _ _ => rfl) _ _).trans
    (foldl_keeps (φ := Chip.faults) (f := fun s r => finishOrder r st 0 s) (fun _ _ => rfl) _ _)

theorem lanesDown_faults (k : Nat) (s : Chip) : (lanesDown k s).faults = s.faults :=
  foldl_keeps (φ := Chip.faults) (f := fun s l => modLane l (fun v => { v with los := true, lock := false, sd := false }) s) (fun _ _ => rfl) _ _

theorem lanesDown_host (k : Nat) (s : Chip) : (lanesDown k s).host = s.host :=
  foldl_keeps (φ := Chip.host) (f := fun s l => modLane l (fun v => { v with los := true, lock := false, sd := false }) s) (fun _ _ => rfl) _ _

theorem resetLine_faults (egress : Bool) (n : Nat) (s : Chip) : (resetLine egress n s).faults = s.faults := by
  simp [resetLine, apply_ite Chip.faults]

theorem resetLine_host (egress : Bool) (n : Nat) (s : Chip) : (resetLine egress n s).host = s.host := by
  simp [resetLine, apply_ite Chip.host]

theorem modLanes_faults (l : List Nat) (s : Chip) : (l.foldl (fun s l => modLane l (fun _ => {}) s) s).faults = s.faults :=
  foldl_keeps (φ := Chip.faults) (f := fun s l => modLane l (fun _ => {}) s) (fun _ _ => rfl) _ _

theorem modLanes_host (l : List Nat) (s : Chip) : (l.foldl (fun s l => modLane l (fun _ => {}) s) s).host = s.host :=
  foldl_keeps (φ := Chip.host) (f := fun s l => modLane l (fun _ => {}) s) (fun _ _ => rfl) _ _

theorem modChans_faults (l : List Nat) (s : Chip) : (l.foldl (fun s c => modChan c (fun _ => {}) s) s).faults = s.faults :=
  foldl_keeps (φ := Chip.faults) (f := fun s c => modChan c (fun _ => {}) s) (fun _ _ => rfl) _ _

theorem clearSecys_faults (k : Nat) (s : Chip) : (clearSecys k s).faults = s.faults := rfl
theorem clearSecys_host (k : Nat) (s : Chip) : (clearSecys k s).host = s.host := rfl

theorem endRetrains_faults (l : List Nat) (s : Chip) :
    (l.foldl (fun s c => endRetrain .fenced .fenced c s) s).faults = s.faults :=
  foldl_keeps (φ := Chip.faults) (f := fun s c => endRetrain .fenced .fenced c s) (fun _ _ => endRetrain_faults ..) _ _

theorem resetIsland_faults (i : Isl) (s : Chip) : (resetIsland i s).faults = s.faults := by
  unfold resetIsland
  have hbase : (clearMons i (resetWords i s)).faults = s.faults := rfl
  generalize clearMons i (resetWords i s) = t at hbase ⊢
  rw [← hbase]
  cases i
  case platform k => exact (modLanes_faults ..).trans ((clearSecys_faults ..).trans (lanesDown_faults k t))
  case quarry q => exact (modChans_faults ..).trans ((modPkt_faults ..).trans (endRetrains_faults _ t))
  case iline n => exact resetLine_faults false n t
  case eline n => exact resetLine_faults true n t
  all_goals rfl

theorem resetIsland_host {i : Isl} (hi : ∀ q, i ≠ .quarry q) (s : Chip) : (resetIsland i s).host = s.host := by
  unfold resetIsland
  have hbase : (clearMons i (resetWords i s)).host = s.host := rfl
  generalize clearMons i (resetWords i s) = t at hbase ⊢
  rw [← hbase]
  cases i
  case platform k => exact (modLanes_host ..).trans ((clearSecys_host ..).trans (lanesDown_host k t))
  case quarry q => exact absurd rfl (hi q)
  case iline n => exact resetLine_host false n t
  case eline n => exact resetLine_host true n t
  all_goals rfl

theorem restoreWords_faults (i : Isl) (s : Chip) : (restoreWords i s).faults = s.faults :=
  foldl_keeps (φ := Chip.faults) (f := fun s (x : Nat × Word) => setLive (caddr i x.1) x.2 s) (fun _ _ => setLive_faults ..) _ _

theorem ringOf_congr {s t : Chip} (h : t.host = s.host) : ringOf t = ringOf s := by
  funext k
  rw [ringOf, h, ringOf]

theorem cabOf_congr {s t : Chip} (h : t.faults = s.faults) (i : Isl) : cabOf t i = cabOf s i := by
  rw [cabOf, h, cabOf]

theorem cabOf_resetRestore (i j : Isl) (s : Chip) : cabOf (resetRestore i s) j = cabOf s j :=
  cabOf_congr ((restoreWords_faults i _).trans (resetIsland_faults i s)) j

/-- An Order at work that has not begun runs the same, whether its effect can be taken up again or not. -/
theorem runWith_atWork {s : State} {ring : Nat} {c : Instr} (h : AtWork s ring c) (again : Bool) (needs : Chip → List Nat)
    (eff : Chip → Ran) : runWith again ring c needs eff s.chip = runOrder ring c needs eff s.chip := by
  obtain ⟨_, hd, hh, o, hr, hc, ho, hb⟩ := h
  simp only [runOrder, runWith, hr, hb, Bool.false_and]

/-! UNIT_FENCE (R455) -/

section
variable {o : UnitOps} {s : Chip}

theorem unitFenceRun_of_refused {e : Status} (h : unitOf o = .inl e) : unitFenceRun o s = (e, 0, s) := by
  rw [unitFenceRun, h]

theorem unitFenceRun_of_fenced {u : FUnit} (h : unitOf o = .inr u) (hf : unitFenced s u = true) : unitFenceRun o s = (.ok, 1, s) := by
  simp [unitFenceRun, h, hf]

theorem unitFenceRun_of_island {i : Isl} (h : unitOf o = .inr (.island i)) (hf : isFenced s i = false) :
    unitFenceRun o s = (.ok, 0, settle (fenceIsland i 2 s)) := by
  simp [unitFenceRun, h, unitFenced, hf]

end

/-! The marks of a repair (R456) -/

/-- A Cabin's record as its island comes into repair. -/
def inRepair (sub : Nat) (c : CabSt) : CabSt := { c with repair := true, repairSub := if sub = 0xFF then 0xFF else sub, again := false }

/-- The islands of a unit come into repair. -/
def markRepair (sub : Nat) (g : List Isl) (s : Chip) : Chip := g.foldl (fun s i => modCab i (inRepair sub) s) s

theorem cabOf_markRepair (sub : Nat) (g : List Isl) (j : Isl) (s : Chip) :
    cabOf (markRepair sub g s) j = if j.code ∈ g.map Isl.code then inRepair sub (cabOf s j) else cabOf s j := by
  induction g generalizing s with
  | nil => rfl
  | cons i g ih =>
    rw [markRepair, List.foldl_cons, ← markRepair, ih, cabOf_modCab]
    by_cases hi : j.code = i.code
    · have hj : cabOf s i = cabOf s j := by rw [cabOf, ← hi, cabOf]
      simp [hi, hj, inRepair]
    · simp [hi]

theorem markRepair_host (sub : Nat) (g : List Isl) (s : Chip) : (markRepair sub g s).host = s.host :=
  foldl_keeps (φ := Chip.host) (f := fun s i => modCab i (inRepair sub) s) (fun _ _ => rfl) _ _

/-- What the command does of an Order at work that has not begun: it starts the repair, and carries it to its end where the training has. -/
theorem unitUnfenceRun_of_unit {s : State} {ring : Nat} {o : UnitOps} {u : FUnit} (h : AtWork s ring (.unitUnfence ring o {}))
    (hks : islOf o.island ≠ some .ks) (hu : unitOf o = .inr u) (hidle : pairIdle s.chip u = none) (env : TrainEnv) :
    unitUnfenceRun ring o env s.chip =
      match unfenceCheck env u s.chip with
      | some (e, r) => .done e r s.chip
      | none =>
        let t := markRepair o.sub (repairGroup s.chip u) s.chip
        if env.ended then .done (finishRepair u env t).1 (finishRepair u env t).2.1 (finishRepair u env t).2.2 else .going t := by
  obtain ⟨-, -, -, run, hrun, -, -, hbegun⟩ := h
  simp only [unitUnfenceRun, hks, hu, hidle, hrun, hbegun, decide_false, Bool.false_and, Bool.false_eq_true, if_false]
  rfl

theorem exec_unitUnfence {s : State} {ring : Nat} {o : UnitOps} (h : AtWork s ring (.unitUnfence ring o {})) (env : TrainEnv) :
    exec (.unitUnfence ring o env) s = onUnit (decide (ring < 64)) s fun _ =>
      runOrder ring (.unitUnfence ring o {}) (unfenceNeeds o env) (unitUnfenceRun ring o env) s.chip := by
  rw [← runWith_atWork h true _ _]
  rfl

section
variable {s : State} {ring : Nat} {o : UnitOps} {env : TrainEnv} (h : AtWork s ring (.unitUnfence ring o {}))
  (hn : unfenceNeeds o env s.chip = [])
include h hn

theorem ends_of_unfence {st : Status} {res : DWord} {t : Chip} (he : unitUnfenceRun ring o env s.chip = .done st res t) :
    Ends (.unitUnfence ring o env) s ring st res t := by
  rw [Ends, Becomes, exec_unitUnfence h, onUnit_next (decide_eq_true h.1), runOrder_atWork h _ _ hn, he]

theorem begun_of_unfence {t : Chip} (he : unitUnfenceRun ring o env s.chip = .going t) (ht : ringOf t = ringOf s.chip) :
    ∃ u run, u.faults = t.faults ∧ Becomes (.unitUnfence ring o env) s u ∧ (ringOf u ring).running = some run ∧ run.outcome = none ∧
      run.begun = true := by
  obtain ⟨run, hrun, -, hout, -⟩ := h.2.2.2
  refine ⟨modRing ring (fun v => { v with running := v.running.map fun o => { o with begun := true } }) t,
    { run with begun := true }, rfl, ?_, ?_, hout, rfl⟩
  · rw [Becomes, exec_unitUnfence h, onUnit_next (decide_eq_true h.1), runOrder_atWork h _ _ hn, he]
  · rw [ringOf_modRing, if_pos rfl, ht]
    exact congrArg (Option.map fun o => { o with begun := true }) hrun

end

/-! A Junction half returns (R454, R456) -/

/-- The unit that is the Junction half `h`, as a repair returns it. -/
def jnBack (h : Nat) (s : Chip) : Chip := endRepair [.jn h] (liftFence (.jn h) (resetRestore (.jn h) s))

theorem finishRepair_jn {h : Nat} {s : Chip} (hagain : (cabOf s (.jn h)).again = false) (env : TrainEnv) :
    finishRepair (.island (.jn h)) env s = (.ok, 0, errUpdate (settle (jnBack h s))) := by
  have hspoiled : spoiled s (repairGroup s (.island (.jn h))) = false := by simp [spoiled, repairGroup, FUnit.isl, hagain]
  unfold finishRepair
  dsimp only
  rw [hspoiled]
  rfl

theorem cabOf_jnBack (h : Nat) (s : Chip) : cabOf (jnBack h s) (.jn h) =
    { cabOf s (.jn h) with fenced := false, cause := 0, gen := ((cabOf s (.jn h)).gen + 1) % 256, repair := false, repairSub := 0xFF,
                           again := false } := by
  simp [jnBack, endRepair, liftFence, cabOf_modCab, cabOf_resetRestore]

/-! The statement -/

/-- Settles O51: the fence by whether the unit stands fenced, and the repair by its checks, its marks and its end. -/
theorem unitOrders : Obligations.UnitOrders := by
  unfold Obligations.UnitOrders
  refine fun s ring o => ⟨fun h hn => ⟨fun e he => ends_of_effect rfl h hn (unitFenceRun_of_refused he),
    fun u hu hf => ends_of_effect rfl h hn (unitFenceRun_of_fenced hu hf),
    fun i hi hf => ends_of_effect rfl h hn (unitFenceRun_of_island hi hf)⟩, fun env h hn hks u hu hidle => ?_⟩
  have hrun := unitUnfenceRun_of_unit h hks hu hidle env
  refine ⟨fun e r hcheck => ?refused, fun hcheck hend => ?starts, fun k hk hcheck hend => ?returns⟩
  case refused =>
    rw [hcheck] at hrun
    exact ends_of_unfence h hn hrun
  case starts =>
    rw [hcheck] at hrun
    simp only [hend, Bool.false_eq_true, if_false] at hrun
    obtain ⟨t, run, hfaults, ht, hrunning, hout, hbegun⟩ := begun_of_unfence h hn hrun (ringOf_congr (markRepair_host ..))
    refine ⟨t, run, ht, fun i hi => ?_, hrunning, hout, hbegun⟩
    rw [cabOf_congr hfaults, cabOf_markRepair, if_pos (List.mem_map_of_mem hi)]
    exact ⟨rfl, rfl⟩
  case returns =>
    subst hk
    have hmark : cabOf (markRepair o.sub [.jn k] s.chip) (.jn k) = inRepair o.sub (cabOf s.chip (.jn k)) := by
      rw [cabOf_markRepair, if_pos (by simp)]
    rw [hcheck] at hrun
    simp only [hend, if_true] at hrun
    rw [show repairGroup s.chip (.island (.jn k)) = [.jn k] from rfl, finishRepair_jn (congrArg CabSt.again hmark)] at hrun
    refine ⟨_, ends_of_unfence h hn hrun, ?_⟩
    rw [isFenced, cabOf_jnBack]
    exact ⟨rfl, congrArg (fun c => (c.gen + 1) % 256) hmark, rfl⟩

end Sys2Proof.Machine
end

section
/-!
PROOFS. `BIST_RUN` (R485 to R492): how each OP ends, what the end of a test leaves of the records and of its own Order, and the CUT bits.
-/

namespace Sys2Proof.Machine

/-! RUN, READ and ABORT (R485, R486, R491) -/

/-- The test that a RUN starts. -/
def startedRun (ring : Nat) (o : BistOps) (i : Isl) : BistRun :=
  { island := (bistIsland i).code, sub := o.sub, type := o.type, ret := o.ret, ring := ring, payload := o.payload.map (fun p => p.addr) }

/-- The chip on which the test of a target starts: fenced, its keys cleared. -/
def readied (o : BistOps) (i : Isl) (s : Chip) : Chip := bistClearKeys i o.type (settle (bistFence i o.sub o.type s))

/-- The chip with that test running, the result kept of its target forgotten. -/
def started (ring : Nat) (o : BistOps) (i : Isl) (s : Chip) : Chip :=
  let u := readied o i s
  { u with bist := { runs := u.bist.runs ++ [startedRun ring o i], results := sdel u.bist.results (bistKey i o.sub) } }

theorem bistRuns_started (ring : Nat) (o : BistOps) (i : Isl) (s : Chip) : bistRuns (started ring o i s) [i] = true := by
  simp [bistRuns, started, startedRun]

theorem results_started (ring : Nat) (o : BistOps) (i : Isl) (s : Chip) (k : Nat) : sget [] (started ring o i s).bist.results k =
    if k = bistKey i o.sub then [] else sget [] (readied o i s).bist.results k := by
  rw [started, sget_eq, sfind_sdel, sget_eq]
  split <;> rfl

section
variable {o : BistOps} {i : Isl} {s : Chip} {ring : Nat} {cond : BistCond} (hi : bistTarget o s = .inr i)
include hi

theorem bistNeeds_of_busy (hb : bistBusy i s = true) : bistNeeds o s = [] := by
  simp [bistNeeds, hi, hb]

theorem bistNeeds_of_on (hb : bistBusy i s = false) (hd : repairDomains s (bistGroup i) = []) : bistNeeds o s = [] := by
  simp [bistNeeds, hi, hb, hd]

theorem bistRun_of_busy (hb : bistBusy i s = true) : bistRun ring o cond s = .done .busy 0 s := by
  simp [bistRun, hi, hb]

theorem bistRun_of_conditions (hb : bistBusy i s = false) (hc : (cond.clock && cond.supply) = false) :
    bistRun ring o cond s = .done .conditions 0 (raise i 0xF1 clsBist 0 s) := by
  have hc' : (!cond.clock || !cond.supply) = true := by rw [← Bool.not_and, hc]; rfl
  simp only [bistRun, hi, hb, hc', Bool.false_eq_true, if_true, if_false]

theorem bistRun_starts (hb : bistBusy i s = false) (hclock : cond.clock = true) (hsupply : cond.supply = true) :
    bistRun ring o cond s = .going (started ring o i s) := by
  simp only [bistRun, hi, hb, hclock, hsupply, Bool.not_true, Bool.or_self, Bool.false_eq_true, if_false]
  rfl

theorem bistRead_of_none (h : sget [] s.bist.results (bistKey i o.sub) = []) : bistRead o s = (.notFound, 0, s) := by
  simp [bistRead, hi, h]

theorem bistRead_of_kept {b : Byte} {bs : List Byte} {p : Payload} (h : sget [] s.bist.results (bistKey i o.sub) = b :: bs)
    (hp : o.payload = some p) : bistRead o s = (.ok, 0, hostWrite p.addr (b :: bs) s) := by
  simp [bistRead, hi, h, hp, writePayload]

theorem bistAbort_of_none (h : s.bist.runs.any (fun r => r.island = (bistIsland i).code && r.sub = o.sub) = false) :
    bistAbort o s = .done .notFound 0 s := by
  simp only [bistAbort, hi, h, Bool.false_eq_true, if_false]

theorem bistAbort_of_run (h : s.bist.runs.any (fun r => r.island = (bistIsland i).code && r.sub = o.sub) = true) :
    bistAbort o s = .going (cutRun (bistIsland i).code o.sub 2 s) := by
  simp only [bistAbort, hi, h, if_true]

end

/-- A test that `cutRun` leaves: its target as it was, the CUT bits it had, and the new one where it was meant. -/
theorem of_mem_cutRun {island sub k : Nat} {s : Chip} {x : BistRun} (hx : x ∈ (cutRun island sub k s).bist.runs) :
    ∃ y ∈ s.bist.runs, y.island = x.island ∧ y.sub = x.sub ∧ (∀ j, bit y.cut j = true → bit x.cut j = true) ∧
      (x.island = island → x.sub = sub → bit x.cut k = true) := by
  obtain ⟨y, hy, rfl⟩ := List.mem_map.1 hx
  refine ⟨y, hy, ?_⟩
  split
  · next h =>
    simp only [Bool.and_eq_true, decide_eq_true_eq, Bool.not_eq_true'] at h
    refine ⟨rfl, rfl, fun j hj => ?_, fun _ _ => ?_⟩
    · rw [bit_add_two_pow h.2, hj, Bool.true_or]
    · rw [bit_add_two_pow h.2, decide_eq_true rfl, Bool.or_true]
  · next h =>
    refine ⟨rfl, rfl, fun _ hj => hj, fun hisl hsub => ?_⟩
    simpa [hisl, hsub] using h

/-- A test loses conditions (R489). -/
def cutLost (r : BistRun) (clock supply : Bool) (s : Chip) : Chip :=
  let t := if clock then cutRun r.island r.sub 0 s else s
  if supply then cutRun r.island r.sub 1 t else t

theorem cut_of_mem_cutLost {r x : BistRun} {clock supply : Bool} {s : Chip} (hx : x ∈ (cutLost r clock supply s).bist.runs)
    (hisl : x.island = r.island) (hsub : x.sub = r.sub) :
    (clock = true → bit x.cut 0 = true) ∧ (supply = true → bit x.cut 1 = true) := by
  cases clock <;> cases supply
  · exact ⟨nofun, nofun⟩
  · obtain ⟨-, -, -, -, -, hcut⟩ := of_mem_cutRun hx
    exact ⟨nofun, fun _ => hcut hisl hsub⟩
  · obtain ⟨-, -, -, -, -, hcut⟩ := of_mem_cutRun hx
    exact ⟨fun _ => hcut hisl hsub, nofun⟩
  · obtain ⟨y, hy, hyisl, hysub, hkeep, hcut⟩ := of_mem_cutRun hx
    obtain ⟨-, -, -, -, -, hclock⟩ := of_mem_cutRun hy
    exact ⟨fun _ => hkeep 0 (hclock (hyisl.trans hisl) (hysub.trans hsub)), fun _ => hcut hisl hsub⟩

theorem cutLost_pkt (r : BistRun) (clock supply : Bool) (s : Chip) : (cutLost r clock supply s).pkt = s.pkt := by
  cases clock <;> cases supply <;> rfl

theorem cutLost_host (r : BistRun) (clock supply : Bool) (s : Chip) : (cutLost r clock supply s).host = s.host := by
  cases clock <;> cases supply <;> rfl

theorem cutLost_live (r : BistRun) (clock supply : Bool) (s : Chip) : (cutLost r clock supply s).live = s.live := by
  cases clock <;> cases supply <;> rfl

/-! The verdict (R488, R492) -/

theorem bistApplied_lt (r : BistRun) (f : BistFind) : bistApplied r f < 2 ^ 48 :=
  lt_of_le_of_lt (min_le_left ..) (Nat.mod_lt _ (by decide))

theorem bistVerdict_ok_iff (sig : Nat) (r : BistRun) (f : BistFind) : bistVerdict sig r f = .ok ↔
    r.cut = 0 ∧ bistApplied r f = f.expected % 2 ^ 48 ∧ f.signature % 2 ^ 32 = sig := by
  unfold bistVerdict
  generalize f.expected % 2 ^ 48 = e
  by_cases h : r.cut = 0 ∧ bistApplied r f = e
  · simp [h.1, h.2]
  · have hshort : (bistApplied r f ≠ e || r.cut ≠ 0) = true := by
      simp only [ne_eq, Bool.or_eq_true, decide_eq_true_eq]
      tauto
    rw [if_pos hshort]
    exact ⟨nofun, fun hpass => absurd ⟨hpass.1, hpass.2.1⟩ h⟩

theorem bistVerdict_of_cut (sig : Nat) {r : BistRun} (h : r.cut ≠ 0) (f : BistFind) : bistVerdict sig r f = .incomplete := by
  simp [bistVerdict, h]

/-! The end of a test (R487, R489, R490) -/

theorem bist_of_kept {s t : Chip} (h : kept t = kept s) : t.bist = s.bist := congrArg (fun k => k.2.2.1) h

theorem resetIsland_bist (i : Isl) (s : Chip) : (resetIsland i s).bist = s.bist := bist_of_kept (resetIsland_kept i s)

/-- The reset of a target is that of one or two islands, or that of a channel. -/
theorem bistReset_eq (i : Isl) (sub type : Nat) (s : Chip) :
    bistReset i sub type s = (bistGroup i).foldl (fun s i => resetIsland i s) s ∨
      type = 5 ∧ ∃ q, bistReset i sub type s = modChan (4 * q + sub) (fun _ => {}) s := by
  cases i
  case quarry q =>
    by_cases h : type = 5
    · exact .inr ⟨h, q, if_pos h⟩
    · exact .inl (by simp [bistReset, h, bistGroup])
  all_goals exact .inl rfl

theorem bistReset_bist (i : Isl) (sub type : Nat) (s : Chip) : (bistReset i sub type s).bist = s.bist := by
  obtain h | ⟨-, q, h⟩ := bistReset_eq i sub type s
  · rw [h]
    exact foldl_keeps (φ := Chip.bist) (f := fun s i => resetIsland i s) (fun s i => resetIsland_bist i s) _ _
  · rw [h, modChan_bist]

theorem bistReset_faults (i : Isl) (sub type : Nat) (s : Chip) : (bistReset i sub type s).faults = s.faults := by
  obtain h | ⟨-, q, h⟩ := bistReset_eq i sub type s
  · rw [h]
    exact foldl_keeps (φ := Chip.faults) (f := fun s i => resetIsland i s) (fun s i => resetIsland_faults i s) _ _
  · rw [h, modChan_faults]

theorem bistReset_of_not_quarry {i : Isl} (hi : ∀ q, i ≠ .quarry q) (sub type : Nat) (s : Chip) :
    bistReset i sub type s = (bistGroup i).foldl (fun s i => resetIsland i s) s := by
  cases i
  case quarry q => exact absurd rfl (hi q)
  all_goals rfl

theorem not_quarry_of_mem_bistGroup {i : Isl} (hi : ∀ q, i ≠ .quarry q) : ∀ j ∈ bistGroup i, ∀ q, j ≠ .quarry q := by
  cases i
  case quarry q => exact absurd rfl (hi q)
  all_goals simp [bistGroup]

theorem resetIslands_host {l : List Isl} (hl : ∀ i ∈ l, ∀ q, i ≠ .quarry q) (s : Chip) :
    (l.foldl (fun s i => resetIsland i s) s).host = s.host := by
  induction l generalizing s with
  | nil => rfl
  | cons i l ih =>
    obtain ⟨hi, hl⟩ := List.forall_mem_cons.1 hl
    exact (ih hl _).trans (resetIsland_host hi s)

/-- Only the reset of a whole Quarry ends Orders: those of its channels in retraining. -/
theorem bistReset_host {i : Isl} {type : Nat} (hi : (∀ q, i ≠ .quarry q) ∨ type = 5) (sub : Nat) (s : Chip) :
    (bistReset i sub type s).host = s.host := by
  by_cases hq : ∀ q, i ≠ .quarry q
  · rw [bistReset_of_not_quarry hq, resetIslands_host (not_quarry_of_mem_bistGroup hq)]
  · obtain ⟨q, hq'⟩ := not_forall.1 hq
    rw [not_not.1 hq', bistReset, if_pos (hi.resolve_left hq), modChan_host]

/-- The record that a test leaves. -/
def recordOf (i : Isl) (r : BistRun) (f : BistFind) (s : Chip) : List Byte :=
  bistRecord r.type r.sub (bistVerdict (bistExpected i r.type) r f) (f.signature % 2 ^ 32) (bistExpected i r.type) (f.durationUs % 2 ^ 32)
    (bistApplied r f) (f.expected % 2 ^ 48) (f.firstFail % 2 ^ 32) r.cut (nowTs s)

theorem take_bistRecord (type sub : Nat) (st : Status) (sig exp dur applied expected firstFail cut time : Nat) :
    (bistRecord type sub st sig exp dur applied expected firstFail cut time).take 4 = leBytes 1 type ++ leBytes 1 sub ++ leBytes 2 st.code := by
  simp only [bistRecord, List.append_assoc]
  rw [← List.append_assoc, ← List.append_assoc]
  exact List.take_left' (by simp)

theorem length_bistRecord (type sub : Nat) (st : Status) (sig exp dur applied expected firstFail cut time : Nat) :
    (bistRecord type sub st sig exp dur applied expected firstFail cut time).length = 48 := by
  simp only [bistRecord, List.length_append, length_leBytes]

/-- The chip without a test that has ended. -/
def withoutRun (r : BistRun) (s : Chip) : Chip :=
  { s with bist := { s.bist with runs := s.bist.runs.filter (fun x => ¬ (x.island = r.island ∧ x.sub = r.sub)) } }

/-- The chip whose target a test has left reset, its record kept. -/
def afterTest (i : Isl) (r : BistRun) (f : BistFind) (s : Chip) : Chip :=
  bistKeep i r.sub (recordOf i r f (withoutRun r s)) (bistReset i r.sub r.type (withoutRun r s))

theorem bistKeep_results (i : Isl) (sub : Nat) (bs : List Byte) (s : Chip) :
    (bistKeep i sub bs s).bist.results = sput [] s.bist.results (bistKey i sub) bs := rfl

theorem results_afterTest (i : Isl) (r : BistRun) (f : BistFind) (s : Chip) :
    sget [] (afterTest i r f s).bist.results (bistKey i r.sub) = recordOf i r f (withoutRun r s) := by
  rw [afterTest, bistKeep_results, sget_sput_self]

theorem runs_afterTest (i : Isl) (r : BistRun) (f : BistFind) (s : Chip) :
    ∀ x ∈ (afterTest i r f s).bist.runs, ¬ (x.island = r.island ∧ x.sub = r.sub) := by
  have hruns : (afterTest i r f s).bist.runs = (withoutRun r s).bist.runs := by
    rw [afterTest, bistKeep, bistReset_bist]
  rw [hruns]
  exact fun x hx => of_decide_eq_true (List.mem_filter.1 hx).2

theorem cabOf_afterTest (i : Isl) (r : BistRun) (f : BistFind) (s : Chip) (j : Isl) : cabOf (afterTest i r f s) j = cabOf s j :=
  cabOf_congr ((bistReset_faults i r.sub r.type (withoutRun r s)).trans rfl) j

theorem bistOrderAt_congr {s t : Chip} (h : t.host = s.host) (r : BistRun) : bistOrderAt t r = bistOrderAt s r := by
  rw [bistOrderAt, ringOf_congr h, bistOrderAt]

theorem bistOrderAt_afterTest {i : Isl} {r : BistRun} (hi : (∀ q, i ≠ .quarry q) ∨ r.type = 5) (f : BistFind) (s : Chip) :
    bistOrderAt (afterTest i r f s) r = bistOrderAt s r :=
  bistOrderAt_congr ((bistReset_host hi r.sub (withoutRun r s)).trans rfl) r

/-- The record goes to the payload of the Order, where that is still at work. -/
def putRecord (r : BistRun) (bs : List Byte) (u : Chip) : Chip :=
  match r.payload with
  | none => u
  | some a => if bistOrderAt u r then hostWrite a bs u else u

/-- The Order of a test takes its status, where it is still at work. -/
def endRun (r : BistRun) (u : Chip) (st : Status) (res : DWord) (t : Chip) : Chip :=
  if bistOrderAt u r then finishOrder r.ring st res t else t

/-- What follows a test whose record `bs` is kept, under its verdict. -/
def concludeTest (i : Isl) (r : BistRun) (f : BistFind) (st : Status) (bs : List Byte) (u : Chip) : Chip :=
  let v := if st = .ok then putRecord r bs u else settle (raise i 0xF0 clsBist 3 (putRecord r bs u))
  let back : Status × Chip := if st = .ok && r.ret then bistReturn i r.sub r.type f.train v else (.ok, v)
  let code := if st = .ok && r.ret then back.1.code else 0
  endAborts i r.sub (endRun r u (if st = .ok && back.1 = .trainFail then .trainFail else st)
    (packD [(48, 16, code), (0, 48, bistApplied r f)]) back.2)

theorem bistFinish_eq (i : Isl) (r : BistRun) (f : BistFind) (s : Chip) : bistFinish i r f s =
    concludeTest i r f (bistVerdict (bistExpected i r.type) r f) (recordOf i r f (withoutRun r s)) (afterTest i r f s) := rfl

theorem packD_applied (r : BistRun) (f : BistFind) :
    packD [(48, 16, 0), (0, 48, bistApplied r f)] = BitVec.ofNat 64 (bistApplied r f) := by
  have h := Nat.mod_eq_of_lt (bistApplied_lt r f)
  simp only [packD, pack, h, Nat.zero_mod, Nat.zero_mul, Nat.zero_add, Nat.pow_zero, Nat.mul_one, Nat.add_zero]

section
variable (i : Isl) (r : BistRun) (f : BistFind) (bs : List Byte) (u : Chip)

theorem concludeTest_of_pass (hret : r.ret = false) : concludeTest i r f .ok bs u =
    endAborts i r.sub (endRun r u .ok (BitVec.ofNat 64 (bistApplied r f)) (putRecord r bs u)) := by
  simp [concludeTest, hret, packD_applied]

theorem concludeTest_of_return (hret : r.ret = true) : concludeTest i r f .ok bs u =
    endAborts i r.sub (endRun r u (if (bistReturn i r.sub r.type f.train (putRecord r bs u)).1 = .trainFail then .trainFail else .ok)
      (packD [(48, 16, (bistReturn i r.sub r.type f.train (putRecord r bs u)).1.code), (0, 48, bistApplied r f)])
      (bistReturn i r.sub r.type f.train (putRecord r bs u)).2) := by
  simp [concludeTest, hret]

theorem concludeTest_of_fail {st : Status} (hst : st ≠ .ok) : concludeTest i r f st bs u =
    endAborts i r.sub (endRun r u st (BitVec.ofNat 64 (bistApplied r f)) (settle (raise i 0xF0 clsBist 3 (putRecord r bs u)))) := by
  simp [concludeTest, hst, packD_applied]

end

/-! A RUN at work -/

/-- An Order at work whose effect has begun. -/
def begin (ring : Nat) (s : Chip) : Chip := modRing ring (fun v => { v with running := v.running.map fun o => { o with begun := true } }) s

section
variable {s : State} {ring : Nat} {o : BistOps} {cond : BistCond} (h : AtWork s ring (.bistRunRun ring o {})) (hn : bistNeeds o s.chip = [])
include h

theorem exec_bistRunRun : exec (.bistRunRun ring o cond) s =
    .next { s with chip := runOrder ring (.bistRunRun ring o {}) (bistNeeds o) (bistRun ring o cond) s.chip } :=
  onUnit_next (decide_eq_true h.1) s _

include hn

theorem ends_of_run {st : Status} {res : DWord} {t : Chip} (he : bistRun ring o cond s.chip = .done st res t) :
    Ends (.bistRunRun ring o cond) s ring st res t := by
  rw [Ends, Becomes, exec_bistRunRun h, runOrder_atWork h _ _ hn, he]

theorem becomes_of_run {t : Chip} (he : bistRun ring o cond s.chip = .going t) : Becomes (.bistRunRun ring o cond) s (begin ring t) := by
  rw [Becomes, exec_bistRunRun h, runOrder_atWork h _ _ hn, he]
  rfl

end

/-! The end of a test as a command -/

theorem becomes_of_test {s : State} {target : BistTarget} {i : Isl} {r : BistRun} (hup : dead s.chip = false)
    (hrun : runOf target s.chip = some (i, r)) (f : BistFind) : Becomes (.bistRunEnd target f) s
      (concludeTest i r f (bistVerdict (bistExpected i r.type) r f) (recordOf i r f (withoutRun r s.chip)) (afterTest i r f s.chip)) := by
  refine becomes_of_onChip (show _ = execBistRunEnd target f s from rfl) ?_
  rw [if_neg (by simp [hup]), hrun]
  exact bistFinish_eq i r f s.chip

theorem becomes_of_lost {s : State} {target : BistTarget} {i : Isl} {r : BistRun} (hup : dead s.chip = false)
    (hrun : runOf target s.chip = some (i, r)) (clock supply : Bool) :
    Becomes (.bistConditionLost target clock supply) s (cutLost r clock supply s.chip) := by
  refine becomes_of_onChip (show _ = execBistConditionLost target clock supply s from rfl) ?_
  rw [if_neg (by simp [hup]), hrun]
  rfl

/-- What the end of a test leaves of its records, its Order and the Cabins. -/
theorem afterTest_keeps (i : Isl) (r : BistRun) (f : BistFind) (s : Chip) :
    (∀ x ∈ (afterTest i r f s).bist.runs, ¬ (x.island = r.island ∧ x.sub = r.sub)) ∧
    ((∀ q, i ≠ .quarry q) ∨ r.type = 5 → bistOrderAt (afterTest i r f s) r = bistOrderAt s r) ∧
    (sget [] (afterTest i r f s).bist.results (bistKey i r.sub)).take 4 =
      leBytes 1 r.type ++ leBytes 1 r.sub ++ leBytes 2 (bistVerdict (bistExpected i r.type) r f).code ∧
    (sget [] (afterTest i r f s).bist.results (bistKey i r.sub)).length = 48 ∧ (∀ j : Isl, cabOf (afterTest i r f s) j = cabOf s j) := by
  rw [results_afterTest, recordOf]
  exact ⟨runs_afterTest i r f s, fun hi => bistOrderAt_afterTest hi f s, take_bistRecord .., length_bistRecord .., cabOf_afterTest i r f s⟩

/-! The statement -/

/-- Settles O58: each OP by its checks, the end of a test by its verdict, and a lost condition by the bits it sets. -/
theorem builtInSelfTest : Obligations.BuiltInSelfTest := by
  unfold Obligations.BuiltInSelfTest
  refine ⟨fun s ring o => ⟨fun e he => ?refused, fun i hi => ⟨fun cond h => ⟨fun hb => ?busy, fun hb hd => ⟨fun hc => ?conditions,
    fun hclock hsupply => ?starts⟩⟩, fun h => ?read, fun h => ?abort⟩⟩, fun s target i r hup hrun => ⟨fun f => ?ends, fun clock supply => ?lost⟩⟩
  case refused =>
    refine ⟨fun cond h => ends_of_run h ?_ ?_, fun h => ends_of_effect rfl h rfl ?_, fun h => ends_of_done (eff := bistAbort o) rfl h rfl ?_⟩
    · rw [bistNeeds, he]
    · rw [bistRun, he]
    · rw [bistRead, he]
    · rw [bistAbort, he]
  case busy => exact ends_of_run h (bistNeeds_of_busy hi hb) (bistRun_of_busy hi hb)
  case conditions => exact ends_of_run h (bistNeeds_of_on hi hb hd) (bistRun_of_conditions hi hb hc)
  case starts =>
    refine ⟨_, becomes_of_run h (bistNeeds_of_on hi hb hd) (bistRun_starts hi hb hclock hsupply), rfl, rfl, rfl, bistRuns_started ..,
      (results_started ..).trans (if_pos rfl), fun k hk => (results_started ..).trans (if_neg hk)⟩
  case read =>
    exact ⟨fun hnone => ends_of_effect rfl h rfl (bistRead_of_none hi hnone),
      fun b bs p hkept hp => ends_of_effect rfl h rfl (bistRead_of_kept hi hkept hp)⟩
  case abort =>
    refine ⟨fun hnone => ends_of_done (eff := bistAbort o) rfl h rfl (bistAbort_of_none hi hnone), fun hany => ?_⟩
    obtain ⟨u, run, hu, hbecomes, hrunning, -, hbegun⟩ := begun_of_going (eff := bistAbort o) rfl h rfl (bistAbort_of_run hi hany) rfl
    subst hu
    refine ⟨_, ⟨hbecomes, run, hrunning, hbegun⟩, fun r hr hhit => ?_, rfl, rfl⟩
    obtain ⟨-, -, -, -, -, hcut⟩ := of_mem_cutRun hr
    simp only [Bool.and_eq_true, decide_eq_true_eq] at hhit
    exact hcut hhit.1 hhit.2
  case ends =>
    have hend := becomes_of_test hup hrun f
    have hkept := afterTest_keeps i r f s.chip
    have hrec := results_afterTest i r f s.chip
    refine ⟨bistVerdict_ok_iff _ r f, fun hcut => bistVerdict_of_cut _ hcut f, fun hok hret => ⟨_, hkept, ?_⟩, fun hok hret => ⟨_, hkept, ?_⟩,
      fun hfail => ⟨_, hkept, ?_⟩⟩
    · rw [hok, concludeTest_of_pass i r f _ _ hret, ← hrec] at hend
      exact hend
    · rw [hok, concludeTest_of_return i r f _ _ hret, ← hrec] at hend
      exact hend
    · rw [concludeTest_of_fail i r f _ _ hfail, ← hrec] at hend
      exact hend
  case lost =>
    exact ⟨_, becomes_of_lost hup hrun clock supply, fun x hx hisl hsub => cut_of_mem_cutLost hx hisl hsub, cutLost_pkt .., cutLost_host ..,
      cutLost_live ..⟩

end Sys2Proof.Machine
end
